-- ==== Sys2Proof/Word.lean ====
section
/-!
DEFINITION. The word types: a byte and the 64-bit word of g registers, addresses and instruction
words (R6, R10, R44).
-/
namespace Sys2Proof

/-- A byte (R6). -/
abbrev Byte := BitVec 8
/-- A 64-bit word: a g register, an address, an instruction word (R10, R44). -/
abbrev Word := BitVec 64

end Sys2Proof
end

