-- ==== Sys2Proof/Syntax.lean ====
section
/-!
DEFINITION. The instruction set as syntax: field codes (R61 to R63), operands (R59, R60), the header
(R47) and the one inductive `Instr`, a constructor for each row of spec/opcode_table.json. The first
161 constructors are the encoded instructions of R64 to R66 (each carries its header); the others are
the steps that the engines, the memory system, the control complex and the outside take, with what
the outside supplies as operands.
-/
namespace Sys2Proof

/-- A 6-bit g field (R59). -/
abbrev G := BitVec 6
/-- A 3-bit p or b field (R59). -/
abbrev P := BitVec 3

/-- The type code TY (R61). -/
inductive Ty where
  | f32   -- FP32
  | bf16   -- BF16
  | f16   -- FP16
  | e4m3   -- FP8 E4M3
  | e5m2   -- FP8 E5M2
  | e3m2   -- FP6 E3M2
  | e2m3   -- FP6 E2M3
  | e2m1   -- FP4 E2M1
  | s8   -- signed 8-bit
  | n8   -- natural 8-bit
  | s16   -- signed 16-bit
  | n16   -- natural 16-bit
  | s32   -- signed 32-bit
  | n32   -- natural 32-bit
  | s4   -- signed 4-bit
  | s64   -- signed 64-bit pair
  deriving DecidableEq, Repr

/-- The field code of a `Ty`. -/
def Ty.code : Ty → BitVec 4
  | .f32 => 0
  | .bf16 => 1
  | .f16 => 2
  | .e4m3 => 3
  | .e5m2 => 4
  | .e3m2 => 5
  | .e2m3 => 6
  | .e2m1 => 7
  | .s8 => 8
  | .n8 => 9
  | .s16 => 10
  | .n16 => 11
  | .s32 => 12
  | .n32 => 13
  | .s4 => 14
  | .s64 => 15

/-- The `Ty` of a field code; every code is assigned. -/
def Ty.of (v : BitVec 4) : Ty :=
  match v.toNat with
  | 0 => .f32
  | 1 => .bf16
  | 2 => .f16
  | 3 => .e4m3
  | 4 => .e5m2
  | 5 => .e3m2
  | 6 => .e2m3
  | 7 => .e2m1
  | 8 => .s8
  | 9 => .n8
  | 10 => .s16
  | 11 => .n16
  | 12 => .s32
  | 13 => .n32
  | 14 => .s4
  | _ => .s64

/-- The access size SZ (R62). -/
inductive Sz where
  | s8   -- 
  | n8   -- 
  | s16   -- 
  | n16   -- 
  | s32   -- 
  | n32   -- 
  | b64   -- 
  deriving DecidableEq, Repr

/-- The field code of a `Sz`. -/
def Sz.code : Sz → BitVec 3
  | .s8 => 0
  | .n8 => 1
  | .s16 => 2
  | .n16 => 3
  | .s32 => 4
  | .n32 => 5
  | .b64 => 6

/-- The `Sz` of a field code; reserved codes have none. -/
def Sz.of? (v : BitVec 3) : Option Sz :=
  match v.toNat with
  | 0 => some .s8
  | 1 => some .n8
  | 2 => some .s16
  | 3 => some .n16
  | 4 => some .s32
  | 5 => some .n32
  | 6 => some .b64
  | _ => none

/-- The memory scope SCOPE (R62, R252). -/
inductive Scope where
  | strm   -- the issuing stream
  | core   -- 
  | gang   -- 
  | die   -- 
  | dev   -- 
  | sys   -- 
  deriving DecidableEq, Repr

/-- The field code of a `Scope`. -/
def Scope.code : Scope → BitVec 3
  | .strm => 0
  | .core => 1
  | .gang => 2
  | .die => 3
  | .dev => 4
  | .sys => 5

/-- The `Scope` of a field code; reserved codes have none. -/
def Scope.of? (v : BitVec 3) : Option Scope :=
  match v.toNat with
  | 0 => some .strm
  | 1 => some .core
  | 2 => some .gang
  | 3 => some .die
  | 4 => some .dev
  | 5 => some .sys
  | _ => none

/-- The order of an atomic (R62, R122). -/
inductive Ord where
  | rlx   -- relaxed
  | acq   -- acquire
  | rel   -- release
  | ar   -- acquire and release
  deriving DecidableEq, Repr

/-- The field code of a `Ord`. -/
def Ord.code : Ord → BitVec 2
  | .rlx => 0
  | .acq => 1
  | .rel => 2
  | .ar => 3

/-- The `Ord` of a field code; every code is assigned. -/
def Ord.of (v : BitVec 2) : Ord :=
  match v.toNat with
  | 0 => .rlx
  | 1 => .acq
  | 2 => .rel
  | _ => .ar

/-- The atomic operation OP (R62, R121). -/
inductive AmoOp where
  | add   -- 
  | and   -- 
  | or   -- 
  | xor   -- 
  | min   -- 
  | max   -- 
  | minn   -- 
  | maxn   -- 
  | xchg   -- 
  | fadd   -- 
  deriving DecidableEq, Repr

/-- The field code of a `AmoOp`. -/
def AmoOp.code : AmoOp → BitVec 4
  | .add => 0
  | .and => 1
  | .or => 2
  | .xor => 3
  | .min => 4
  | .max => 5
  | .minn => 6
  | .maxn => 7
  | .xchg => 8
  | .fadd => 9

/-- The `AmoOp` of a field code; reserved codes have none. -/
def AmoOp.of? (v : BitVec 4) : Option AmoOp :=
  match v.toNat with
  | 0 => some .add
  | 1 => some .and
  | 2 => some .or
  | 3 => some .xor
  | 4 => some .min
  | 5 => some .max
  | 6 => some .minn
  | 7 => some .maxn
  | 8 => some .xchg
  | 9 => some .fadd
  | _ => none

/-- The kind of a fence (R62, R120). -/
inductive FKind where
  | full   -- 
  | st   -- stores
  | ld   -- loads
  | eng   -- full plus engine effects
  deriving DecidableEq, Repr

/-- The field code of a `FKind`. -/
def FKind.code : FKind → BitVec 3
  | .full => 0
  | .st => 1
  | .ld => 2
  | .eng => 3

/-- The `FKind` of a field code; reserved codes have none. -/
def FKind.of? (v : BitVec 3) : Option FKind :=
  match v.toNat with
  | 0 => some .full
  | 1 => some .st
  | 2 => some .ld
  | 3 => some .eng
  | _ => none

/-- The space of a counted object (R14). -/
inductive Spc where
  | t   -- tile register
  | o   -- operand slot
  | a   -- accumulator bank
  | f   -- ABF frame
  deriving DecidableEq, Repr

/-- The field code of a `Spc`. -/
def Spc.code : Spc → BitVec 2
  | .t => 0
  | .o => 1
  | .a => 2
  | .f => 3

/-- The `Spc` of a field code; every code is assigned. -/
def Spc.of (v : BitVec 2) : Spc :=
  match v.toNat with
  | 0 => .t
  | 1 => .o
  | 2 => .a
  | _ => .f

/-- The control and status registers (R63). -/
inductive Csr where
  | fpc   -- 
  | flg   -- 
  | seed   -- 
  | win   -- 
  | tid   -- 
  | cyc   -- 
  | finfo   -- 
  | evb   -- 
  deriving DecidableEq, Repr

/-- The field code of a `Csr`. -/
def Csr.code : Csr → BitVec 4
  | .fpc => 0
  | .flg => 1
  | .seed => 2
  | .win => 3
  | .tid => 4
  | .cyc => 5
  | .finfo => 6
  | .evb => 7

/-- The `Csr` of a field code; reserved codes have none. -/
def Csr.of? (v : BitVec 33) : Option Csr :=
  match v.toNat with
  | 0 => some .fpc
  | 1 => some .flg
  | 2 => some .seed
  | 3 => some .win
  | 4 => some .tid
  | 5 => some .cyc
  | 6 => some .finfo
  | 7 => some .evb
  | _ => none

/-- The condition of a `VCMP` (R65). -/
inductive Cond where
  | eq   -- 
  | ne   -- 
  | lt   -- 
  | le   -- 
  | gt   -- 
  | ge   -- 
  deriving DecidableEq, Repr

/-- The field code of a `Cond`. -/
def Cond.code : Cond → BitVec 3
  | .eq => 0
  | .ne => 1
  | .lt => 2
  | .le => 3
  | .gt => 4
  | .ge => 5

/-- The `Cond` of a field code; reserved codes have none. -/
def Cond.of? (v : BitVec 3) : Option Cond :=
  match v.toNat with
  | 0 => some .eq
  | 1 => some .ne
  | 2 => some .lt
  | 3 => some .le
  | 4 => some .gt
  | 5 => some .ge
  | _ => none

/-- The header of a first word but for L, MAJ and MIN, which the instruction decides (R47). -/
structure Header where
  sp  : Bool := false          -- safe point (R51)
  gap : BitVec 2 := 0          -- idle cycles after issue (R49)
  sw  : Bool := false          -- switch away (R50)
  prd : P := 0                 -- guard predicate (R48)
  pn  : Bool := false          -- the guard is the negation of PRD
  deriving DecidableEq, Repr

/-- A counted source: an object index and its tag (R57, R60). -/
structure Src where
  obj : BitVec 8
  tag : BitVec 6
  deriving DecidableEq, Repr

/-- A counted destination: an object index and its declared count, 15 for held (R57, R60). -/
structure Dst where
  obj : BitVec 8
  rc  : BitVec 4
  deriving DecidableEq, Repr

/-- OPT[25:0] of the MMA family (R191 to R197). -/
structure MmaOpt where
  mm1 : BitVec 6     -- M - 1
  nm1 : BitVec 6     -- N - 1
  kq  : BitVec 7     -- K = 8 (KQ + 1)
  acc : Bool         -- add to the bank, or replace
  mx  : Bool         -- both operands are MX
  tyb : BitVec 4     -- B's type, 0 for A's
  sn  : Bool         -- MMAS: 8 of 32 kept
  deriving DecidableEq, Repr

/-- The engines of a core, in the order of FINFO.ENG 1 to 4 (R99). -/
inductive Eng where
  | vec | mat | cpy | near
  deriving DecidableEq, Repr

/-- What a wait limit is measured on (R292): a stream held at its next instruction, an operation at
its queue head, or an operation whose publish is held. -/
inductive Waiter where
  | stream (c n : Nat)
  | op (u : Nat)
  deriving DecidableEq, Repr

/-- Where a location has its home (R252): device memory of the partition of an owner code, host
memory, or the memory of a peer. -/
inductive Home where
  | dev (owner : Nat) | host | peer (dev : Nat)
  deriving DecidableEq, Repr

/-- A location: a home and an address there. -/
structure Loc where
  home : Home
  addr : Nat
  deriving DecidableEq, Repr

/-- How a collective ends (R228, R370, R371): its steps are done, with what the other members report (whether a step was
rerouted, and whether one overflowed or was invalid), or a member's block disagreed. -/
inductive CollEnd where
  | ok (rerouted overflow invalid : Bool) | mismatch
  deriving DecidableEq, Repr

/-- The on-chip storage in which an error is met (R334). -/
inductive ErrStore where
  | obj (spc : Spc) | side | spill | count | cache | shadow (frame : Bool) | sideShadow
  deriving DecidableEq, Repr

/-- What a KEYSET installs (R317). -/
inductive KeyUse where
  | balua (out : Bool) | ckpt (ctx : Nat)
  deriving DecidableEq, Repr

/-- A host access through BAR2 (R356). -/
inductive HostOp where
  | read | write | atomic
  deriving DecidableEq, Repr

/-- A flit (R363): its fields, with DATA in the clear as the target address, an operation, a length, a compared value and up
to 200 bytes of payload (DESIGN CHOICE, assumption 62). -/
structure Flit where
  dst  : BitVec 16
  src  : BitVec 16
  typ  : BitVec 8
  ten  : BitVec 8
  lseq : BitVec 16
  txid : BitVec 32
  crc  : BitVec 32
  addr : BitVec 64      -- target address, or trigger entry; TYPE 8: the link sequence number that it names
  op   : BitVec 8       -- TYPE 4: the atomic operation, 10 for compare and swap; TYPE 8 and 9: 1 for a refusal
  size : BitVec 8       -- bytes of the payload
  cmp  : BitVec 64
  data : BitVec 1600
  tag  : BitVec 128
  deriving DecidableEq, Repr

/-- A code object that the loader registers (R86, R347): its number, its text range, and of each safe point, in address order, the
address and the live map. -/
structure CodeObj where
  num  : Nat
  lo   : Nat
  hi   : Nat
  sps  : List Nat
  live : List Nat := []
  deriving DecidableEq, Repr

/-- The registers that `REGISTER_WRITE` reaches (R357): those without a behaviour of their own; the loader's registration of a code
object (R347); a write or a read of BAR0 by its offset; PMCSR of physical function 0 (R373); and the debug window on a task slot (R329). -/
inductive HostReg where
  | sqbase (q : Nat) | fqbase | fqctl | ydl (ctx : Nat) | grptab (ctx : Nat) | bp (ctx i : Nat)
  | dbgctl (ctx : Nat) | trbuf (ctx : Nat) | sampctl (ctx : Nat) | dumpctl (ctx : Nat) | dumpbuf (ctx : Nat)
  | cklog | mcring | tsctl | tsbuf | domain | msix (i : Nat) | bar (i : Nat)
  | codeObj (ctx : Nat) (o : CodeObj) | at (off : Nat) | load (off : Nat) | pmcsr | window (c k : Nat)
  deriving DecidableEq, Repr

/-- The on-chip stores of a core that Salend reads and writes (R325): an object's front or shadow, a side array's front or
shadow, an object's count record, a barrier's record, of a stream its register record, its rounding states, its spill memory
and its stream registers, a slot's allocation map, and a line of the record cache, the core's translation cache or its cluster's. -/
inductive ChipStore where
  | front (spc : Spc) | shadow (spc : Spc) | side (shadow : Bool) | count (spc : Spc) | bar | sreg | lanes | spill | ports
  | alloc | record | trans (cluster : Bool)
  deriving DecidableEq, Repr

/-- The commands of the Salend port (R325, R329, R347). -/
inductive Salend where
  | readTelemetry
  | readTrace (ctx off : Nat)
  | stopCore (c : Nat)
  | resumeCore (c : Nat)
  | stopContext (ctx : Nat)
  | resumeContext (ctx : Nat)
  | readReport (c k : Nat)
  | debugReg (r : HostReg) (v : Word)
  | ttrig (ctx : Nat) (v : Word)
  | readMem (l : Loc)
  | writeMem (l : Loc) (b : Byte)
  | readChip (c : Nat) (st : ChipStore) (idx : Nat)
  | writeChip (c : Nat) (st : ChipStore) (idx : Nat) (v : Nat)
  | haltControl
  | place (c n : Nat) (pc : Word)
  deriving DecidableEq, Repr

/-- The instructions and steps: one constructor for each row of spec/opcode_table.json. -/
inductive Instr where
  | nop (h : Header)
  | halt (h : Header)
  | rdcs (h : Header) (gd : G) (r : Csr)
  | wrcs (h : Header) (r : Csr) (ga : G)
  | setfpc (h : Header) (img : BitVec 14)
  | rdcyc (h : Header) (gd : G)
  | brkpt (h : Header)
  | tlbinv (h : Header) (ga : G) (kind : BitVec 33)
  | ctxsave (h : Header) (ga : G)
  | ctxload (h : Header) (ga : G)
  | add (h : Header) (gd : G) (ga : G) (gb : G)
  | sub (h : Header) (gd : G) (ga : G) (gb : G)
  | mul (h : Header) (gd : G) (ga : G) (gb : G)
  | mulh (h : Header) (gd : G) (ga : G) (gb : G)
  | mulhn (h : Header) (gd : G) (ga : G) (gb : G)
  | div (h : Header) (gd : G) (ga : G) (gb : G)
  | divn (h : Header) (gd : G) (ga : G) (gb : G)
  | and (h : Header) (gd : G) (ga : G) (gb : G)
  | or (h : Header) (gd : G) (ga : G) (gb : G)
  | xor (h : Header) (gd : G) (ga : G) (gb : G)
  | andn (h : Header) (gd : G) (ga : G) (gb : G)
  | shl (h : Header) (gd : G) (ga : G) (gb : G)
  | shr (h : Header) (gd : G) (ga : G) (gb : G)
  | sra (h : Header) (gd : G) (ga : G) (gb : G)
  | min (h : Header) (gd : G) (ga : G) (gb : G)
  | max (h : Header) (gd : G) (ga : G) (gb : G)
  | clz (h : Header) (gd : G) (ga : G)
  | popc (h : Header) (gd : G) (ga : G)
  | sel (h : Header) (gd : G) (ga : G) (gb : G) (ps : P)
  | addi (h : Header) (gd : G) (ga : G) (imm : BitVec 33)
  | muli (h : Header) (gd : G) (ga : G) (imm : BitVec 33)
  | andi (h : Header) (gd : G) (ga : G) (imm : BitVec 33)
  | ori (h : Header) (gd : G) (ga : G) (imm : BitVec 33)
  | xori (h : Header) (gd : G) (ga : G) (imm : BitVec 33)
  | shli (h : Header) (gd : G) (ga : G) (imm : BitVec 33)
  | shri (h : Header) (gd : G) (ga : G) (imm : BitVec 33)
  | srai (h : Header) (gd : G) (ga : G) (imm : BitVec 33)
  | li (h : Header) (gd : G) (imm : BitVec 33)
  | lih (h : Header) (gd : G) (imm : BitVec 33)
  | cmpeq (h : Header) (pd : P) (ga : G) (gb : G)
  | cmpne (h : Header) (pd : P) (ga : G) (gb : G)
  | cmplt (h : Header) (pd : P) (ga : G) (gb : G)
  | cmple (h : Header) (pd : P) (ga : G) (gb : G)
  | cmpltn (h : Header) (pd : P) (ga : G) (gb : G)
  | cmplen (h : Header) (pd : P) (ga : G) (gb : G)
  | cmpeqi (h : Header) (pd : P) (ga : G) (imm : BitVec 27)
  | cmplti (h : Header) (pd : P) (ga : G) (imm : BitVec 27)
  | cmpltni (h : Header) (pd : P) (ga : G) (imm : BitVec 27)
  | pand (h : Header) (pd : P) (pa : P) (pb : P)
  | por (h : Header) (pd : P) (pa : P) (pb : P)
  | pxor (h : Header) (pd : P) (pa : P) (pb : P)
  | pnot (h : Header) (pd : P) (pa : P)
  | ld (h : Header) (sz : Sz) (g : G) (ga : G) (disp : BitVec 30)
  | st (h : Header) (sz : Sz) (g : G) (ga : G) (disp : BitVec 30)
  | lda (h : Header) (sz : Sz) (g : G) (ga : G) (disp : BitVec 30)
  | sta (h : Header) (sz : Sz) (g : G) (ga : G) (disp : BitVec 30)
  | spld (h : Header) (g : G) (off : BitVec 30)
  | spst (h : Header) (g : G) (off : BitVec 30)
  | lsmark (h : Header)
  | waitc (h : Header) (l : BitVec 6) (s : BitVec 6) (c : BitVec 6) (t : BitVec 6)
  | fence (h : Header) (sc : Scope) (kind : FKind)
  | amo (h : Header) (op : AmoOp) (w64 : Bool) (sc : Scope) (ord : Ord) (gd : G) (ga : G) (gb : G)
  | cas (h : Header) (w64 : Bool) (sc : Scope) (ord : Ord) (gd : G) (ga : G) (gb : G)
  | amoa (h : Header) (op : AmoOp) (w64 : Bool) (sc : Scope) (ord : Ord) (gd : G) (ga : G) (gb : G)
  | casa (h : Header) (w64 : Bool) (sc : Scope) (ord : Ord) (gd : G) (ga : G) (gb : G)
  | pbr (h : Header) (bt : P) (off : BitVec 33)
  | pbrg (h : Header) (bt : P) (ga : G)
  | br (h : Header) (bt : P)
  | brl (h : Header) (bt : P) (gl : G)
  | trap (h : Header) (code : BitVec 8)
  | tfence (h : Header)
  | yield (h : Header) (clean : Bool) (mask : BitVec 32)
  | eret (h : Header)
  | twait (h : Header) (spc : Spc) (x : Src)
  | drop (h : Header) (spc : Spc) (x : Src)
  | bump (h : Header) (spc : Spc) (x : Dst)
  | tsync (h : Header) (spc : Spc) (obj : BitVec 8)
  | trel (h : Header) (spc : Spc) (obj : BitVec 8)
  | tview (h : Header) (gd : G) (spc : Spc) (obj : BitVec 8)
  | barinit (h : Header) (bar : BitVec 8) (count : BitVec 18) (gang : Bool)
  | bararr (h : Header) (bar : BitVec 8)
  | barwait (h : Header) (bar : BitVec 8)
  | barsync (h : Header) (bar : BitVec 8)
  | vadd (h : Header) (ty : Ty) (d : Dst) (a : Src) (b : Src)
  | vsub (h : Header) (ty : Ty) (d : Dst) (a : Src) (b : Src)
  | vmul (h : Header) (ty : Ty) (d : Dst) (a : Src) (b : Src)
  | vmin (h : Header) (ty : Ty) (d : Dst) (a : Src) (b : Src)
  | vmax (h : Header) (ty : Ty) (d : Dst) (a : Src) (b : Src)
  | vand (h : Header) (ty : Ty) (d : Dst) (a : Src) (b : Src)
  | vor (h : Header) (ty : Ty) (d : Dst) (a : Src) (b : Src)
  | vxor (h : Header) (ty : Ty) (d : Dst) (a : Src) (b : Src)
  | vshl (h : Header) (ty : Ty) (d : Dst) (a : Src) (b : Src)
  | vshr (h : Header) (ty : Ty) (d : Dst) (a : Src) (b : Src)
  | vsra (h : Header) (ty : Ty) (d : Dst) (a : Src) (b : Src)
  | vwmul (h : Header) (ty : Ty) (d : Dst) (a : Src) (b : Src)
  | vwadd (h : Header) (ty : Ty) (d : Dst) (a : Src) (b : Src)
  | vfma (h : Header) (ty : Ty) (d : Dst) (a : Src) (b : Src) (c : Src)
  | vabs (h : Header) (ty : Ty) (d : Dst) (a : Src)
  | vneg (h : Header) (ty : Ty) (d : Dst) (a : Src)
  | vnot (h : Header) (ty : Ty) (d : Dst) (a : Src)
  | vcmp (h : Header) (cond : Cond) (ty : Ty) (d : Dst) (a : Src) (b : Src)
  | vsel (h : Header) (ty : Ty) (d : Dst) (a : Src) (b : Src) (c : Src)
  | vbcast (h : Header) (ty : Ty) (d : Dst) (gb : G)
  | vlane (h : Header) (ty : Ty) (gd : BitVec 8) (a : Src) (gb : G) (imm : BitVec 9)
  | vperm (h : Header) (d : Dst) (a : Src) (b : Src)
  | viota (h : Header) (ty : Ty) (d : Dst)
  | vexp2 (h : Header) (d : Dst) (a : Src)
  | vrcp (h : Header) (d : Dst) (a : Src)
  | vrsq (h : Header) (d : Dst) (a : Src)
  | vsqrt (h : Header) (d : Dst) (a : Src)
  | vcvt (h : Header) (toT : Ty) (fr : Ty) (rnd : BitVec 3) (d : Dst) (a : Src)
  | vquant (h : Header) (ty : Ty) (src : BitVec 4) (d : Dst) (a : Src)
  | vquant2 (h : Header) (ty : Ty) (d : Dst) (c : Dst) (a : Src)
  | vdeq (h : Header) (ty : Ty) (toT : BitVec 4) (d : Dst) (a : Src)
  | vsclr (h : Header) (d : Dst)
  | vstat (h : Header) (lg : BitVec 4) (d : Dst) (a : Src) (b : Src)
  | vstatw (h : Header) (lg : BitVec 4) (d : Dst) (a : Src) (b : Src) (c : Src)
  | vsmerge (h : Header) (d : Dst) (a : Src) (b : Src)
  | vsdrain (h : Header) (opt : BitVec 3) (fill : Bool) (d : Dst) (a : Src) (b : Src)
  | vsdrainNorm (h : Header) (fill : Bool) (d : Dst) (a : Src) (b : Src) (c : Src) (eps : BitVec 32) (aff : Bool) (lg : BitVec 3)
  | vredmax (h : Header) (ty : Ty) (d : Dst) (a : Src)
  | vredmin (h : Header) (ty : Ty) (d : Dst) (a : Src)
  | vhist (h : Header) (d : Dst) (a : Src) (b : Src)
  | vrank (h : Header) (d : Dst) (a : Src) (b : Src)
  | vamerge (h : Header) (d : Dst) (a : Src) (b : Src)
  | vafin (h : Header) (d : Dst) (a : Src)
  | vld (h : Header) (ty : Ty) (d : Dst) (a : Src) (gb : G) (imm : BitVec 9)
  | vst (h : Header) (d : Dst) (gb : G) (imm : BitVec 9) (a : Src)
  | vlds (h : Header) (ty : Ty) (d : Dst) (a : Src) (gb : G) (imm : BitVec 9) (stride : BitVec 16) (count : BitVec 10)
  | vgath (h : Header) (ty : Ty) (d : Dst) (a : Src) (b : Src)
  | vscat (h : Header) (ty : Ty) (d : Dst) (a : Src) (b : Src)
  | vldo (h : Header) (d : Dst) (a : Src) (row : BitVec 9)
  | vsto (h : Header) (d : Dst) (row : BitVec 9) (a : Src)
  | vqrd (h : Header) (d : Dst) (qn : BitVec 9)
  | mma (h : Header) (ty : Ty) (d : Dst) (a : Src) (b : Src) (o : MmaOpt)
  | mmas (h : Header) (ty : Ty) (d : Dst) (a : Src) (b : Src) (o : MmaOpt)
  | mgath (h : Header) (ty : Ty) (d : Dst) (a : Src) (b : Src) (ti : Src) (tj : Src) (o : MmaOpt) (pm1 : BitVec 2)
  | mgroup (h : Header) (ty : Ty) (d : Dst) (a : Src) (b : Src) (fx : Src) (off9 : BitVec 9) (o : MmaOpt)
  | acalloc (h : Header) (gd : G) (count : BitVec 7)
  | acfree (h : Header) (obj : BitVec 8)
  | acband (h : Header) (obj : BitVec 8) (bands : BitVec 4) (strms : BitVec 8)
  | aczero (h : Header) (d : Dst)
  | acdrain (h : Header) (ty : Ty) (band : BitVec 2) (now : Bool) (rnd : BitVec 2) (relu : Bool) (d : Dst) (a : Src)
  | acfill (h : Header) (band : BitVec 2) (d : Dst) (a : Src)
  | cp (h : Header) (spc : Spc) (d : Dst) (gs : G) (gc : G) (doff : BitVec 7) (part : Bool)
  | cpst (h : Header) (spc : Spc) (gs : G) (gc : G) (a : Src) (band : BitVec 2)
  | cpg (h : Header) (d : Dst) (gs : G) (c : Src)
  | cps (h : Header) (gs : G) (a : Src) (c : Src)
  | cpq (h : Header) (qn : BitVec 8) (gs : G) (gc : G)
  | cppub (h : Header) (spc : Spc) (obj : BitVec 8)
  | rfence (h : Header)
  | qpost (h : Header) (d : Dst) (c : Src) (gk : G) (gl : G) (qn : BitVec 4) (sigma : BitVec 32)
  | kvapp (h : Header) (gk : G) (gp : G) (a : Src)
  | coll (h : Header) (d : Dst) (gb : G)
  | trigarm (h : Header) (gi : G) (gb : G)
  | trigclr (h : Header) (gi : G)
  | tsend (h : Header) (gdev : G) (gi : G)
  | nextit (h : Header) (pd : P)
  | done (h : Header)
  | spawn (h : Header) (ga : G)
  | signal (h : Header) (ga : G)
  | pendingValueArrival (c : Nat) (n : Nat) (k : Nat)   -- core c, stream n: the k-th result in flight arrives
  | accessPerformed (c : Nat) (n : Nat) (k : Nat)   -- core c, stream n: the k-th queued access is performed
  | targetFetchReady (c : Nat) (n : Nat) (b : Nat)   -- core c, stream n: the fetch of b register b completes
  | engineStart (c : Nat) (e : Eng)   -- engine e of core c starts its oldest eligible head
  | readRetire (u : Nat)   -- operation u has read the last byte of its sources
  | kStep (c : Nat)   -- the running matrix operation of core c completes one K-step
  | copyElementStep (u : Nat)   -- copy u completes one element step
  | operationCommit (u : Nat)   -- operation u commits
  | shadowPublish (c : Nat) (spc : Spc) (idx : Nat)   -- the physical slot or frame idx of core c publishes
  | barrierRelease (c : Nat) (bar : Nat)   -- streams waiting on physical barrier bar of core c are released
  | waitLimitExpiry (w : Waiter)   -- the wait w exceeds its task's limit
  | stackScan (u : Nat) (k : Nat)   -- partition stack k scans for QPOST u
  | stackPartialReturn (u : Nat) (k : Nat)   -- stack k's partial of QPOST u lands and its two frames publish
  | qpostAnswerComplete (u : Nat)   -- all 16 frames of QPOST u have published
  | kvappPerformed (u : Nat)   -- the record of KVAPP u is performed
  | collReceiveReduceStep (u : Nat) (i : Nat) (part : List (BitVec 32))   -- the partial received for element i of collective u meets the local one
  | collComplete (u : Nat) (o : CollEnd)   -- collective u ends
  | collMemberTimeout (u : Nat)   -- a member of collective u stayed unreachable for 100 ms
  | triggerPacketArrival (stack : Nat) (entry : Nat)   -- a trigger packet for an entry arrives
  | triggerCommandStart (stack : Nat)   -- a stack launches its next triggered command
  | triggerCommandComplete (stack : Nat)   -- the running triggered command's writes are performed
  | kernelComplete (lid : Nat)   -- every instance of launch lid has ended
  | sqEntryRead (q : Nat)   -- the sequencer reads the ring entry at HEAD of queue q
  | dispatchPlace (die : Nat)   -- the dispatcher of a die places one gang instance
  | victimSelection (die : Nat)   -- the dispatcher of a die chooses victims for its head
  | shuttleAssign (lid : Nat)   -- the shuttle of launch lid serves one request
  | nextitAnswer (c : Nat) (n : Nat)   -- the assignment of core c, stream n arrives
  | taskYield (c : Nat) (k : Nat)   -- the task in slot k of core c yields
  | yieldDeadlineExpiry (c : Nat) (k : Nat)   -- the yield deadline of the task in slot k of core c expires
  | scanOut (c : Nat) (k : Nat)   -- the gated task in slot k of core c is scanned out
  | taskRestore (token : Nat)   -- a gated task is placed again
  | faultStop (c : Nat) (k : Nat)   -- the streams and engines of the faulting task stop
  | faultVectoring (c : Nat) (k : Nat)   -- the frame page is written and the handler entered
  | faultQueueEntry (f : Nat)   -- the next entry of function f's fault queue is written
  | fqcmdResume (f : Nat) (token : Nat)   -- FQCMD operation 1
  | fqcmdTerminate (f : Nat) (token : Nat)   -- FQCMD operation 2
  | fqheadWrite (f : Nat) (v : BitVec 16)   -- the host records consumed entries
  | eccCorrectableFreeze (c : Nat)   -- a correctable error freezes core c
  | eccFreezeEnd (c : Nat)   -- the freeze of core c ends
  | onchipUncorrectableError (c : Nat) (st : ErrStore) (idx : Nat)   -- an uncorrectable error in a store of core c
  | patrolScrub (stack : Nat) (loc : Loc) (corr : Bool)   -- patrol scrub meets an error in a sector
  | bankSpare (stack : Nat) (die : Nat) (bank : Nat)   -- the failing rows of a bank are replaced
  | refresh (stack : Nat) (bank : Nat)   -- a per-bank refresh
  | debugStopped (ctx : Nat)   -- every stream and engine of the context has stopped
  | breakpointHit (c : Nat) (n : Nat)   -- core c, stream n reaches an armed breakpoint
  | telemetryTick   -- a time-series tick
  | dumpWrite (ctx : Nat)   -- the requested core dump of a context is written
  | checkpointEpochBegin (f : Nat)   -- an epoch of the partition of owner f begins
  | checkpointEpochComplete (f : Nat)   -- an epoch of the partition of owner f is copied out
  | replay (f : Nat) (ep : Nat)   -- replay of epoch ep of the partition of owner f
  | scrubComplete (q : Nat)   -- the scrub of quarter q ends
  | e2eResend (port : Nat)   -- unacknowledged requests of a down port are resent
  | ingressRequest (port : Nat) (fl : Flit)   -- a request flit stands at an ingress port
  | partmapWrite (v : BitVec 32)   -- PF0 writes PARTMAP
  | qmapWrite (v : BitVec 64)   -- PF0 writes QMAP
  | ctxbindWrite (ctx : Nat) (v : BitVec 64)   -- PF0 writes CTXBIND of a context
  | ctxrootWrite (f : Nat) (ctx : Nat) (v : BitVec 64)   -- function f writes CTXROOT of a context
  | savepoolWrite (f : Nat) (ctx : Nat) (v : BitVec 64)   -- function f writes SAVEPOOL of a context
  | contextEvbWrite (f : Nat) (ctx : Nat) (v : BitVec 64)   -- function f writes EVB of a context
  | sqctlWrite (f : Nat) (q : Nat) (v : BitVec 64)   -- function f writes SQCTL of queue q
  | dbell (f : Nat) (q : Nat) (v : BitVec 32)   -- function f rings the doorbell of queue q
  | dbgctlStop (f : Nat) (ctx : Nat)   -- function f writes DBGCTL.STOP
  | dbgctlForce (f : Nat) (ctx : Nat)   -- function f writes DBGCTL.FORCE
  | dbgctlGo (f : Nat) (ctx : Nat)   -- function f writes DBGCTL.GO
  | ttrigWrite (f : Nat) (ctx : Nat) (v : BitVec 64)   -- function f writes TTRIG
  | dumpctlGo (f : Nat) (ctx : Nat)   -- function f writes DUMPCTL.GO
  | cktgtWrite (f : Nat) (v : BitVec 64)   -- function f writes CKTGT
  | pwrctlPp (v : BitVec 3)   -- PF0 writes PWRCTL.PP
  | pwrctlQgate (v : BitVec 4)   -- PF0 writes PWRCTL.QGATE
  | pwrctlSref (v : BitVec 8)   -- PF0 writes PWRCTL.SREF
  | ppTransitionComplete   -- the performance-point change completes
  | srefExitComplete (stack : Nat)   -- a stack leaves self-refresh
  | pmcsrD3hot   -- PF0's PMCSR is written to D3hot
  | junctionTrip (jmax : BitVec 16)   -- the hottest junction is reported as jmax
  | getDebugNonce   -- the mailbox is asked for a nonce
  | debugUnlock (tok : List Byte)   -- a debug-unlock token is submitted
  | lockInterfaceRequest (f : Nat)   -- TDISP lock of virtual function f
  | getDeviceInterfaceReport (f : Nat)   -- TDISP report of virtual function f
  | startInterfaceRequest (f : Nat) (nonce : BitVec 256)   -- TDISP start of virtual function f
  | stopInterfaceRequest (f : Nat)   -- TDISP stop of virtual function f
  | frozenItemWrite (f : Nat)   -- a write to a frozen item of virtual function f
  | keyProg (f : Nat) (set : Nat) (key : BitVec 256)   -- IDE_KM KEY_PROG
  | kSetGo (f : Nat) (set : Nat)   -- IDE_KM K_SET_GO
  | kSetStop (f : Nat) (set : Nat)   -- IDE_KM K_SET_STOP
  | keyset (f : Nat) (k : KeyUse) (key : BitVec 256)   -- vendor-defined SPDM KEYSET
  | getMeasurements   -- SPDM GET_MEASUREMENTS
  | vfFlr (f : Nat)   -- function-level reset of virtual function f
  | pf0Flr   -- function-level reset of PF0
  | perstDeassert   -- PERST# is deasserted
  | bringupComplete (ok : Bool)   -- bring-up ends
  | bar2Access (f : Nat) (op : HostOp) (off : Nat) (size : Nat) (v : BitVec 64)   -- function f accesses BAR2
  | linkFlitReceive (port : Nat) (fl : Flit) (good : Bool)   -- a port receives a flit; whether the bits outside its fields came unharmed
  | portRetrain (port : Nat) (two : Bool)   -- retries failed 8 times; two lanes can or cannot be kept
  | laneRestore (port : Nat)   -- all four lanes pass training in a calibration window
  | registerWrite (f : Nat) (r : HostReg) (v : BitVec 64)   -- a host write to a register without behaviour of its own
  | salendCommand (cmd : Salend)   -- a command on the debug port
  | hostInvalidation (ctx : Nat) (va : Option (BitVec 64))   -- system software invalidates translation entries of a context
  | firmwarePlacement (c : Nat) (n : Nat) (pc : BitVec 64)   -- the control complex places firmware-mode code
  deriving DecidableEq, Repr

end Sys2Proof
end

