-- ==== Sys2Proof/WellFormed.lean ====
section
/-!
DEFINITION. Well-formedness: test 5 of R70, the reserved codes of each instruction (R53 to R62 and the
reference entries). A term that fails is never executed: the machine takes cause 0x02 (R71). Reserved
fields that a term cannot express are tested by the decoder. A step that is no instruction is always
well formed: what it needs of the state is asked by its meaning.
-/
namespace Sys2Proof

/-- A g field that may stand as a destination (R11, R59). -/
def G.dstOk (g : G) : Bool := g.toNat < 32
/-- A g field that may stand as a source (R59). -/
def G.srcOk (g : G) : Bool := g.toNat < 36

/-- Class F of R144. -/
def Ty.isF : Ty → Bool
  | .f32 | .bf16 | .f16 => true
  | _ => false
/-- Class I of R144. -/
def Ty.isI : Ty → Bool
  | .s8 | .n8 | .s16 | .n16 | .s32 | .n32 => true
  | _ => false
/-- The classes F, I and P together. -/
def Ty.isFIP (t : Ty) : Bool := t.isF || t.isI || t = .s64
/-- The floating-point types of R235. -/
def Ty.isFloat : Ty → Bool
  | .f32 | .bf16 | .f16 | .e4m3 | .e5m2 | .e3m2 | .e2m3 | .e2m1 => true
  | _ => false
/-- Lanes per register, LPR of R138; 128 for s64. -/
def Ty.lpr : Ty → Nat
  | .f32 | .s32 | .n32 | .s64 => 128
  | .bf16 | .f16 | .s16 | .n16 => 256
  | .e4m3 | .e5m2 | .e3m2 | .e2m3 | .s8 | .n8 => 512
  | .e2m1 | .s4 => 1024
/-- Exponent and fraction widths of a floating-point type (R235). -/
def Ty.em : Ty → Nat × Nat
  | .f32 => (8, 23) | .bf16 => (8, 7) | .f16 => (5, 10) | .e4m3 => (4, 3) | .e5m2 => (5, 2)
  | .e3m2 => (3, 2) | .e2m3 => (2, 3) | .e2m1 => (2, 1)
  | _ => (0, 0)
/-- A conversion that narrows between floating-point types (R160). -/
def Ty.narrows (fr toT : Ty) : Bool :=
  fr.isFloat && toT.isFloat && (toT.em.2 < fr.em.2 || toT.em.1 < fr.em.1)
/-- The element types of an MX operand (R61, R164). -/
def Ty.isMx : Ty → Bool
  | .e4m3 | .e5m2 | .e3m2 | .e2m3 | .e2m1 | .s8 => true
  | _ => false

/-- The registers of a conversion's span for K elements (R159). -/
def Ty.span (t : Ty) (k : Nat) : Nat := k / t.lpr * (if t = .s64 then 2 else 1)
/-- The elements one `VCVT` converts (R159). -/
def cvtCount (fr toT : Ty) : Nat := max fr.lpr toT.lpr
/-- The elements one `VQUANT` quantises (R164). -/
def quantCount (t : Ty) : Nat := if t = .e2m1 then 1024 else 512
/-- The source type of `VQUANT` and the result type of `VDEQ` by OPT[3:0]. -/
def mxWide (v : BitVec 4) : Ty := if v = 0 then .f32 else .bf16

/-- A register index that is a multiple of `n`. -/
def aligned (o : BitVec 8) (n : Nat) : Bool := o.toNat % n == 0
/-- The pair alignment of `.s64` operands (R138, R148). -/
def pairOk (t : Ty) (os : List (BitVec 8)) : Bool := t != .s64 || os.all fun o => aligned o 2

/-- B's type of an MMA-family instruction: TYB, or A's for 0. -/
def tybOf (ty : Ty) (o : MmaOpt) : Ty := if o.tyb = 0 then ty else Ty.of o.tyb
/-- The types in the 8-bit and 6-bit class (R192). -/
def Ty.is8 : Ty → Bool
  | .e4m3 | .e5m2 | .e3m2 | .e2m3 => true
  | _ => false
/-- The type pairs of R192, and MX not on a 16-bit type. -/
def mmaTypes (ty : Ty) (o : MmaOpt) : Bool :=
  let tb := tybOf ty o
  ((ty = .bf16 && tb = .bf16 || ty = .f16 && tb = .f16) && !o.mx)
    || (ty.is8 && tb.is8) || (ty = .e2m1 && tb = .e2m1) || (ty = .s8 && tb = .s8)

/-- The types of `ACDRAIN` (R202). -/
def drainTy : Ty → Bool
  | .f32 | .bf16 | .f16 | .e4m3 | .e5m2 | .s8 | .s16 | .s32 => true
  | _ => false
/-- The types of `VWMUL` and `VWADD` (R156). -/
def wideTy : Ty → Bool
  | .bf16 | .f16 | .s8 | .n8 | .s16 | .n16 | .s32 | .n32 => true
  | _ => false
/-- The 16-bit and 32-bit types (R184). -/
def Ty.is16or32 : Ty → Bool
  | .f32 | .bf16 | .f16 | .s16 | .n16 | .s32 | .n32 => true
  | _ => false
/-- The types of `VLDS` (R183). -/
def ldsTy (t : Ty) : Bool := !(t = .e2m1 || t = .s4 || t = .s64)

/-- Test 5 of R70 on the fields of an instruction. -/
def Instr.wf : Instr → Bool
  | .nop _ => true
  | .halt _ => true
  | .rdcs _ gd _ => gd.dstOk
  | .wrcs _ _ ga => ga.srcOk
  | .setfpc _ img => img.toNat / 2^5 % 8 == 0
  | .rdcyc _ gd => gd.dstOk
  | .brkpt _ => true
  | .tlbinv _ ga kind => ga.srcOk && kind.toNat < 3
  | .ctxsave _ ga => ga.srcOk
  | .ctxload _ ga => ga.srcOk
  | .add _ gd ga gb => gd.dstOk && ga.srcOk && gb.srcOk
  | .sub _ gd ga gb => gd.dstOk && ga.srcOk && gb.srcOk
  | .mul _ gd ga gb => gd.dstOk && ga.srcOk && gb.srcOk
  | .mulh _ gd ga gb => gd.dstOk && ga.srcOk && gb.srcOk
  | .mulhn _ gd ga gb => gd.dstOk && ga.srcOk && gb.srcOk
  | .div _ gd ga gb => gd.dstOk && ga.srcOk && gb.srcOk
  | .divn _ gd ga gb => gd.dstOk && ga.srcOk && gb.srcOk
  | .and _ gd ga gb => gd.dstOk && ga.srcOk && gb.srcOk
  | .or _ gd ga gb => gd.dstOk && ga.srcOk && gb.srcOk
  | .xor _ gd ga gb => gd.dstOk && ga.srcOk && gb.srcOk
  | .andn _ gd ga gb => gd.dstOk && ga.srcOk && gb.srcOk
  | .shl _ gd ga gb => gd.dstOk && ga.srcOk && gb.srcOk
  | .shr _ gd ga gb => gd.dstOk && ga.srcOk && gb.srcOk
  | .sra _ gd ga gb => gd.dstOk && ga.srcOk && gb.srcOk
  | .min _ gd ga gb => gd.dstOk && ga.srcOk && gb.srcOk
  | .max _ gd ga gb => gd.dstOk && ga.srcOk && gb.srcOk
  | .clz _ gd ga => gd.dstOk && ga.srcOk
  | .popc _ gd ga => gd.dstOk && ga.srcOk
  | .sel _ gd ga gb _ => gd.dstOk && ga.srcOk && gb.srcOk
  | .addi _ gd ga _ => gd.dstOk && ga.srcOk
  | .muli _ gd ga _ => gd.dstOk && ga.srcOk
  | .andi _ gd ga _ => gd.dstOk && ga.srcOk
  | .ori _ gd ga _ => gd.dstOk && ga.srcOk
  | .xori _ gd ga _ => gd.dstOk && ga.srcOk
  | .shli _ gd ga imm => gd.dstOk && ga.srcOk && imm.toNat < 64
  | .shri _ gd ga imm => gd.dstOk && ga.srcOk && imm.toNat < 64
  | .srai _ gd ga imm => gd.dstOk && ga.srcOk && imm.toNat < 64
  | .li _ gd _ => gd.dstOk
  | .lih _ gd imm => gd.dstOk && imm.toNat < 2^31
  | .cmpeq _ _ ga gb => ga.srcOk && gb.srcOk
  | .cmpne _ _ ga gb => ga.srcOk && gb.srcOk
  | .cmplt _ _ ga gb => ga.srcOk && gb.srcOk
  | .cmple _ _ ga gb => ga.srcOk && gb.srcOk
  | .cmpltn _ _ ga gb => ga.srcOk && gb.srcOk
  | .cmplen _ _ ga gb => ga.srcOk && gb.srcOk
  | .cmpeqi _ _ ga _ => ga.srcOk
  | .cmplti _ _ ga _ => ga.srcOk
  | .cmpltni _ _ ga _ => ga.srcOk
  | .pand _ _ _ _ => true
  | .por _ _ _ _ => true
  | .pxor _ _ _ _ => true
  | .pnot _ _ _ => true
  | .ld _ _ g ga _ => g.dstOk && ga.srcOk
  | .st _ _ g ga _ => g.srcOk && ga.srcOk
  | .lda _ _ g ga _ => g.dstOk && ga.srcOk
  | .sta _ _ g ga _ => g.srcOk && ga.srcOk
  | .spld _ g off => g.dstOk && off.toNat ≤ 4088 && off.toNat % 8 == 0
  | .spst _ g off => g.srcOk && off.toNat ≤ 4088 && off.toNat % 8 == 0
  | .lsmark _ => true
  | .waitc _ _ _ _ _ => true
  | .fence _ _ _ => true
  | .amo _ op w64 sc _ gd ga gb => sc != .strm && !(op = .fadd && w64) && gd.dstOk && ga.srcOk && gb.srcOk
  | .cas _ _ sc _ gd ga gb => sc != .strm && gd.dstOk && ga.srcOk && gb.srcOk
  | .amoa _ op w64 sc _ gd ga gb => (sc = .core || sc = .gang) && !(op = .fadd && w64) && gd.dstOk && ga.srcOk && gb.srcOk
  | .casa _ _ sc _ gd ga gb => (sc = .core || sc = .gang) && gd.dstOk && ga.srcOk && gb.srcOk
  | .pbr _ _ _ => true
  | .pbrg _ _ ga => ga.srcOk
  | .br _ _ => true
  | .brl _ _ gl => gl.dstOk
  | .trap _ _ => true
  | .tfence _ => true
  | .yield _ _ _ => true
  | .eret _ => true
  | .twait _ _ _ => true
  | .drop _ _ _ => true
  | .bump _ _ _ => true
  | .tsync _ _ _ => true
  | .trel _ _ _ => true
  | .tview _ gd _ _ => gd.dstOk
  | .barinit _ _ count _ => count != 0
  | .bararr _ _ => true
  | .barwait _ _ => true
  | .barsync _ _ => true
  | .vadd _ ty d a b => ty.isFIP && pairOk ty [d.obj, a.obj, b.obj]
  | .vsub _ ty d a b => ty.isFIP && pairOk ty [d.obj, a.obj, b.obj]
  | .vmul _ ty _ _ _ => ty.isF || ty.isI
  | .vmin _ ty d a b => ty.isFIP && pairOk ty [d.obj, a.obj, b.obj]
  | .vmax _ ty d a b => ty.isFIP && pairOk ty [d.obj, a.obj, b.obj]
  | .vand _ ty d a b => pairOk ty [d.obj, a.obj, b.obj]
  | .vor _ ty d a b => pairOk ty [d.obj, a.obj, b.obj]
  | .vxor _ ty d a b => pairOk ty [d.obj, a.obj, b.obj]
  | .vshl _ ty d a b => (ty.isI || ty = .s64) && pairOk ty [d.obj, a.obj, b.obj]
  | .vshr _ ty d a b => (ty.isI || ty = .s64) && pairOk ty [d.obj, a.obj, b.obj]
  | .vsra _ ty d a b => (ty.isI || ty = .s64) && pairOk ty [d.obj, a.obj, b.obj]
  | .vwmul _ ty d _ _ => wideTy ty && aligned d.obj 2
  | .vwadd _ ty d _ _ => wideTy ty && aligned d.obj 2
  | .vfma _ ty _ _ _ _ => ty.isF
  | .vabs _ ty d a => ty.isFIP && pairOk ty [d.obj, a.obj]
  | .vneg _ ty d a => ty.isFIP && pairOk ty [d.obj, a.obj]
  | .vnot _ ty d a => pairOk ty [d.obj, a.obj]
  | .vcmp _ _ ty d a b => ty.isFIP && pairOk ty [d.obj, a.obj, b.obj]
  | .vsel _ ty d a b c => pairOk ty [d.obj, a.obj, b.obj, c.obj]
  | .vbcast _ ty d gb => gb.srcOk && pairOk ty [d.obj]
  | .vlane _ ty gd a gb _ => gd.toNat < 32 && gb.srcOk && pairOk ty [a.obj]
  | .vperm _ _ _ _ => true
  | .viota _ ty d => (ty.isFIP || ty = .s4) && pairOk ty [d.obj]
  | .vexp2 _ _ _ => true
  | .vrcp _ _ _ => true
  | .vrsq _ _ _ => true
  | .vsqrt _ _ _ => true
  | .vcvt _ toT fr rnd d a => rnd.toNat < 6 && (rnd != 5 || fr.narrows toT) && aligned d.obj (toT.span (cvtCount fr toT)) && aligned a.obj (fr.span (cvtCount fr toT))
  | .vquant _ ty src d a => ty.isMx && src.toNat < 2 && aligned d.obj 2 && aligned a.obj ((mxWide src).span (quantCount ty))
  | .vquant2 _ ty d c a => ty.isMx && aligned d.obj 4 && aligned c.obj 4 && d.obj != c.obj && aligned a.obj 8
  | .vdeq _ ty toT d a => ty.isMx && toT.toNat < 2 && aligned a.obj 2 && aligned d.obj ((mxWide toT).span (quantCount ty))
  | .vsclr _ _ => true
  | .vstat _ lg _ _ _ => lg.toNat < 8
  | .vstatw _ lg _ _ _ _ => lg.toNat < 8
  | .vsmerge _ _ _ _ => true
  | .vsdrain _ opt _ _ _ b => opt.toNat < 5 && (opt = 3 || (b.obj = 0 && b.tag = 0))
  | .vsdrainNorm _ _ _ _ _ c _ aff _ => aff || (c.obj = 0 && c.tag = 0)
  | .vredmax _ ty d a => ty.isFIP && pairOk ty [d.obj, a.obj]
  | .vredmin _ ty d a => ty.isFIP && pairOk ty [d.obj, a.obj]
  | .vhist _ d a _ => aligned d.obj 2 && aligned a.obj 2
  | .vrank _ _ _ b => aligned b.obj 2
  | .vamerge _ _ _ _ => true
  | .vafin _ _ _ => true
  | .vld _ ty d _ gb _ => gb.srcOk && pairOk ty [d.obj]
  | .vst _ _ gb _ _ => gb.srcOk
  | .vlds _ ty _ _ gb _ stride count => gb.srcOk && ldsTy ty && stride != 0 && count.toNat ≤ ty.lpr
  | .vgath _ ty _ _ _ => ty.is16or32
  | .vscat _ ty _ _ _ => ty.is16or32
  | .vldo _ _ _ row => row.toNat < 16
  | .vsto _ _ row _ => row.toNat < 16
  | .vqrd _ _ qn => qn.toNat < 4
  | .mma _ ty _ _ _ o => mmaTypes ty o && !o.sn
  | .mmas _ ty _ _ _ o => mmaTypes ty o
  | .mgath _ ty _ _ _ _ _ o _ => mmaTypes ty o && !o.sn
  | .mgroup _ ty _ _ _ _ _ o => mmaTypes ty o && !o.sn && o.mm1 = 0
  | .acalloc _ gd count => gd.dstOk && 0 < count.toNat && count.toNat ≤ 64
  | .acfree _ _ => true
  | .acband _ _ _ _ => true
  | .aczero _ _ => true
  | .acdrain _ ty _ _ rnd _ d _ => drainTy ty && (rnd != 3 || Ty.narrows .f32 ty) && aligned d.obj (ty.span 1024)
  | .acfill _ _ _ a => aligned a.obj 8
  | .cp _ spc _ gs gc _ _ => (spc = .o || spc = .f) && gs.srcOk && gc.toNat < 32
  | .cpst _ spc gs gc _ band => (spc = .a || spc = .f && band = 0) && gs.srcOk && gc.toNat < 32
  | .cpg _ _ gs _ => gs.srcOk
  | .cps _ gs _ _ => gs.srcOk
  | .cpq _ qn gs gc => qn.toNat < 4 && gs.srcOk && gc.toNat < 32
  | .cppub _ spc _ => spc = .o || spc = .f
  | .rfence _ => true
  | .qpost _ _ _ gk gl _ _ => gk.srcOk && gl.srcOk
  | .kvapp _ gk gp _ => gk.srcOk && gp.srcOk
  | .coll _ _ gb => gb.srcOk
  | .trigarm _ gi gb => gi.srcOk && gb.srcOk
  | .trigclr _ gi => gi.srcOk
  | .tsend _ gdev gi => gdev.srcOk && gi.srcOk
  | .nextit _ _ => true
  | .done _ => true
  | .spawn _ ga => ga.srcOk
  | .signal _ ga => ga.srcOk
  | .pendingValueArrival _ _ _ => true
  | .accessPerformed _ _ _ => true
  | .targetFetchReady _ _ _ => true
  | .engineStart _ _ => true
  | .readRetire _ => true
  | .kStep _ => true
  | .copyElementStep _ => true
  | .operationCommit _ => true
  | .shadowPublish _ _ _ => true
  | .barrierRelease _ _ => true
  | .waitLimitExpiry _ => true
  | .stackScan _ _ => true
  | .stackPartialReturn _ _ => true
  | .qpostAnswerComplete _ => true
  | .kvappPerformed _ => true
  | .collReceiveReduceStep _ _ _ => true
  | .collComplete _ _ => true
  | .collMemberTimeout _ => true
  | .triggerPacketArrival _ _ => true
  | .triggerCommandStart _ => true
  | .triggerCommandComplete _ => true
  | .kernelComplete _ => true
  | .sqEntryRead _ => true
  | .dispatchPlace _ => true
  | .victimSelection _ => true
  | .shuttleAssign _ => true
  | .nextitAnswer _ _ => true
  | .taskYield _ _ => true
  | .yieldDeadlineExpiry _ _ => true
  | .scanOut _ _ => true
  | .taskRestore _ => true
  | .faultStop _ _ => true
  | .faultVectoring _ _ => true
  | .faultQueueEntry _ => true
  | .fqcmdResume _ _ => true
  | .fqcmdTerminate _ _ => true
  | .fqheadWrite _ _ => true
  | .eccCorrectableFreeze _ => true
  | .eccFreezeEnd _ => true
  | .onchipUncorrectableError _ _ _ => true
  | .patrolScrub _ _ _ => true
  | .bankSpare _ _ _ => true
  | .refresh _ _ => true
  | .debugStopped _ => true
  | .breakpointHit _ _ => true
  | .telemetryTick => true
  | .dumpWrite _ => true
  | .checkpointEpochBegin _ => true
  | .checkpointEpochComplete _ => true
  | .replay _ _ => true
  | .scrubComplete _ => true
  | .partmapWrite _ => true
  | .qmapWrite _ => true
  | .ctxbindWrite _ _ => true
  | .ctxrootWrite _ _ _ => true
  | .savepoolWrite _ _ _ => true
  | .contextEvbWrite _ _ _ => true
  | .sqctlWrite _ _ _ => true
  | .dbell _ _ _ => true
  | .dbgctlStop _ _ => true
  | .dbgctlForce _ _ => true
  | .dbgctlGo _ _ => true
  | .ttrigWrite _ _ _ => true
  | .dumpctlGo _ _ => true
  | .cktgtWrite _ _ => true
  | .pwrctlPp _ => true
  | .pwrctlQgate _ => true
  | .pwrctlSref _ => true
  | .ppTransitionComplete => true
  | .srefExitComplete _ => true
  | .pmcsrD3hot => true
  | .junctionTrip _ => true
  | .getDebugNonce => true
  | .debugUnlock _ => true
  | .lockInterfaceRequest _ => true
  | .getDeviceInterfaceReport _ => true
  | .startInterfaceRequest _ _ => true
  | .stopInterfaceRequest _ => true
  | .frozenItemWrite _ => true
  | .keyProg _ _ _ => true
  | .kSetGo _ _ => true
  | .kSetStop _ _ => true
  | .keyset _ _ _ => true
  | .getMeasurements => true
  | .vfFlr _ => true
  | .pf0Flr => true
  | .perstDeassert => true
  | .bringupComplete _ => true
  | .bar2Access _ _ _ _ _ => true
  | .linkFlitReceive _ _ _ => true
  | .portRetrain _ _ => true
  | .laneRestore _ => true
  | .e2eResend _ => true
  | .ingressRequest _ _ => true
  | .registerWrite _ _ _ => true
  | .salendCommand _ => true
  | .hostInvalidation _ _ => true
  | .firmwarePlacement _ _ _ => true

end Sys2Proof
end

