-- ==== Sys2Proof/Decode.lean ====
section
/-!
DEFINITION. Encoder and decoder of instruction words (R44, R45, R52 to R58, R64 to R68, R70). The encoder
builds a word from the base of R87 and the operand fields of the instruction's format; the decoder
reads the fields at the places of R52 and accepts a word exactly when encoding what it read gives the
word back (every reserved field is 0) and the instruction is well formed (no reserved code).
-/
namespace Sys2Proof

/-! ### Encoding -/

/-- Fields of format SR (R52). -/
def eSR (gd ga gb : G) (ps : P) : Nat := gd.toNat * 2^39 + ga.toNat * 2^33 + gb.toNat * 2^27 + ps.toNat * 2^24
/-- Fields of format SI (R52). -/
def eSI (gd ga : G) (imm : BitVec 33) : Nat := gd.toNat * 2^39 + ga.toNat * 2^33 + imm.toNat
/-- Fields of format SC (R52). -/
def eSC (pd pa : P) (ga gb : G) (imm : BitVec 27) : Nat :=
  pd.toNat * 2^42 + pa.toNat * 2^39 + ga.toNat * 2^33 + gb.toNat * 2^27 + imm.toNat
/-- Fields of the predicate operations of format SC (R52). -/
def eSP (pd pa pb : P) : Nat := pd.toNat * 2^42 + pa.toNat * 2^39 + pb.toNat * 2^36
/-- Fields of format SM (R52). -/
def eSM (g ga : G) (sz : BitVec 3) (disp : BitVec 30) : Nat :=
  g.toNat * 2^39 + ga.toNat * 2^33 + sz.toNat * 2^30 + disp.toNat
/-- Fields of format AT (R52). -/
def eAT (gd ga gb : G) (op : BitVec 4) (sc : BitVec 3) (ord : BitVec 2) (w : Bool) : Nat :=
  gd.toNat * 2^39 + ga.toNat * 2^33 + gb.toNat * 2^27 + op.toNat * 2^23 + sc.toNat * 2^20 + ord.toNat * 2^18
    + w.toNat * 2^17
/-- Fields of format BR (R52). -/
def eBR (bt : P) (ga : G) (off : BitVec 33) : Nat := bt.toNat * 2^42 + ga.toNat * 2^33 + off.toNat
/-- Fields of format CT (R52). -/
def eCT (spc : BitVec 2) (obj : BitVec 8) (rc : BitVec 4) (tag : BitVec 6) (gd : G) (imm : BitVec 19) : Nat :=
  spc.toNat * 2^43 + obj.toNat * 2^35 + rc.toNat * 2^31 + tag.toNat * 2^25 + gd.toNat * 2^19 + imm.toNat
/-- Fields of format TT (R52). -/
def eTT (ty : BitVec 4) (d : BitVec 8) (rc : BitVec 4) (a : BitVec 8) (atag : BitVec 6) (b : BitVec 8)
    (btag : BitVec 6) : Nat :=
  ty.toNat * 2^41 + d.toNat * 2^33 + rc.toNat * 2^29 + a.toNat * 2^21 + atag.toNat * 2^15 + b.toNat * 2^7
    + btag.toNat * 2
/-- Fields of format TG (R52). -/
def eTG (ty : BitVec 4) (d : BitVec 8) (rc : BitVec 4) (a : BitVec 8) (atag : BitVec 6) (gb : G)
    (imm : BitVec 9) : Nat :=
  ty.toNat * 2^41 + d.toNat * 2^33 + rc.toNat * 2^29 + a.toNat * 2^21 + atag.toNat * 2^15 + gb.toNat * 2^9
    + imm.toNat
/-- The extension word (R58). -/
def eX (c : BitVec 8) (ctag : BitVec 6) (opt : Nat) : Nat := c.toNat * 2^56 + ctag.toNat * 2^50 + opt
/-- OPT[25:0] of the MMA family. -/
def MmaOpt.bits (o : MmaOpt) : Nat :=
  o.mm1.toNat + o.nm1.toNat * 2^6 + o.kq.toNat * 2^12 + o.acc.toNat * 2^19 + o.mx.toNat * 2^20
    + o.tyb.toNat * 2^21 + o.sn.toNat * 2^25

/-- The header and opcode part of a first word (R47, R87). -/
def eHdr (h : Header) (long : Bool) (maj min : Nat) : Nat :=
  long.toNat * 2^63 + h.sp.toNat * 2^62 + h.gap.toNat * 2^60 + h.sw.toNat * 2^59 + h.prd.toNat * 2^56
    + h.pn.toNat * 2^55 + maj * 2^51 + min * 2^45

/-- A short instruction's words. -/
def short (h : Header) (maj min ops : Nat) : List Word := [BitVec.ofNat 64 (eHdr h false maj min + ops)]
/-- A long form's words (R45). -/
def longForm (h : Header) (maj min ops ext : Nat) : List Word :=
  [BitVec.ofNat 64 (eHdr h true maj min + ops), BitVec.ofNat 64 ext]

/-- The words of an instruction (R64 to R68); a step that is no instruction has none. -/
def encode : Instr → List Word
  | .nop h => short h 0 0 (0)
  | .halt h => short h 0 1 (0)
  | .rdcs h gd r => short h 0 2 (eSI gd 0 (r.code.setWidth 33))
  | .wrcs h r ga => short h 0 3 (eSI 0 ga (r.code.setWidth 33))
  | .setfpc h img => short h 0 4 (eSI 0 0 (img.setWidth 33))
  | .rdcyc h gd => short h 0 5 (eSI gd 0 0)
  | .brkpt h => short h 0 6 (0)
  | .tlbinv h ga kind => short h 0 7 (eSI 0 ga kind)
  | .ctxsave h ga => short h 0 8 (eSI 0 ga 0)
  | .ctxload h ga => short h 0 9 (eSI 0 ga 0)
  | .add h gd ga gb => short h 1 0 (eSR gd ga gb 0)
  | .sub h gd ga gb => short h 1 1 (eSR gd ga gb 0)
  | .mul h gd ga gb => short h 1 2 (eSR gd ga gb 0)
  | .mulh h gd ga gb => short h 1 3 (eSR gd ga gb 0)
  | .mulhn h gd ga gb => short h 1 4 (eSR gd ga gb 0)
  | .div h gd ga gb => short h 1 5 (eSR gd ga gb 0)
  | .divn h gd ga gb => short h 1 6 (eSR gd ga gb 0)
  | .and h gd ga gb => short h 1 7 (eSR gd ga gb 0)
  | .or h gd ga gb => short h 1 8 (eSR gd ga gb 0)
  | .xor h gd ga gb => short h 1 9 (eSR gd ga gb 0)
  | .andn h gd ga gb => short h 1 10 (eSR gd ga gb 0)
  | .shl h gd ga gb => short h 1 11 (eSR gd ga gb 0)
  | .shr h gd ga gb => short h 1 12 (eSR gd ga gb 0)
  | .sra h gd ga gb => short h 1 13 (eSR gd ga gb 0)
  | .min h gd ga gb => short h 1 14 (eSR gd ga gb 0)
  | .max h gd ga gb => short h 1 15 (eSR gd ga gb 0)
  | .clz h gd ga => short h 1 16 (eSR gd ga 0 0)
  | .popc h gd ga => short h 1 17 (eSR gd ga 0 0)
  | .sel h gd ga gb ps => short h 1 18 (eSR gd ga gb ps)
  | .addi h gd ga imm => short h 2 0 (eSI gd ga imm)
  | .muli h gd ga imm => short h 2 1 (eSI gd ga imm)
  | .andi h gd ga imm => short h 2 2 (eSI gd ga imm)
  | .ori h gd ga imm => short h 2 3 (eSI gd ga imm)
  | .xori h gd ga imm => short h 2 4 (eSI gd ga imm)
  | .shli h gd ga imm => short h 2 5 (eSI gd ga imm)
  | .shri h gd ga imm => short h 2 6 (eSI gd ga imm)
  | .srai h gd ga imm => short h 2 7 (eSI gd ga imm)
  | .li h gd imm => short h 2 8 (eSI gd 0 imm)
  | .lih h gd imm => short h 2 9 (eSI gd 0 imm)
  | .cmpeq h pd ga gb => short h 2 16 (eSC pd 0 ga gb 0)
  | .cmpne h pd ga gb => short h 2 17 (eSC pd 0 ga gb 0)
  | .cmplt h pd ga gb => short h 2 18 (eSC pd 0 ga gb 0)
  | .cmple h pd ga gb => short h 2 19 (eSC pd 0 ga gb 0)
  | .cmpltn h pd ga gb => short h 2 20 (eSC pd 0 ga gb 0)
  | .cmplen h pd ga gb => short h 2 21 (eSC pd 0 ga gb 0)
  | .cmpeqi h pd ga imm => short h 2 22 (eSC pd 0 ga 0 imm)
  | .cmplti h pd ga imm => short h 2 23 (eSC pd 0 ga 0 imm)
  | .cmpltni h pd ga imm => short h 2 24 (eSC pd 0 ga 0 imm)
  | .pand h pd pa pb => short h 2 32 (eSP pd pa pb)
  | .por h pd pa pb => short h 2 33 (eSP pd pa pb)
  | .pxor h pd pa pb => short h 2 34 (eSP pd pa pb)
  | .pnot h pd pa => short h 2 35 (eSP pd pa 0)
  | .ld h sz g ga disp => short h 3 0 (eSM g ga sz.code disp)
  | .st h sz g ga disp => short h 3 1 (eSM g ga sz.code disp)
  | .lda h sz g ga disp => short h 3 2 (eSM g ga sz.code disp)
  | .sta h sz g ga disp => short h 3 3 (eSM g ga sz.code disp)
  | .spld h g off => short h 3 4 (eSM g 0 6 off)
  | .spst h g off => short h 3 5 (eSM g 0 6 off)
  | .lsmark h => short h 3 6 (0)
  | .waitc h l s c t => short h 3 7 (l.toNat * 2^18 + s.toNat * 2^12 + c.toNat * 2^6 + t.toNat)
  | .fence h sc kind => short h 3 8 (sc.code.toNat + kind.code.toNat * 2^3)
  | .amo h op w64 sc ord gd ga gb => short h 4 0 (eAT gd ga gb op.code sc.code ord.code w64)
  | .cas h w64 sc ord gd ga gb => short h 4 1 (eAT gd ga gb 0 sc.code ord.code w64)
  | .amoa h op w64 sc ord gd ga gb => short h 4 2 (eAT gd ga gb op.code sc.code ord.code w64)
  | .casa h w64 sc ord gd ga gb => short h 4 3 (eAT gd ga gb 0 sc.code ord.code w64)
  | .pbr h bt off => short h 5 0 (eBR bt 0 off)
  | .pbrg h bt ga => short h 5 1 (eBR bt ga 0)
  | .br h bt => short h 5 2 (eBR bt 0 0)
  | .brl h bt gl => short h 5 3 (eBR bt gl 0)
  | .trap h code => short h 5 4 (eBR 0 0 (code.setWidth 33))
  | .tfence h => short h 5 5 (0)
  | .yield h clean mask => short h 5 6 (mask.toNat + clean.toNat * 2^32)
  | .eret h => short h 5 7 (0)
  | .twait h spc x => short h 6 0 (eCT spc.code x.obj 0 x.tag 0 0)
  | .drop h spc x => short h 6 2 (eCT spc.code x.obj 0 x.tag 0 0)
  | .bump h spc x => short h 6 1 (eCT spc.code x.obj x.rc 0 0 0)
  | .tsync h spc obj => short h 6 3 (eCT spc.code obj 0 0 0 0)
  | .trel h spc obj => short h 6 5 (eCT spc.code obj 0 0 0 0)
  | .tview h gd spc obj => short h 6 4 (eCT spc.code obj 0 0 gd 0)
  | .barinit h bar count gang => short h 6 6 (eCT 0 bar 0 0 0 ((BitVec.ofBool gang) ++ count))
  | .bararr h bar => short h 6 7 (eCT 0 bar 0 0 0 0)
  | .barwait h bar => short h 6 8 (eCT 0 bar 0 0 0 0)
  | .barsync h bar => short h 6 9 (eCT 0 bar 0 0 0 0)
  | .vadd h ty d a b => short h 7 0 (eTT ty.code d.obj d.rc a.obj a.tag b.obj b.tag)
  | .vsub h ty d a b => short h 7 1 (eTT ty.code d.obj d.rc a.obj a.tag b.obj b.tag)
  | .vmul h ty d a b => short h 7 2 (eTT ty.code d.obj d.rc a.obj a.tag b.obj b.tag)
  | .vmin h ty d a b => short h 7 4 (eTT ty.code d.obj d.rc a.obj a.tag b.obj b.tag)
  | .vmax h ty d a b => short h 7 5 (eTT ty.code d.obj d.rc a.obj a.tag b.obj b.tag)
  | .vand h ty d a b => short h 7 8 (eTT ty.code d.obj d.rc a.obj a.tag b.obj b.tag)
  | .vor h ty d a b => short h 7 9 (eTT ty.code d.obj d.rc a.obj a.tag b.obj b.tag)
  | .vxor h ty d a b => short h 7 10 (eTT ty.code d.obj d.rc a.obj a.tag b.obj b.tag)
  | .vshl h ty d a b => short h 7 12 (eTT ty.code d.obj d.rc a.obj a.tag b.obj b.tag)
  | .vshr h ty d a b => short h 7 13 (eTT ty.code d.obj d.rc a.obj a.tag b.obj b.tag)
  | .vsra h ty d a b => short h 7 14 (eTT ty.code d.obj d.rc a.obj a.tag b.obj b.tag)
  | .vwmul h ty d a b => short h 7 21 (eTT ty.code d.obj d.rc a.obj a.tag b.obj b.tag)
  | .vwadd h ty d a b => short h 7 22 (eTT ty.code d.obj d.rc a.obj a.tag b.obj b.tag)
  | .vfma h ty d a b c => longForm h 7 3 (eTT ty.code d.obj d.rc a.obj a.tag b.obj b.tag) (eX c.obj c.tag 0)
  | .vabs h ty d a => short h 7 6 (eTT ty.code d.obj d.rc a.obj a.tag 0 0)
  | .vneg h ty d a => short h 7 7 (eTT ty.code d.obj d.rc a.obj a.tag 0 0)
  | .vnot h ty d a => short h 7 11 (eTT ty.code d.obj d.rc a.obj a.tag 0 0)
  | .vcmp h cond ty d a b => longForm h 7 15 (eTT ty.code d.obj d.rc a.obj a.tag b.obj b.tag) (eX 0 0 cond.code.toNat)
  | .vsel h ty d a b c => longForm h 7 16 (eTT ty.code d.obj d.rc a.obj a.tag b.obj b.tag) (eX c.obj c.tag 0)
  | .vbcast h ty d gb => short h 7 17 (eTG ty.code d.obj d.rc 0 0 gb 0)
  | .vlane h ty gd a gb imm => short h 7 18 (eTG ty.code gd 0 a.obj a.tag gb imm)
  | .vperm h d a b => short h 7 19 (eTT 0 d.obj d.rc a.obj a.tag b.obj b.tag)
  | .viota h ty d => short h 7 20 (eTT ty.code d.obj d.rc 0 0 0 0)
  | .vexp2 h d a => short h 7 23 (eTT 0 d.obj d.rc a.obj a.tag 0 0)
  | .vrcp h d a => short h 7 24 (eTT 0 d.obj d.rc a.obj a.tag 0 0)
  | .vrsq h d a => short h 7 25 (eTT 0 d.obj d.rc a.obj a.tag 0 0)
  | .vsqrt h d a => short h 7 26 (eTT 0 d.obj d.rc a.obj a.tag 0 0)
  | .vcvt h toT fr rnd d a => short h 8 0 (eTT toT.code d.obj d.rc a.obj a.tag ((0#1 ++ rnd) ++ fr.code) 0)
  | .vquant h ty src d a => longForm h 8 1 (eTT ty.code d.obj d.rc a.obj a.tag 0 0) (eX 0 0 (src.toNat + 2^4))
  | .vquant2 h ty d c a => longForm h 8 2 (eTT ty.code d.obj d.rc a.obj a.tag 0 0) (eX c.obj (c.rc.setWidth 6) (2^4))
  | .vdeq h ty toT d a => longForm h 8 3 (eTT ty.code d.obj d.rc a.obj a.tag 0 0) (eX 0 0 (toT.toNat + 2^4))
  | .vsclr h d => short h 9 0 (eTT 0 d.obj d.rc 0 0 0 0)
  | .vstat h lg d a b => short h 9 1 (eTT lg d.obj d.rc a.obj a.tag b.obj b.tag)
  | .vstatw h lg d a b c => longForm h 9 2 (eTT lg d.obj d.rc a.obj a.tag b.obj b.tag) (eX c.obj c.tag 0)
  | .vsmerge h d a b => short h 9 3 (eTT 0 d.obj d.rc a.obj a.tag b.obj b.tag)
  | .vsdrain h opt fill d a b => short h 9 4 (eTT ((BitVec.ofBool fill) ++ opt) d.obj d.rc a.obj a.tag b.obj b.tag)
  | .vsdrainNorm h fill d a b c eps aff lg => longForm h 9 4 (eTT ((BitVec.ofBool fill) ++ 5#3) d.obj d.rc a.obj a.tag b.obj b.tag) (eX c.obj c.tag (eps.toNat + aff.toNat * 2^32 + lg.toNat * 2^33))
  | .vredmax h ty d a => short h 9 5 (eTT ty.code d.obj d.rc a.obj a.tag 0 0)
  | .vredmin h ty d a => short h 9 6 (eTT ty.code d.obj d.rc a.obj a.tag 0 0)
  | .vhist h d a b => short h 9 7 (eTT 0 d.obj d.rc a.obj a.tag b.obj b.tag)
  | .vrank h d a b => short h 9 8 (eTT 0 d.obj d.rc a.obj a.tag b.obj b.tag)
  | .vamerge h d a b => short h 9 9 (eTT 0 d.obj d.rc a.obj a.tag b.obj b.tag)
  | .vafin h d a => short h 9 10 (eTT 0 d.obj d.rc a.obj a.tag 0 0)
  | .vld h ty d a gb imm => short h 10 0 (eTG ty.code d.obj d.rc a.obj a.tag gb imm)
  | .vst h d gb imm a => short h 10 1 (eTG 0 d.obj d.rc a.obj a.tag gb imm)
  | .vlds h ty d a gb imm stride count => longForm h 10 2 (eTG ty.code d.obj d.rc a.obj a.tag gb imm) (eX 0 0 (stride.toNat + count.toNat * 2^16))
  | .vgath h ty d a b => short h 10 3 (eTT ty.code d.obj d.rc a.obj a.tag b.obj b.tag)
  | .vscat h ty d a b => short h 10 4 (eTT ty.code d.obj d.rc a.obj a.tag b.obj b.tag)
  | .vldo h d a row => short h 10 5 (eTG 0 d.obj d.rc a.obj a.tag 0 row)
  | .vsto h d row a => short h 10 6 (eTG 0 d.obj d.rc a.obj a.tag 0 row)
  | .vqrd h d qn => short h 10 7 (eTG 0 d.obj d.rc 0 0 0 qn)
  | .mma h ty d a b o => longForm h 11 0 (eTT ty.code d.obj d.rc a.obj a.tag b.obj b.tag) (eX 0 0 o.bits)
  | .mmas h ty d a b o => longForm h 11 1 (eTT ty.code d.obj d.rc a.obj a.tag b.obj b.tag) (eX 0 0 o.bits)
  | .mgath h ty d a b ti tj o pm1 => longForm h 11 2 (eTT ty.code d.obj d.rc a.obj a.tag b.obj b.tag) (eX ti.obj ti.tag (o.bits + tj.obj.toNat * 2^26 + tj.tag.toNat * 2^34 + pm1.toNat * 2^40))
  | .mgroup h ty d a b fx off9 o => longForm h 11 3 (eTT ty.code d.obj d.rc a.obj a.tag b.obj b.tag) (eX fx.obj fx.tag (o.bits + off9.toNat * 2^26))
  | .acalloc h gd count => short h 11 4 (eCT 0 0 0 0 gd (count.setWidth 19))
  | .acfree h obj => short h 11 5 (eCT 2 obj 0 0 0 0)
  | .acband h obj bands strms => short h 11 6 (eCT 2 obj 0 0 0 ((strms ++ bands).setWidth 19))
  | .aczero h d => short h 11 7 (eCT 2 d.obj d.rc 0 0 0)
  | .acdrain h ty band now rnd relu d a => short h 11 8 (eTT ty.code d.obj d.rc a.obj a.tag ((((0#2 ++ (BitVec.ofBool relu)) ++ rnd) ++ (BitVec.ofBool now)) ++ band) 0)
  | .acfill h band d a => short h 11 9 (eTT 0 d.obj d.rc a.obj a.tag (band.setWidth 8) 0)
  | .cp h spc d gs gc doff part => short h 12 0 (eCT spc.code d.obj d.rc 0 gs (((gc ++ doff) ++ 0#5) ++ (BitVec.ofBool part)))
  | .cpst h spc gs gc a band => short h 12 1 (eCT spc.code a.obj 0 a.tag gs ((gc ++ 0#11) ++ band))
  | .cpg h d gs c => longForm h 12 2 (eCT 1 d.obj d.rc 0 gs 0) (eX c.obj c.tag 0)
  | .cps h gs a c => longForm h 12 3 (eCT 3 a.obj 0 a.tag gs 0) (eX c.obj c.tag 0)
  | .cpq h qn gs gc => short h 12 4 (eCT 0 qn 0 0 gs (gc ++ 0#13))
  | .cppub h spc obj => short h 12 5 (eCT spc.code obj 0 0 0 0)
  | .rfence h => short h 12 6 (0)
  | .qpost h d c gk gl qn sigma => longForm h 13 0 (eCT 3 d.obj d.rc 0 gk ((gl ++ 0#9) ++ qn)) (eX c.obj c.tag sigma.toNat)
  | .kvapp h gk gp a => short h 13 1 (eCT 0 a.obj 0 a.tag gk (gp ++ 0#13))
  | .coll h d gb => short h 13 2 (eCT 3 d.obj d.rc 0 gb 0)
  | .trigarm h gi gb => short h 13 3 (eCT 0 0 0 0 gi (gb ++ 0#13))
  | .trigclr h gi => short h 13 4 (eCT 0 0 0 0 gi 0)
  | .tsend h gdev gi => short h 13 5 (eCT 0 0 0 0 gdev (gi ++ 0#13))
  | .nextit h pd => short h 14 0 (eSC pd 0 0 0 0)
  | .done h => short h 14 1 (0)
  | .spawn h ga => short h 14 2 (eSC 0 0 ga 0 0)
  | .signal h ga => short h 14 3 (eSC 0 0 ga 0 0)
  | .pendingValueArrival _ _ _ => []
  | .accessPerformed _ _ _ => []
  | .targetFetchReady _ _ _ => []
  | .engineStart _ _ => []
  | .readRetire _ => []
  | .kStep _ => []
  | .copyElementStep _ => []
  | .operationCommit _ => []
  | .shadowPublish _ _ _ => []
  | .barrierRelease _ _ => []
  | .waitLimitExpiry _ => []
  | .stackScan _ _ => []
  | .stackPartialReturn _ _ => []
  | .qpostAnswerComplete _ => []
  | .kvappPerformed _ => []
  | .collReceiveReduceStep _ _ _ => []
  | .collComplete _ _ => []
  | .collMemberTimeout _ => []
  | .triggerPacketArrival _ _ => []
  | .triggerCommandStart _ => []
  | .triggerCommandComplete _ => []
  | .kernelComplete _ => []
  | .sqEntryRead _ => []
  | .dispatchPlace _ => []
  | .victimSelection _ => []
  | .shuttleAssign _ => []
  | .nextitAnswer _ _ => []
  | .taskYield _ _ => []
  | .yieldDeadlineExpiry _ _ => []
  | .scanOut _ _ => []
  | .taskRestore _ => []
  | .faultStop _ _ => []
  | .faultVectoring _ _ => []
  | .faultQueueEntry _ => []
  | .fqcmdResume _ _ => []
  | .fqcmdTerminate _ _ => []
  | .fqheadWrite _ _ => []
  | .eccCorrectableFreeze _ => []
  | .eccFreezeEnd _ => []
  | .onchipUncorrectableError _ _ _ => []
  | .patrolScrub _ _ _ => []
  | .bankSpare _ _ _ => []
  | .refresh _ _ => []
  | .debugStopped _ => []
  | .breakpointHit _ _ => []
  | .telemetryTick => []
  | .dumpWrite _ => []
  | .checkpointEpochBegin _ => []
  | .checkpointEpochComplete _ => []
  | .replay _ _ => []
  | .scrubComplete _ => []
  | .partmapWrite _ => []
  | .qmapWrite _ => []
  | .ctxbindWrite _ _ => []
  | .ctxrootWrite _ _ _ => []
  | .savepoolWrite _ _ _ => []
  | .contextEvbWrite _ _ _ => []
  | .sqctlWrite _ _ _ => []
  | .dbell _ _ _ => []
  | .dbgctlStop _ _ => []
  | .dbgctlForce _ _ => []
  | .dbgctlGo _ _ => []
  | .ttrigWrite _ _ _ => []
  | .dumpctlGo _ _ => []
  | .cktgtWrite _ _ => []
  | .pwrctlPp _ => []
  | .pwrctlQgate _ => []
  | .pwrctlSref _ => []
  | .ppTransitionComplete => []
  | .srefExitComplete _ => []
  | .pmcsrD3hot => []
  | .junctionTrip _ => []
  | .getDebugNonce => []
  | .debugUnlock _ => []
  | .lockInterfaceRequest _ => []
  | .getDeviceInterfaceReport _ => []
  | .startInterfaceRequest _ _ => []
  | .stopInterfaceRequest _ => []
  | .frozenItemWrite _ => []
  | .keyProg _ _ _ => []
  | .kSetGo _ _ => []
  | .kSetStop _ _ => []
  | .keyset _ _ _ => []
  | .getMeasurements => []
  | .vfFlr _ => []
  | .pf0Flr => []
  | .perstDeassert => []
  | .bringupComplete _ => []
  | .bar2Access _ _ _ _ _ => []
  | .linkFlitReceive _ _ _ => []
  | .portRetrain _ _ => []
  | .laneRestore _ => []
  | .e2eResend _ => []
  | .ingressRequest _ _ => []
  | .registerWrite _ _ _ => []
  | .salendCommand _ => []
  | .hostInvalidation _ _ => []
  | .firmwarePlacement _ _ _ => []

/-! ### Decoding -/

/-- Bits [lo + n - 1 : lo] of a word. -/
def F (w : Nat) (lo n : Nat) : BitVec n := BitVec.ofNat n (w / 2^lo)
/-- Bit `i` of a word. -/
def fBit (w i : Nat) : Bool := w / 2^i % 2 == 1
/-- gd of SR, SI, SM and AT. -/
def fGd (w : Nat) : G := F w 39 6
/-- ga of SR, SI, SC, SM, AT and BR. -/
def fGa (w : Nat) : G := F w 33 6
/-- gb of SR, SC and AT. -/
def fGb (w : Nat) : G := F w 27 6
/-- pd or bt, bits [44:42]. -/
def fPd (w : Nat) : P := F w 42 3
/-- imm33 or off33. -/
def fImm33 (w : Nat) : BitVec 33 := F w 0 33
/-- The header of a first word (R47). -/
def fHdr (w : Nat) : Header := ⟨fBit w 62, F w 60 2, fBit w 59, F w 56 3, fBit w 55⟩
/-- OPT[25:0] of the MMA family as fields. -/
def MmaOpt.of (v : BitVec 26) : MmaOpt :=
  let n := v.toNat
  ⟨F n 0 6, F n 6 6, F n 12 7, fBit n 19, fBit n 20, F n 21 4, fBit n 25⟩

/-- MAJ of a first word (R47). -/
def majOf (w : Nat) : Nat := w / 2^51 % 16
/-- MIN of a first word (R47). -/
def minOf (w : Nat) : Nat := w / 2^45 % 64

/-- Fields of a word of major 0, by MIN; `x` is the extension word. -/
def raw0 (min w : Nat) : Option Instr :=
  let h := fHdr w
  match min with
  | 0 => some (.nop h)
  | 1 => some (.halt h)
  | 2 => (Csr.of? (fImm33 w)).bind fun v0 => some (.rdcs h (fGd w) v0)
  | 3 => (Csr.of? (fImm33 w)).bind fun v0 => some (.wrcs h v0 (fGa w))
  | 4 => some (.setfpc h (F w 0 14))
  | 5 => some (.rdcyc h (fGd w))
  | 6 => some (.brkpt h)
  | 7 => some (.tlbinv h (fGa w) (fImm33 w))
  | 8 => some (.ctxsave h (fGa w))
  | 9 => some (.ctxload h (fGa w))
  | _ => none

/-- Fields of a word of major 1, by MIN; `x` is the extension word. -/
def raw1 (min w : Nat) : Option Instr :=
  let h := fHdr w
  match min with
  | 0 => some (.add h (fGd w) (fGa w) (fGb w))
  | 1 => some (.sub h (fGd w) (fGa w) (fGb w))
  | 2 => some (.mul h (fGd w) (fGa w) (fGb w))
  | 3 => some (.mulh h (fGd w) (fGa w) (fGb w))
  | 4 => some (.mulhn h (fGd w) (fGa w) (fGb w))
  | 5 => some (.div h (fGd w) (fGa w) (fGb w))
  | 6 => some (.divn h (fGd w) (fGa w) (fGb w))
  | 7 => some (.and h (fGd w) (fGa w) (fGb w))
  | 8 => some (.or h (fGd w) (fGa w) (fGb w))
  | 9 => some (.xor h (fGd w) (fGa w) (fGb w))
  | 10 => some (.andn h (fGd w) (fGa w) (fGb w))
  | 11 => some (.shl h (fGd w) (fGa w) (fGb w))
  | 12 => some (.shr h (fGd w) (fGa w) (fGb w))
  | 13 => some (.sra h (fGd w) (fGa w) (fGb w))
  | 14 => some (.min h (fGd w) (fGa w) (fGb w))
  | 15 => some (.max h (fGd w) (fGa w) (fGb w))
  | 16 => some (.clz h (fGd w) (fGa w))
  | 17 => some (.popc h (fGd w) (fGa w))
  | 18 => some (.sel h (fGd w) (fGa w) (fGb w) (F w 24 3))
  | _ => none

/-- Fields of a word of major 2, by MIN; `x` is the extension word. -/
def raw2 (min w : Nat) : Option Instr :=
  let h := fHdr w
  match min with
  | 0 => some (.addi h (fGd w) (fGa w) (fImm33 w))
  | 1 => some (.muli h (fGd w) (fGa w) (fImm33 w))
  | 2 => some (.andi h (fGd w) (fGa w) (fImm33 w))
  | 3 => some (.ori h (fGd w) (fGa w) (fImm33 w))
  | 4 => some (.xori h (fGd w) (fGa w) (fImm33 w))
  | 5 => some (.shli h (fGd w) (fGa w) (fImm33 w))
  | 6 => some (.shri h (fGd w) (fGa w) (fImm33 w))
  | 7 => some (.srai h (fGd w) (fGa w) (fImm33 w))
  | 8 => some (.li h (fGd w) (fImm33 w))
  | 9 => some (.lih h (fGd w) (fImm33 w))
  | 16 => some (.cmpeq h (fPd w) (fGa w) (fGb w))
  | 17 => some (.cmpne h (fPd w) (fGa w) (fGb w))
  | 18 => some (.cmplt h (fPd w) (fGa w) (fGb w))
  | 19 => some (.cmple h (fPd w) (fGa w) (fGb w))
  | 20 => some (.cmpltn h (fPd w) (fGa w) (fGb w))
  | 21 => some (.cmplen h (fPd w) (fGa w) (fGb w))
  | 22 => some (.cmpeqi h (fPd w) (fGa w) (F w 0 27))
  | 23 => some (.cmplti h (fPd w) (fGa w) (F w 0 27))
  | 24 => some (.cmpltni h (fPd w) (fGa w) (F w 0 27))
  | 32 => some (.pand h (fPd w) (F w 39 3) (F w 36 3))
  | 33 => some (.por h (fPd w) (F w 39 3) (F w 36 3))
  | 34 => some (.pxor h (fPd w) (F w 39 3) (F w 36 3))
  | 35 => some (.pnot h (fPd w) (F w 39 3))
  | _ => none

/-- Fields of a word of major 3, by MIN; `x` is the extension word. -/
def raw3 (min w : Nat) : Option Instr :=
  let h := fHdr w
  match min with
  | 0 => (Sz.of? (F w 30 3)).bind fun v0 => some (.ld h v0 (fGd w) (fGa w) (F w 0 30))
  | 1 => (Sz.of? (F w 30 3)).bind fun v0 => some (.st h v0 (fGd w) (fGa w) (F w 0 30))
  | 2 => (Sz.of? (F w 30 3)).bind fun v0 => some (.lda h v0 (fGd w) (fGa w) (F w 0 30))
  | 3 => (Sz.of? (F w 30 3)).bind fun v0 => some (.sta h v0 (fGd w) (fGa w) (F w 0 30))
  | 4 => some (.spld h (fGd w) (F w 0 30))
  | 5 => some (.spst h (fGd w) (F w 0 30))
  | 6 => some (.lsmark h)
  | 7 => some (.waitc h (F w 18 6) (F w 12 6) (F w 6 6) (F w 0 6))
  | 8 => (Scope.of? (F w 0 3)).bind fun v0 => (FKind.of? (F w 3 3)).bind fun v1 => some (.fence h v0 v1)
  | _ => none

/-- Fields of a word of major 4, by MIN; `x` is the extension word. -/
def raw4 (min w : Nat) : Option Instr :=
  let h := fHdr w
  match min with
  | 0 => (AmoOp.of? (F w 23 4)).bind fun v0 => (Scope.of? (F w 20 3)).bind fun v1 => some (.amo h v0 (fBit w 17) v1 (Ord.of (F w 18 2)) (fGd w) (fGa w) (fGb w))
  | 1 => (Scope.of? (F w 20 3)).bind fun v0 => some (.cas h (fBit w 17) v0 (Ord.of (F w 18 2)) (fGd w) (fGa w) (fGb w))
  | 2 => (AmoOp.of? (F w 23 4)).bind fun v0 => (Scope.of? (F w 20 3)).bind fun v1 => some (.amoa h v0 (fBit w 17) v1 (Ord.of (F w 18 2)) (fGd w) (fGa w) (fGb w))
  | 3 => (Scope.of? (F w 20 3)).bind fun v0 => some (.casa h (fBit w 17) v0 (Ord.of (F w 18 2)) (fGd w) (fGa w) (fGb w))
  | _ => none

/-- Fields of a word of major 5, by MIN; `x` is the extension word. -/
def raw5 (min w : Nat) : Option Instr :=
  let h := fHdr w
  match min with
  | 0 => some (.pbr h (fPd w) (fImm33 w))
  | 1 => some (.pbrg h (fPd w) (fGa w))
  | 2 => some (.br h (fPd w))
  | 3 => some (.brl h (fPd w) (fGa w))
  | 4 => some (.trap h (F w 0 8))
  | 5 => some (.tfence h)
  | 6 => some (.yield h (fBit w 32) (F w 0 32))
  | 7 => some (.eret h)
  | _ => none

/-- Fields of a word of major 6, by MIN; `x` is the extension word. -/
def raw6 (min w : Nat) : Option Instr :=
  let h := fHdr w
  match min with
  | 0 => some (.twait h (Spc.of (F w 43 2)) ⟨F w 35 8, F w 25 6⟩)
  | 2 => some (.drop h (Spc.of (F w 43 2)) ⟨F w 35 8, F w 25 6⟩)
  | 1 => some (.bump h (Spc.of (F w 43 2)) ⟨F w 35 8, F w 31 4⟩)
  | 3 => some (.tsync h (Spc.of (F w 43 2)) (F w 35 8))
  | 5 => some (.trel h (Spc.of (F w 43 2)) (F w 35 8))
  | 4 => some (.tview h (F w 19 6) (Spc.of (F w 43 2)) (F w 35 8))
  | 6 => some (.barinit h (F w 35 8) (F w 0 18) (fBit w 18))
  | 7 => some (.bararr h (F w 35 8))
  | 8 => some (.barwait h (F w 35 8))
  | 9 => some (.barsync h (F w 35 8))
  | _ => none

/-- Fields of a word of major 7, by MIN; `x` is the extension word. -/
def raw7 (min w x : Nat) : Option Instr :=
  let h := fHdr w
  match min with
  | 0 => some (.vadd h (Ty.of (F w 41 4)) ⟨F w 33 8, F w 29 4⟩ ⟨F w 21 8, F w 15 6⟩ ⟨F w 7 8, F w 1 6⟩)
  | 1 => some (.vsub h (Ty.of (F w 41 4)) ⟨F w 33 8, F w 29 4⟩ ⟨F w 21 8, F w 15 6⟩ ⟨F w 7 8, F w 1 6⟩)
  | 2 => some (.vmul h (Ty.of (F w 41 4)) ⟨F w 33 8, F w 29 4⟩ ⟨F w 21 8, F w 15 6⟩ ⟨F w 7 8, F w 1 6⟩)
  | 4 => some (.vmin h (Ty.of (F w 41 4)) ⟨F w 33 8, F w 29 4⟩ ⟨F w 21 8, F w 15 6⟩ ⟨F w 7 8, F w 1 6⟩)
  | 5 => some (.vmax h (Ty.of (F w 41 4)) ⟨F w 33 8, F w 29 4⟩ ⟨F w 21 8, F w 15 6⟩ ⟨F w 7 8, F w 1 6⟩)
  | 8 => some (.vand h (Ty.of (F w 41 4)) ⟨F w 33 8, F w 29 4⟩ ⟨F w 21 8, F w 15 6⟩ ⟨F w 7 8, F w 1 6⟩)
  | 9 => some (.vor h (Ty.of (F w 41 4)) ⟨F w 33 8, F w 29 4⟩ ⟨F w 21 8, F w 15 6⟩ ⟨F w 7 8, F w 1 6⟩)
  | 10 => some (.vxor h (Ty.of (F w 41 4)) ⟨F w 33 8, F w 29 4⟩ ⟨F w 21 8, F w 15 6⟩ ⟨F w 7 8, F w 1 6⟩)
  | 12 => some (.vshl h (Ty.of (F w 41 4)) ⟨F w 33 8, F w 29 4⟩ ⟨F w 21 8, F w 15 6⟩ ⟨F w 7 8, F w 1 6⟩)
  | 13 => some (.vshr h (Ty.of (F w 41 4)) ⟨F w 33 8, F w 29 4⟩ ⟨F w 21 8, F w 15 6⟩ ⟨F w 7 8, F w 1 6⟩)
  | 14 => some (.vsra h (Ty.of (F w 41 4)) ⟨F w 33 8, F w 29 4⟩ ⟨F w 21 8, F w 15 6⟩ ⟨F w 7 8, F w 1 6⟩)
  | 21 => some (.vwmul h (Ty.of (F w 41 4)) ⟨F w 33 8, F w 29 4⟩ ⟨F w 21 8, F w 15 6⟩ ⟨F w 7 8, F w 1 6⟩)
  | 22 => some (.vwadd h (Ty.of (F w 41 4)) ⟨F w 33 8, F w 29 4⟩ ⟨F w 21 8, F w 15 6⟩ ⟨F w 7 8, F w 1 6⟩)
  | 3 => some (.vfma h (Ty.of (F w 41 4)) ⟨F w 33 8, F w 29 4⟩ ⟨F w 21 8, F w 15 6⟩ ⟨F w 7 8, F w 1 6⟩ ⟨F x 56 8, F x 50 6⟩)
  | 6 => some (.vabs h (Ty.of (F w 41 4)) ⟨F w 33 8, F w 29 4⟩ ⟨F w 21 8, F w 15 6⟩)
  | 7 => some (.vneg h (Ty.of (F w 41 4)) ⟨F w 33 8, F w 29 4⟩ ⟨F w 21 8, F w 15 6⟩)
  | 11 => some (.vnot h (Ty.of (F w 41 4)) ⟨F w 33 8, F w 29 4⟩ ⟨F w 21 8, F w 15 6⟩)
  | 15 => (Cond.of? (F x 0 3)).bind fun v0 => some (.vcmp h v0 (Ty.of (F w 41 4)) ⟨F w 33 8, F w 29 4⟩ ⟨F w 21 8, F w 15 6⟩ ⟨F w 7 8, F w 1 6⟩)
  | 16 => some (.vsel h (Ty.of (F w 41 4)) ⟨F w 33 8, F w 29 4⟩ ⟨F w 21 8, F w 15 6⟩ ⟨F w 7 8, F w 1 6⟩ ⟨F x 56 8, F x 50 6⟩)
  | 17 => some (.vbcast h (Ty.of (F w 41 4)) ⟨F w 33 8, F w 29 4⟩ (F w 9 6))
  | 18 => some (.vlane h (Ty.of (F w 41 4)) (F w 33 8) ⟨F w 21 8, F w 15 6⟩ (F w 9 6) (F w 0 9))
  | 19 => some (.vperm h ⟨F w 33 8, F w 29 4⟩ ⟨F w 21 8, F w 15 6⟩ ⟨F w 7 8, F w 1 6⟩)
  | 20 => some (.viota h (Ty.of (F w 41 4)) ⟨F w 33 8, F w 29 4⟩)
  | 23 => some (.vexp2 h ⟨F w 33 8, F w 29 4⟩ ⟨F w 21 8, F w 15 6⟩)
  | 24 => some (.vrcp h ⟨F w 33 8, F w 29 4⟩ ⟨F w 21 8, F w 15 6⟩)
  | 25 => some (.vrsq h ⟨F w 33 8, F w 29 4⟩ ⟨F w 21 8, F w 15 6⟩)
  | 26 => some (.vsqrt h ⟨F w 33 8, F w 29 4⟩ ⟨F w 21 8, F w 15 6⟩)
  | _ => none

/-- Fields of a word of major 8, by MIN; `x` is the extension word. -/
def raw8 (min w x : Nat) : Option Instr :=
  let h := fHdr w
  match min with
  | 0 => some (.vcvt h (Ty.of (F w 41 4)) (Ty.of (F w 7 4)) (F w 11 3) ⟨F w 33 8, F w 29 4⟩ ⟨F w 21 8, F w 15 6⟩)
  | 1 => some (.vquant h (Ty.of (F w 41 4)) (F x 0 4) ⟨F w 33 8, F w 29 4⟩ ⟨F w 21 8, F w 15 6⟩)
  | 2 => some (.vquant2 h (Ty.of (F w 41 4)) ⟨F w 33 8, F w 29 4⟩ ⟨F x 56 8, F x 50 4⟩ ⟨F w 21 8, F w 15 6⟩)
  | 3 => some (.vdeq h (Ty.of (F w 41 4)) (F x 0 4) ⟨F w 33 8, F w 29 4⟩ ⟨F w 21 8, F w 15 6⟩)
  | _ => none

/-- Fields of a word of major 9, by MIN; `x` is the extension word. -/
def raw9 (min w x : Nat) : Option Instr :=
  let h := fHdr w
  match min with
  | 0 => some (.vsclr h ⟨F w 33 8, F w 29 4⟩)
  | 1 => some (.vstat h (F w 41 4) ⟨F w 33 8, F w 29 4⟩ ⟨F w 21 8, F w 15 6⟩ ⟨F w 7 8, F w 1 6⟩)
  | 2 => some (.vstatw h (F w 41 4) ⟨F w 33 8, F w 29 4⟩ ⟨F w 21 8, F w 15 6⟩ ⟨F w 7 8, F w 1 6⟩ ⟨F x 56 8, F x 50 6⟩)
  | 3 => some (.vsmerge h ⟨F w 33 8, F w 29 4⟩ ⟨F w 21 8, F w 15 6⟩ ⟨F w 7 8, F w 1 6⟩)
  | 4 => if F w 41 3 = 5#3 then some (.vsdrainNorm h (fBit w 44) ⟨F w 33 8, F w 29 4⟩ ⟨F w 21 8, F w 15 6⟩ ⟨F w 7 8, F w 1 6⟩ ⟨F x 56 8, F x 50 6⟩ (F x 0 32) (fBit x 32) (F x 33 3)) else some (.vsdrain h (F w 41 3) (fBit w 44) ⟨F w 33 8, F w 29 4⟩ ⟨F w 21 8, F w 15 6⟩ ⟨F w 7 8, F w 1 6⟩)
  | 5 => some (.vredmax h (Ty.of (F w 41 4)) ⟨F w 33 8, F w 29 4⟩ ⟨F w 21 8, F w 15 6⟩)
  | 6 => some (.vredmin h (Ty.of (F w 41 4)) ⟨F w 33 8, F w 29 4⟩ ⟨F w 21 8, F w 15 6⟩)
  | 7 => some (.vhist h ⟨F w 33 8, F w 29 4⟩ ⟨F w 21 8, F w 15 6⟩ ⟨F w 7 8, F w 1 6⟩)
  | 8 => some (.vrank h ⟨F w 33 8, F w 29 4⟩ ⟨F w 21 8, F w 15 6⟩ ⟨F w 7 8, F w 1 6⟩)
  | 9 => some (.vamerge h ⟨F w 33 8, F w 29 4⟩ ⟨F w 21 8, F w 15 6⟩ ⟨F w 7 8, F w 1 6⟩)
  | 10 => some (.vafin h ⟨F w 33 8, F w 29 4⟩ ⟨F w 21 8, F w 15 6⟩)
  | _ => none

/-- Fields of a word of major 10, by MIN; `x` is the extension word. -/
def raw10 (min w x : Nat) : Option Instr :=
  let h := fHdr w
  match min with
  | 0 => some (.vld h (Ty.of (F w 41 4)) ⟨F w 33 8, F w 29 4⟩ ⟨F w 21 8, F w 15 6⟩ (F w 9 6) (F w 0 9))
  | 1 => some (.vst h ⟨F w 33 8, F w 29 4⟩ (F w 9 6) (F w 0 9) ⟨F w 21 8, F w 15 6⟩)
  | 2 => some (.vlds h (Ty.of (F w 41 4)) ⟨F w 33 8, F w 29 4⟩ ⟨F w 21 8, F w 15 6⟩ (F w 9 6) (F w 0 9) (F x 0 16) (F x 16 10))
  | 3 => some (.vgath h (Ty.of (F w 41 4)) ⟨F w 33 8, F w 29 4⟩ ⟨F w 21 8, F w 15 6⟩ ⟨F w 7 8, F w 1 6⟩)
  | 4 => some (.vscat h (Ty.of (F w 41 4)) ⟨F w 33 8, F w 29 4⟩ ⟨F w 21 8, F w 15 6⟩ ⟨F w 7 8, F w 1 6⟩)
  | 5 => some (.vldo h ⟨F w 33 8, F w 29 4⟩ ⟨F w 21 8, F w 15 6⟩ (F w 0 9))
  | 6 => some (.vsto h ⟨F w 33 8, F w 29 4⟩ (F w 0 9) ⟨F w 21 8, F w 15 6⟩)
  | 7 => some (.vqrd h ⟨F w 33 8, F w 29 4⟩ (F w 0 9))
  | _ => none

/-- Fields of a word of major 11, by MIN; `x` is the extension word. -/
def raw11 (min w x : Nat) : Option Instr :=
  let h := fHdr w
  match min with
  | 0 => some (.mma h (Ty.of (F w 41 4)) ⟨F w 33 8, F w 29 4⟩ ⟨F w 21 8, F w 15 6⟩ ⟨F w 7 8, F w 1 6⟩ (MmaOpt.of (F x 0 26)))
  | 1 => some (.mmas h (Ty.of (F w 41 4)) ⟨F w 33 8, F w 29 4⟩ ⟨F w 21 8, F w 15 6⟩ ⟨F w 7 8, F w 1 6⟩ (MmaOpt.of (F x 0 26)))
  | 2 => some (.mgath h (Ty.of (F w 41 4)) ⟨F w 33 8, F w 29 4⟩ ⟨F w 21 8, F w 15 6⟩ ⟨F w 7 8, F w 1 6⟩ ⟨F x 56 8, F x 50 6⟩ ⟨F x 26 8, F x 34 6⟩ (MmaOpt.of (F x 0 26)) (F x 40 2))
  | 3 => some (.mgroup h (Ty.of (F w 41 4)) ⟨F w 33 8, F w 29 4⟩ ⟨F w 21 8, F w 15 6⟩ ⟨F w 7 8, F w 1 6⟩ ⟨F x 56 8, F x 50 6⟩ (F x 26 9) (MmaOpt.of (F x 0 26)))
  | 4 => some (.acalloc h (F w 19 6) (F w 0 7))
  | 5 => some (.acfree h (F w 35 8))
  | 6 => some (.acband h (F w 35 8) (F w 0 4) (F w 4 8))
  | 7 => some (.aczero h ⟨F w 35 8, F w 31 4⟩)
  | 8 => some (.acdrain h (Ty.of (F w 41 4)) (F w 7 2) (fBit w 9) (F w 10 2) (fBit w 12) ⟨F w 33 8, F w 29 4⟩ ⟨F w 21 8, F w 15 6⟩)
  | 9 => some (.acfill h (F w 7 2) ⟨F w 33 8, F w 29 4⟩ ⟨F w 21 8, F w 15 6⟩)
  | _ => none

/-- Fields of a word of major 12, by MIN; `x` is the extension word. -/
def raw12 (min w x : Nat) : Option Instr :=
  let h := fHdr w
  match min with
  | 0 => some (.cp h (Spc.of (F w 43 2)) ⟨F w 35 8, F w 31 4⟩ (F w 19 6) (F w 13 6) (F w 6 7) (fBit w 0))
  | 1 => some (.cpst h (Spc.of (F w 43 2)) (F w 19 6) (F w 13 6) ⟨F w 35 8, F w 25 6⟩ (F w 0 2))
  | 2 => some (.cpg h ⟨F w 35 8, F w 31 4⟩ (F w 19 6) ⟨F x 56 8, F x 50 6⟩)
  | 3 => some (.cps h (F w 19 6) ⟨F w 35 8, F w 25 6⟩ ⟨F x 56 8, F x 50 6⟩)
  | 4 => some (.cpq h (F w 35 8) (F w 19 6) (F w 13 6))
  | 5 => some (.cppub h (Spc.of (F w 43 2)) (F w 35 8))
  | 6 => some (.rfence h)
  | _ => none

/-- Fields of a word of major 13, by MIN; `x` is the extension word. -/
def raw13 (min w x : Nat) : Option Instr :=
  let h := fHdr w
  match min with
  | 0 => some (.qpost h ⟨F w 35 8, F w 31 4⟩ ⟨F x 56 8, F x 50 6⟩ (F w 19 6) (F w 13 6) (F w 0 4) (F x 0 32))
  | 1 => some (.kvapp h (F w 19 6) (F w 13 6) ⟨F w 35 8, F w 25 6⟩)
  | 2 => some (.coll h ⟨F w 35 8, F w 31 4⟩ (F w 19 6))
  | 3 => some (.trigarm h (F w 19 6) (F w 13 6))
  | 4 => some (.trigclr h (F w 19 6))
  | 5 => some (.tsend h (F w 19 6) (F w 13 6))
  | _ => none

/-- Fields of a word of major 14, by MIN; `x` is the extension word. -/
def raw14 (min w : Nat) : Option Instr :=
  let h := fHdr w
  match min with
  | 0 => some (.nextit h (fPd w))
  | 1 => some (.done h)
  | 2 => some (.spawn h (fGa w))
  | 3 => some (.signal h (fGa w))
  | _ => none

/-- Fields of the words `w` and `x`, by MAJ and MIN. -/
def raw (w x : Nat) : Option Instr :=
  match majOf w with
  | 0 => raw0 (minOf w) w
  | 1 => raw1 (minOf w) w
  | 2 => raw2 (minOf w) w
  | 3 => raw3 (minOf w) w
  | 4 => raw4 (minOf w) w
  | 5 => raw5 (minOf w) w
  | 6 => raw6 (minOf w) w
  | 7 => raw7 (minOf w) w x
  | 8 => raw8 (minOf w) w x
  | 9 => raw9 (minOf w) w x
  | 10 => raw10 (minOf w) w x
  | 11 => raw11 (minOf w) w x
  | 12 => raw12 (minOf w) w x
  | 13 => raw13 (minOf w) w x
  | 14 => raw14 (minOf w) w
  | _ => none

/-- The MAJ and MIN pairs that R64 to R66 list (test 2 of R70). -/
def listed (maj min : Nat) : Bool :=
  match maj with
  | 0 => [0, 1, 2, 3, 4, 5, 6, 7, 8, 9].contains min
  | 1 => [0, 1, 2, 3, 4, 5, 6, 7, 8, 9, 10, 11, 12, 13, 14, 15, 16, 17, 18].contains min
  | 2 => [0, 1, 2, 3, 4, 5, 6, 7, 8, 9, 16, 17, 18, 19, 20, 21, 22, 23, 24, 32, 33, 34, 35].contains min
  | 3 => [0, 1, 2, 3, 4, 5, 6, 7, 8].contains min
  | 4 => [0, 1, 2, 3].contains min
  | 5 => [0, 1, 2, 3, 4, 5, 6, 7].contains min
  | 6 => [0, 1, 2, 3, 4, 5, 6, 7, 8, 9].contains min
  | 7 => [0, 1, 2, 3, 4, 5, 6, 7, 8, 9, 10, 11, 12, 13, 14, 15, 16, 17, 18, 19, 20, 21, 22, 23, 24, 25, 26].contains min
  | 8 => [0, 1, 2, 3].contains min
  | 9 => [0, 1, 2, 3, 4, 5, 6, 7, 8, 9, 10].contains min
  | 10 => [0, 1, 2, 3, 4, 5, 6, 7].contains min
  | 11 => [0, 1, 2, 3, 4, 5, 6, 7, 8, 9].contains min
  | 12 => [0, 1, 2, 3, 4, 5, 6].contains min
  | 13 => [0, 1, 2, 3, 4, 5].contains min
  | 14 => [0, 1, 2, 3].contains min
  | _ => false

/-- The instructions with a long form (R68): `VSDRAIN` exactly when its option is `norm` (R67). -/
def hasLong (maj min w : Nat) : Bool :=
  match maj with
  | 7 => [3, 15, 16].contains min
  | 8 => [1, 2, 3].contains min
  | 9 => [2].contains min || (min == 4 && w / 2^41 % 8 == 5)
  | 10 => [2].contains min
  | 11 => [0, 1, 2, 3].contains min
  | 12 => [2, 3].contains min
  | 13 => [0].contains min
  | _ => false

/-- Why a word is no instruction (tests 2, 3 and 5 of R70). -/
inductive DecodeError where
  | unlisted      -- cause 0x01
  | form          -- cause 0x13
  | reserved      -- cause 0x02
  | short         -- the bytes end inside the instruction: no fate of the manual, the fetch supplies 16 bytes
  deriving DecidableEq, Repr

/-- The cause of a decode error (R70). -/
def DecodeError.cause : DecodeError → Nat
  | .unlisted => 0x01
  | .form => 0x13
  | .reserved => 0x02
  | .short => 0x01

/-- The instruction in a first word and the word after it, or the fate of the first test of R70 that
fails, but for test 1 (fetch) and test 4 (privilege), which the machine makes. -/
def decodeWords (w x : Nat) : Except DecodeError Instr :=
  let long := fBit w 63
  if !listed (majOf w) (minOf w) then .error .unlisted
  else if long != hasLong (majOf w) (minOf w) w then .error .form
  else match raw w x with
    | none => .error .reserved
    | some i =>
      if encode i = (if long then [BitVec.ofNat 64 w, BitVec.ofNat 64 x] else [BitVec.ofNat 64 w]) && i.wf
      then .ok i else .error .reserved

/-- Eight bytes, lowest address first, as a word (R5). -/
def leWord : List Byte → Nat
  | [] => 0
  | b :: bs => b.toNat + 2^8 * leWord bs

/-- The bytes of a word, lowest address first (R5). -/
def wordBytes (w : Word) : List Byte := (List.range 8).map fun i => F w.toNat (8 * i) 8

/-- Decode from bytes: the instruction and the bytes after it. -/
def decode (bs : List Byte) : Except DecodeError (Instr × List Byte) :=
  if bs.length < 8 then .error .short
  else
    let w := leWord (bs.take 8)
    if fBit w 63 && bs.length < 16 then
      if !listed (majOf w) (minOf w) then .error .unlisted
      else if !hasLong (majOf w) (minOf w) w then .error .form
      else .error .short
    else match decodeWords w (leWord ((bs.drop 8).take 8)) with
      | .error e => .error e
      | .ok i => .ok (i, bs.drop (if fBit w 63 then 16 else 8))

/-- The bytes of an encoded instruction. -/
def encodeBytes (i : Instr) : List Byte := (encode i).flatMap wordBytes

/-- What the decoder reads from the instruction whose bits are `w`, numbered as the opcode table numbers
them, with every bit above `nbits` zero. -/
def decodeTableWord (nbits w : Nat) : Option Instr :=
  let v := w % 2^nbits
  match decode ((wordBytes (BitVec.ofNat 64 v)) ++ (wordBytes (BitVec.ofNat 64 (v / 2^64)))) with
  | .ok (i, _) => some i
  | .error _ => none

end Sys2Proof
end

