-- ==== Sys2Proof/Machine/State.lean ====
section
/-!
DEFINITION. The state of the VLM-2840 as plain data, the reasons a step may stop, and the state after
reset. Collections keyed by a number are sorted association lists (`Sparse`) whose unlisted entries
have a stated default; the keys are given beside each field. A core is named by its device-wide number
0 to 159 (R2), a stream by `8 * core + n`, a task slot by `4 * core + slot`.
-/
namespace Sys2Proof.Machine

/-- A map from keys to values, keys rising, entries equal to the default left out. -/
abbrev Sparse (α : Type) := List (Nat × α)

/-- The reasons the machine stops. -/
inductive Fault where
  /-- Raised by `step` alone: the junction trip has stopped every clock and only PERST# clears it
  (R375). Safe: nothing is claimed of a device without clocks. -/
  | clocksStopped
  deriving DecidableEq, Repr

/-- The reasons an instruction has no meaning here. -/
inductive Refusal where
  /-- Raised by an arm of `exec` for an instruction not written yet. Safe. -/
  | notModelled (mnemonic : String)
  deriving DecidableEq, Repr

/-! ### Streams -/

/-- What a stream is doing: SSTATE of R329 but for the causes of a stop, which its task holds. -/
inductive SRun where
  | absent | run | done | yielded
  deriving DecidableEq, Repr

/-- The three modes (R91). -/
inductive Mode where
  | task | handler | firmware
  deriving DecidableEq, Repr

/-- The fetch state of a branch target (R126). -/
inductive BFetch where
  | none | due (cycle : Nat) | ready
  deriving DecidableEq, Repr

/-- A b register: its target and its fetch state (R10, R126). -/
structure BReg where
  tgt : Word := 0
  st  : BFetch := .none
  deriving DecidableEq, Repr

/-- A fixed-latency result on its way (R89 rule 1): to g register `reg`, or to predicate `reg - 32`;
`due` is the first cycle whose issue reads it. -/
structure Land where
  reg : Nat
  due : Nat
  val : Word
  deriving DecidableEq, Repr

/-- A pending result on its way to g register `reg` (R42, R89 rules 2 to 4). -/
structure Arr where
  reg  : Nat
  due  : Nat
  val  : Word
  load : Bool := false          -- counts as a load until it arrives (R12)
  own  : Bool := false          -- comes from the core's own frames, so that a freeze holds it (R43)
  view : Option (Nat × Nat) := .none   -- a TVIEW's: the object, and the cycle whose counts it shows (R135)
  deriving DecidableEq, Repr

/-- What an entry of a stream's load and store queues does (R116, R118, R121, R233). -/
inductive AccKind where
  | ld (sg : Bool) | st | amo (op : AmoOp) | cas | mark | spawn | signal
  deriving DecidableEq, Repr

/-- The place an access acts on: a location in memory, or a byte of a frame's front of a core. -/
inductive Place where
  | mem (l : Loc) | frm (core frame off : Nat)
  deriving DecidableEq, Repr

/-- An entry of a stream's in-order memory queue: the load and store queues of R116 in one list, in
program order. -/
structure Acc where
  kind  : AccKind
  place : Place
  size  : Nat                   -- bytes
  reg   : Nat := 0              -- destination g register
  val   : Word := 0             -- store data, or gb of an atomic
  cmp   : Word := 0             -- CAS: the compared value
  scope : Scope := .strm
  ord   : Ord := .rlx
  va    : Word := 0
  seq   : Nat := 0              -- operations issued before it have lower numbers
  due   : Nat := 0              -- earliest cycle in which its value returns
  deriving DecidableEq, Repr

/-- What a stream's current wait is for, for the fault frame of a timeout (R292): an object, a
barrier, or nothing named. -/
structure Wait where
  since : Nat
  obj   : Option (BitVec 2 × BitVec 8) := .none
  cnt   : Bool := false         -- a counted wait (R34)
  deriving DecidableEq, Repr

/-- The shuttle state of a stream (R231, R338): assignments taken, an answer owed, and the `pd`, GAP, SW and place of
the waiting NEXTIT. -/
structure NextIt where
  taken : Nat := 0
  owed  : Bool := false
  pd    : P := 0
  gap   : BitVec 2 := 0
  sw    : Bool := false
  at'   : Option Word := .none
  deriving DecidableEq, Repr

/-- The 128 lane rounding states that a SEED gives (R95), lane n in bits [32n+31:32n]. -/
def seedLanesFrom (seed : BitVec 32) : Nat → BitVec 4096
  | 0 => 0
  | n + 1 =>
    seedLanesFrom seed n ||| ((seed ^^^ (BitVec.ofNat 32 (n * 0x9E3779B9))).setWidth 4096 <<< (32 * n))

/-- A stream (R10, R11, R12, R92 to R95, R99, R137, R338). -/
structure Stream where
  run     : SRun := .absent
  slot    : Nat := 0            -- task slot of its core
  tnum    : Nat := 0            -- task-relative number
  mode    : Mode := .task
  pc      : Word := 0
  g       : Sparse Word := []   -- g1 to g31; unlisted 0
  pend    : BitVec 32 := 0      -- pending bits of g1 to g31
  p       : BitVec 8 := 0       -- p1 to p7
  b       : Sparse BReg := []   -- b0 to b7; unlisted 0 and not fetched
  q       : Sparse (List Word) := []   -- q0 to q3, oldest element first
  spill   : Sparse Word := []   -- keyed by offset / 8; unlisted 0
  cntL    : BitVec 10 := 0      -- outstanding loads
  cntS    : BitVec 10 := 0      -- stores
  cntC    : BitVec 10 := 0      -- copies
  cntT    : BitVec 10 := 0      -- tile operations
  fpc     : BitVec 32 := 0
  flg     : BitVec 32 := 0
  seed    : BitVec 32 := 0x2545F491
  lanes   : BitVec 4096 := seedLanesFrom 0x2545F491 128
  finfo   : Word := 0
  syncArr : Bool := false
  syncBar : Nat := 0            -- the number of the barrier SYNCARR stands for
  nextIss : Nat := 0            -- first cycle in which it may issue (R49)
  iss0    : Nat := 0            -- the cycle after its last issue (R349)
  sw      : Bool := false       -- its last instruction carried SW (R50)
  land    : List Land := []     -- landing order
  arr     : List Arr := []
  mq      : List Acc := []      -- oldest first
  wait    : Option Wait := .none
  wtc     : Option Word := .none -- the place of a WAITC that it waits at (R268)
  barW    : Option Nat := .none -- waiting for the release of this physical barrier
  nx      : NextIt := {}
  yclean  : Bool := false       -- stopped at a YIELD with the clean bit
  ymask   : BitVec 32 := 0      -- its live mask
  dstop   : Bool := false       -- stopped for a debug stop (R348)
  stopC   : Nat := 0            -- the cycle of that stop
  bphit   : Bool := false       -- the breakpoint at its PC has been taken
  deriving DecidableEq, Repr

/-! ### Tasks -/

/-- The standing of a task on one core of its gang. -/
inductive TStat where
  | empty      -- no task in the slot
  | run
  | stopping   -- an operation has faulted and the work is being stopped (R327)
  | stopped    -- all of it has stopped, and the fault is to be delivered (R331)
  | handler    -- its faulting stream runs the handler (R331)
  | hostStop   -- stopped for the host (R362)
  | gated      -- gated for pre-emption, CTXSAVE or an epoch (R294, R343)
  | ended      -- ended; its frame is kept for a core dump (R333)
  | saved      -- saved by CTXSAVE: the slot is empty and keeps its windows (R108)
  deriving DecidableEq, Repr

/-- The fault a task reports (R328, R329, R362). -/
structure FaultRec where
  finfo : Word := 0
  faddr : Word := 0
  fcyc  : Nat := 0
  fstep : Nat := 0
  strm  : Nat := 0              -- the faulting stream, task-relative
  code  : Nat := 0              -- walk code of a translation fault
  host  : Bool := false         -- delivered to the host
  deriving DecidableEq, Repr

/-- One core's part of a placed gang instance (R10, R96, R97, R276, R285, R293). -/
structure Task where
  stat   : TStat := .empty
  token  : Nat := 0             -- names the gang instance
  lid    : Nat := 0             -- its launch
  ctx    : Nat := 0
  prio   : Nat := 0
  phys   : List Nat := []       -- physical streams, ascending
  win    : BitVec 64 := 0
  grank  : Nat := 0
  gsize  : Nat := 1
  gbase  : Nat := 0             -- device-wide core of rank 0
  gslots : List Nat := []       -- its slot on each core of the gang, rank order
  sper   : Nat := 1             -- streams of one stream group
  evb    : Word := 0
  wlim   : Nat := 4194304       -- wait limit in cycles (R292)
  seq    : Nat := 0             -- placement order
  idx    : Nat := 0             -- its number among the instances of its launch
  amap   : BitVec 64 := 0       -- allocated bank names (R198)
  bankC  : Sparse Nat := []     -- first cycle in which an operation may start on a bank name (R191, R199)
  bmask  : Sparse (BitVec 32) := []    -- owner mask of band b of a name in bits [8b+7:8b]
  fault  : Option FaultRec := .none
  kept   : Option FaultRec := .none    -- the fault kept after delivery
  yreq   : Option Nat := .none  -- deadline of a standing yield request (R293)
  was    : TStat := .run        -- where it stood when it was gated: running, in handler mode, or stopped by a fault (R294)
  gate0  : Nat := 0             -- cycle of the gating
  out    : BitVec 16 := 0       -- parts scanned out, by the bits of PRESENT (R338)
  deriving DecidableEq, Repr

/-! ### Counted objects (R14 to R16, R36, R187 to R189)

An object's key is `(core * 4 + SPC) * 256 + index`, with the physical index but for a bank, whose
name is used with its task slot: `(core * 4 + 2) * 256 + 64 * slot + name`. -/

/-- The counts of an object and the views of its task's streams, V(s) in bits [16s+15:16s]. -/
structure Cnt where
  w   : BitVec 16 := 0
  d   : BitVec 4 := 0
  l   : BitVec 4 := 0
  h   : Bool := false
  rif : Nat := 0                -- reads in flight
  v   : BitVec 128 := 0
  wc  : Nat := 0                -- cycle of the latest bump, and the unit that made it (R42)
  wu  : Nat := 0
  lc  : Nat := 0                -- cycle in which it last became free to be written, and the unit
  lu  : Nat := 0
  deriving DecidableEq, Repr

/-- The fill state of a shadow (R212): how many fills have published, whether the current one is open,
and whether its closing event has happened. -/
structure Fill where
  gen    : Nat := 0
  opn    : Bool := false
  closed : Bool := false
  deriving DecidableEq, Repr

/-- A barrier (R136), T(s) in bits [16s+15:16s] of `t`; a gang barrier also holds the targets of the
other cores of the gang, rank r's in bits [128r+16s+15:128r+16s]. -/
structure Bar where
  n    : BitVec 32 := 0
  a    : BitVec 32 := 0
  gen  : BitVec 16 := 0
  gang : Bool := false
  t    : BitVec 1024 := 0
  rel  : Nat := 0               -- cycle of the arrival that last completed a phase
  deriving DecidableEq, Repr

/-! ### Engine operations -/

/-- Where an operation stands: in its queue; started; all steps done and waiting to commit, publish or
complete. -/
inductive OpPh where
  | queued | run | tail
  deriving DecidableEq, Repr

/-- An issued engine operation that has not completed (R20 to R24, R211, R225, R229). -/
structure Op where
  uid   : Nat
  core  : Nat
  strm  : Nat                   -- physical stream
  slot  : Nat
  tnum  : Nat                   -- task stream
  ctx   : Nat
  eng   : Eng
  i     : Instr
  pc    : Word
  cyc   : Nat                   -- cycle of issue
  fpc   : BitVec 32             -- captured FPC (R23)
  guard : Bool
  gv    : List Word := []       -- captured values of its g operands, in the order of its entry
  reg   : Nat := 0              -- destination g register, for VLANE and ACALLOC
  ph    : OpPh := .queued
  step  : Nat := 0              -- next step index; of a vector operation, 1 once it has read its sources
  pos   : Nat := 0              -- elements, then metadata bytes, that a copy has moved
  at0   : Nat := 0              -- cycle of start
  due   : Nat := 0              -- earliest cycle of its next event
  rdue  : Nat := 0              -- earliest cycle in which its reads retire
  rds   : List Nat := []        -- keys of the tracked reads in flight
  wait  : Option Nat := .none   -- since when its current counted wait has held it
  fill  : Nat := 0              -- generation of the fill it belongs to
  cw    : Nat := 0              -- cycles of its counted wait at the head
  samp  : Option (Nat × Nat) := .none   -- tagged for sampling (R349): its FETCH and ISSUE
  uncnt : Bool := false         -- already completed for the outstanding counters
  got   : List Nat := []        -- partials and values that a collective has received of each element (R370)
  rer   : Bool := false         -- a port has failed since a collective started (R371)
  tree  : Option (Nat × List Nat) := .none   -- its re-formed merge tree: the free value, and the elements under way (R371)
  img   : List Nat := []        -- what it has read: operand images, record, indices
  res   : List (List (Nat × Nat × Nat)) := []   -- what it will write to each destination: byte offset,
                                -- bytes, value
  flags : BitVec 8 := 0
  deriving DecidableEq, Repr

/-! ### Cores -/

/-- An entry of a translation cache (R305, R309). -/
structure Tlb where
  ctx  : Nat
  page : Nat                    -- first virtual address of the page
  lvl  : Nat                    -- level of the leaf
  pte  : Word
  ploc : Nat                    -- memory key of the entry
  deriving DecidableEq, Repr

/-- A cached record (R210): its task slot and context, its address, and its image. -/
structure Rec where
  slot : Nat
  addr : Word
  img  : Nat
  deriving DecidableEq, Repr

/-- A core's own state beside its streams and objects. -/
structure Core where
  tlb   : List Tlb := []
  recs  : List Rec := []
  frz   : Option Nat := .none   -- frozen until this cycle (R43)
  frz0  : Nat := 0              -- the cycle in which the freeze began
  hold  : Bool := false         -- Salend has stopped it at safe points (R325)
  issC  : Nat := 0              -- the cycle of its latest issue
  issN  : Nat := 0              -- issues made in that cycle
  last  : Nat := 7              -- the stream taken last (R290)
  rot   : Nat := 7              -- the stream taken last before that cycle, from which its rotation goes on (R290)
  endC  : Nat := 0              -- issues of the cycles below this one are over (R21, R291)
  startC : Sparse Nat := []     -- first cycle in which an engine may start again, by its number (R21)
  busy  : Sparse Nat := []      -- busy cycles of engine 1 to 4 (R350)
  cIss  : Nat := 0              -- issue cycles
  cWait : Nat := 0              -- counted-wait cycles
  cEcc  : Nat := 0              -- ECC freezes
  deriving DecidableEq, Repr

/-! ### Stacks -/

/-- A trigger entry (R229): the 64-byte command, its context, and whether it is armed. -/
structure Trig where
  cmd   : BitVec 512 := 0
  ctx   : Nat := 0
  cd    : Nat := 0              -- arrivals still to come
  armed : Bool := false
  deriving DecidableEq, Repr

/-- A launched trigger command. -/
structure Cmd where
  cmd  : BitVec 512
  ctx  : Nat
  deriving DecidableEq, Repr

/-- A memory stack: its trigger table, its launch order, and its counters (R230, R335, R350, R372). -/
structure Stack where
  trig  : Sparse Trig := []     -- entries 0 to 255
  miss  : Nat := 0
  queue : List Cmd := []
  now   : Option Cmd := .none   -- the command running
  cRef  : Nat := 0
  cScr  : Nat := 0
  cAct  : Nat := 0              -- ordinary activations
  cAttn : Nat := 0              -- attention activations
  cRd   : Nat := 0              -- bytes read
  cWr   : Nat := 0              -- bytes written
  corr  : Sparse Nat := []      -- correctable errors of bank 128 * die + bank in this scrub cycle
  scyc  : Nat := 0              -- the scrub cycle (24 h) they belong to
  spare : Sparse Nat := []      -- times a bank's failing rows were replaced by spares
  sref  : Bool := false         -- in self-refresh
  srefX : Bool := false         -- on its way out of self-refresh
  deriving DecidableEq, Repr

/-! ### Saved tasks -/

/-- What the device keeps of a task that is off its core, or partly off it, beside the bytes of its save area
(R338, R340, R41): its placement, its streams, its operations with their captured values, its fills and barriers, and its banks
where they stand while its slot is another's. Object keys are relative to its windows: `256 * space + name`; streams are task-relative. -/
structure Saved where
  id    : Nat
  core  : Nat
  slot  : Nat
  area  : Word                          -- 0 of a clean yield
  task  : Task
  strms : List (Nat × Stream)
  ops   : List Op
  fills : List (Nat × Fill)
  bars  : List (Nat × Bar) := []        -- its barriers, those of a gang at rank 0
  banks : List (Nat × BitVec 131072) := []   -- its banks that were not scanned out, by name, with their counts and poison
  bcnts : List (Nat × Cnt) := []
  bpois : List (Nat × Nat) := []
  pois  : List (Nat × Nat) := []        -- object and word of each poisoned word
  hnd   : Bool := false                 -- made by CTXSAVE (R108)
  off   : Bool := true                  -- its slot is free; otherwise only the parts in `task.out` are off the core
  clean : Bool := false
  keep  : Bool := true                  -- nothing was placed in its ranges since a clean yield (R41); CTXLOAD has not used it yet
  deriving DecidableEq, Repr

/-! ### Contexts, functions and queues -/

/-- A hardware context (R101, R305, R317, R337, R341, R347 to R352, R357, R369). -/
structure Ctx where
  bind    : BitVec 64 := 7      -- CTXBIND; owner code in [2:0]
  root    : BitVec 64 := 0      -- CTXROOT
  pool    : BitVec 64 := 0      -- SAVEPOOL
  ydl     : BitVec 64 := 54000  -- YDL
  grptab  : BitVec 64 := 0      -- GRPTAB
  dbgctl  : BitVec 64 := 0      -- DBGCTL
  evb     : BitVec 64 := 0      -- EVB
  bp      : Sparse (BitVec 64) := []   -- BP0 to BP15
  trbuf   : BitVec 64 := 0
  sampctl : BitVec 64 := 0
  ttrig   : BitVec 64 := 0
  dumpctl : BitVec 64 := 0
  dumpbuf : BitVec 64 := 0
  dumpsts : BitVec 64 := 0
  lost    : Bool := false
  ckey    : Option (BitVec 256) := .none   -- checkpoint key
  objs    : List CodeObj := [] -- registered code objects (R347)
  trpos   : Nat := 0            -- next byte of the trace ring
  evC     : Nat := 0            -- cycle of the latest event (R351)
  evStop  : Bool := false       -- STOP has held in that cycle
  evs     : List Nat := []      -- event records of that cycle not yet written
  dbgStop : Bool := false       -- a debug stop has been requested
  force   : Bool := false       -- it stops at issue boundaries
  dumpC   : Nat := 0            -- cycle of the dump request
  stopC   : Nat := 0            -- the cycle in which STOPPED became 1
  deriving DecidableEq, Repr

/-- An entry of a fault queue that is still to be written (R362). -/
structure FqEnt where
  kind  : Nat
  ctx   : Nat
  code  : Nat := 0
  token : Nat := 0
  finfo : Word := 0
  faddr : Word := 0
  cyc   : Nat := 0
  core  : Nat := 0
  slot  : Nat := 0
  deriving DecidableEq, Repr

/-- The states of a TDISP interface (R319). -/
inductive Tdisp where
  | unlocked | locked | run | error
  deriving DecidableEq, Repr

/-- An entry of the order log (R345). -/
structure LogEnt where
  typ    : Nat
  unit   : Nat
  whr    : Nat
  seq    : Nat
  choice : Nat
  deriving DecidableEq, Repr

/-- A submission queue (R358). -/
structure Sq where
  base : BitVec 64 := 0
  ctl  : BitVec 64 := 0
  head : BitVec 16 := 0
  tail : BitVec 16 := 0
  deriving DecidableEq, Repr

/-! ### Graph and dispatch -/

/-- The completion that a ring entry asks for (R359, R361). -/
structure Cpl where
  f    : Nat                    -- function of the queue
  ctx  : Nat
  addr : Word
  val  : Word
  vec  : Nat
  deriving DecidableEq, Repr

/-- A node submitted or spawned and held until its LIVE is 0 (R282). -/
structure Held where
  die  : Nat
  ctx  : Nat
  node : Word
  prio : Nat
  cpl  : Option Cpl := .none
  deriving DecidableEq, Repr

/-- A release still to be applied to a node (R282). -/
structure Rel where
  die  : Nat
  ctx  : Nat
  node : Word
  prio : Nat
  deriving DecidableEq, Repr

/-- A loop entry of a loop-nest record (R280). -/
structure Loop where
  kind  : Nat
  reg   : Nat
  outer : Nat
  bound : Nat
  deriving DecidableEq, Repr

/-- A shuttle's walk (R288, R289): the indices of the next iteration, outermost first, with the bound
fixed for the current entry of each loop; the next ordinal; the groups waiting, in order of request. -/
structure Shuttle where
  idx  : List (Nat × Nat) := [] -- index and bound of each loop entered
  ord  : Nat := 0
  fin  : Bool := false
  next : Nat := 0               -- first cycle in which it may serve a request (R289)
  reqs : List (Nat × Nat × Nat × Nat × Nat) := []  -- cycle, core, group, slot, token
  deriving DecidableEq, Repr

/-- A fired kernel node (R276 to R283). -/
structure Launch where
  lid   : Nat
  die   : Nat
  ctx   : Nat
  prio  : Nat
  node  : Word
  succ  : List Word
  entry : Word
  arg   : Word
  wint  : Nat
  wino  : Nat
  wina  : Nat
  winf  : Nat
  winb  : Nat
  wlim  : Nat
  lvls  : List (Nat × Nat × Nat)   -- DOM, SCOPE, COUNT of each level in use
  nest  : Bool                     -- it has a loop-nest record
  lnest : Word := 0                -- LOOPNEST
  loops : List Loop
  sh    : Shuttle := {}
  shOn  : Option Nat := .none      -- the die whose shuttle it holds
  total : Nat                      -- gang instances
  ended : Nat := 0
  term  : Bool := false            -- an instance was terminated
  spots : List (Nat × Nat) := []   -- of each instance placed: its number, and the core of its rank 0
  cpl   : Option Cpl := .none
  deriving DecidableEq, Repr

/-- An instance in a dispatcher's pending list (R285, R287, R296): new, or gated with its token. -/
structure Inst where
  die   : Nat
  lid   : Nat
  prio  : Nat
  arr   : Nat                   -- arrival order
  pass  : Nat := 0              -- times passed over as head
  token : Option Nat := .none
  deriving DecidableEq, Repr

/-- The assignments of a stream group (R231), keyed by `8 * token + group`: each the indices and the
ordinal with the cycle of arrival, or none for no iteration. -/
structure Group where
  asg  : List (Nat × Option (List Nat × Nat)) := []
  reqd : Nat := 0               -- requests made
  deriving DecidableEq, Repr

/-! ### Ports, power and security -/

/-- A flit that a port sends (R363, R366): a request keeps its path, the source core and stream, or none where it went
round-robin. -/
structure Sent where
  fl   : Flit
  path : Option (Nat × Nat) := .none
  req  : Bool := false
  deriving DecidableEq, Repr

/-- A Balua port (R364 to R368). -/
structure Port where
  lanes : Nat := 4
  up    : Bool := true
  exp   : Nat := 0              -- LSEQ expected next
  ack   : Option Flit := .none  -- the link acknowledgement that it sent last
  inq   : List Flit := []       -- flits received in order and not yet taken, oldest first
  seq   : Nat := 0              -- LSEQ of the next flit sent
  out   : List Sent := []       -- flits that wait for room in the replay buffer, oldest first
  sent  : List Flit := []       -- replay buffer: flits sent and not acknowledged by the link, oldest first
  fails : Nat := 0              -- sends in a row that have failed on the oldest of them, the first and its retries
  unack : List Sent := []       -- requests sent and not acknowledged end to end, oldest first
  redo  : List Sent := []       -- requests of a port that went down, to be sent again on another
  hot   : List Nat := []        -- memory keys of its hot words, most recent first
  cSent : Nat := 0
  cRecv : Nat := 0
  cRetr : Nat := 0
  deriving DecidableEq, Repr

/-- Lifecycle states (R323). -/
inductive Life where
  | manufacture | provisioned | deployed | debugUnlocked | retired
  deriving DecidableEq, Repr

/-- What the device last answered to a request of the host. -/
inductive Resp where
  | none
  | ok
  | refused
  | unsupported                 -- Unsupported Request (R356)
  | retry                       -- Configuration Request Retry Status (R377)
  | status (n : Nat)
  | nonce (v : BitVec 256)
  | data (v : BitVec 64)
  | report (bytes : List Byte)
  deriving DecidableEq, Repr

/-- A machine-check entry (R336). -/
structure Mc where
  kind : Nat
  qtr  : Nat
  sev  : Nat
  ctx  : Nat
  cyc  : Nat
  loc  : Word
  info : Word
  deriving DecidableEq, Repr

/-- Who moves next: a stream's issue, an event, or nobody for some cycles. -/
inductive Act where
  | issue (c n : Nat)
  | ev (i : Instr)
  | idle (n : Nat)
  deriving DecidableEq, Repr

/-- The counted storage of the cores with its counts, fills, barriers and poison. The key of an object
is as above; a slot and a frame have a front and a shadow, and a slot a side array beside each. -/
structure Objs where
  cnts   : Sparse Cnt := []
  tregs  : Sparse (BitVec 4096) := []
  slotF  : Sparse (BitVec 65536) := []
  slotS  : Sparse (BitVec 65536) := []
  sideF  : Sparse (BitVec 24576) := []
  sideS  : Sparse (BitVec 24576) := []
  banks  : Sparse (BitVec 131072) := []
  frmF   : Sparse (BitVec 32768) := []
  frmS   : Sparse (BitVec 32768) := []
  fills  : Sparse Fill := []
  bars   : Sparse Bar := []     -- by 64 * core + physical barrier
  poison : List (Nat × Nat × Nat × Nat) := []   -- core, store, object, word of a poisoned word
  deriving DecidableEq, Repr

/-- The control complexes: graph sequencers, dispatchers, shuttles and saved tasks (R282 to R296). -/
structure Ctl where
  held   : List Held := []
  rels   : List Rel := []       -- in order
  lnch   : List Launch := []
  pendI  : List Inst := []
  grps   : Sparse Group := []   -- by 8 * token + stream group
  saves  : List Saved := []
  rr     : Sparse Nat := []     -- queue that is tried first, by 16 * owner + 8 * die + priority (R282)
  rrPart : Sparse Nat := []     -- owner that is tried first: of a sequencer by die, of a dispatcher by 2 + die (R311)
  placeC : Sparse Nat := []     -- first cycle of a dispatcher's next placement, by die (R286)
  halt   : Bool := false        -- halted by Salend (R325)
  deriving DecidableEq, Repr

/-! ### Checkpoints and functions -/

/-- A block as an epoch copies it (R344): its plaintext image, and its poisoned sectors. -/
structure Block where
  ctx    : Nat
  va     : Nat
  key    : Nat                  -- memory key of its first byte
  data   : List (Nat × BitVec 8)
  poison : List Nat
  deriving DecidableEq, Repr

/-- A checkpoint epoch under way (R343, R344). -/
structure Epoch where
  num    : Nat
  cyc    : Nat
  blocks : List (Nat × Nat × Nat)   -- context, virtual address and memory key of each listed block still to be copied
  caught : List Block := []     -- blocks taken before a write of the device's own, and not yet written to the safe tier
  done   : List Block := []     -- blocks copied, in order
  pos    : Nat                  -- next byte of the region that is written
  log    : List LogEnt          -- the segment that closed with it, latest first
  saves  : List Saved           -- what the device keeps of the tasks it saved
  ctl    : Ctl                  -- the graph work of the covered contexts at step 1
  deriving DecidableEq, Repr

/-- Replay under way (R346): the choices still forced, oldest first, the cycle of the last one made, its index, and since when each
unit that waits for its candidate has waited, by type, unit and place. -/
structure Replay where
  log : List LogEnt
  at' : Nat
  idx : Nat := 0
  waits : List ((Nat × Nat × Nat) × Nat) := []
  deriving DecidableEq, Repr

/-- A completed epoch (R344), with what the device kept of the tasks it saved. -/
structure Ckpt where
  num    : Nat
  cyc    : Nat
  blocks : List Block
  log    : List LogEnt
  saves  : List Saved
  ctl    : Ctl
  deriving DecidableEq, Repr

/-- A PCIe function, keyed by its owner code 0 to 4 (R317, R319, R342, R356, R357, R362). -/
structure Func where
  fqbase  : BitVec 64 := 0
  fqctl   : BitVec 64 := 0
  fqhead  : BitVec 16 := 0
  fqtail  : BitVec 16 := 0
  fqcmd   : BitVec 64 := 0
  fqpend  : List FqEnt := []
  cktgt   : BitVec 64 := 0
  cklog   : BitVec 64 := 0
  cklate  : BitVec 64 := 0
  bar     : Sparse (BitVec 64) := []       -- 0: BAR0 base; 1: BAR2 base; 2: BAR2 size
  msix    : Sparse (BitVec 128) := []      -- MSI-X table
  pba     : BitVec 64 := 0                 -- vectors raised
  tdisp   : Tdisp := .unlocked
  nonce   : BitVec 256 := 0                -- START_INTERFACE_NONCE of the lock
  ide     : Sparse (BitVec 256) := []      -- key sets 0 and 1
  ideGo   : Sparse Bool := []              -- active sets
  balIn   : Option (BitVec 256) := .none   -- Balua keys
  balOut  : Option (BitVec 256) := .none
  epoch   : Option Epoch := .none          -- the epoch being copied
  nextEp  : Nat := 0                       -- number of the next epoch
  lastEp  : Nat := 0                       -- cycle in which the last one began
  ckEnd   : Nat := 0                       -- where the image of the last epoch ends in the region of the safe tier
  ckpts   : List Ckpt := []                -- completed epochs, latest first
  olog    : List LogEnt := []              -- the open segment of the order log, latest first
  fullC   : Nat := 0                       -- cycle of its latest entry
  oseq    : Sparse Nat := []               -- choices logged, by 65536 * UNIT + WHERE
  replay  : Option Replay := .none
  deriving DecidableEq, Repr

/-- The security controller (R323, R324). -/
structure Sec where
  life   : Life := .deployed    -- lifecycle state
  fuse   : Life := .deployed    -- lifecycle state in the fuses
  devid  : BitVec 96 := 0       -- device identifier in the fuses
  nodbg  : Bool := false        -- permanent-disable fuse
  nonce  : Option (BitVec 256) := none   -- debug nonce, valid for one attempt
  salend : Nat := 0             -- level at which the Salend port is open, 0 closed
  m7     : BitVec 384 := 0      -- measurement index 7
  deriving DecidableEq, Repr

/-- The registers of physical function 0, power, temperature and bring-up (R313, R336, R350, R357,
R367, R373, R375, R377). -/
structure Pf0 where
  partmap : BitVec 32 := 0x7777 -- owner fields; SCRUB and PMERR stand below
  scrub  : BitVec 4 := 0        -- PARTMAP.SCRUB
  pmerr  : Bool := false        -- PARTMAP.PMERR
  qmap   : BitVec 64 := 0x7777777777777777
  mcring : BitVec 64 := 0
  mctail : Nat := 0             -- machine-check entries written to the ring
  mcs    : List Mc := []        -- every machine-check entry, latest first
  tsctl  : BitVec 64 := 0
  tsbuf  : BitVec 64 := 0
  tick   : Nat := 0             -- ticks taken
  tspos  : Nat := 0             -- next byte of the time-series ring
  tsbusy : Nat := 0             -- cycle until which the last record is being written
  pwrctl : BitVec 64 := 0
  newPP  : Option (BitVec 3) := none     -- performance point being changed to
  ppAt   : Nat := 0             -- the cycle in which the change began
  d3hot  : Bool := false
  jmax   : BitVec 16 := 0       -- TEMP.JMAX
  smax   : BitVec 16 := 0       -- TEMP.SMAX
  jtrip  : BitVec 16 := 0x0690  -- TEMP.TRIP
  trip   : Bool := false        -- the junction trip has stopped the clocks
  domain : BitVec 64 := 0
  ready  : Bool := false        -- FUNC.READY
  failed : Bool := false        -- FUNC.FAILED
  boot   : Bool := false        -- bring-up is in progress
  deriving DecidableEq, Repr

/-- The device around the cores. -/
structure Dev where
  stks : Sparse Stack := []   -- 0 to 7
  ctxs   : Sparse Ctx := []     -- 0 to 63
  funs   : Sparse Func := []    -- owner codes 0 to 4
  sqs    : Sparse Sq := []      -- 0 to 63
  ports  : Sparse Port := []    -- 0 to 17
  txids  : List (Nat × Nat) := []        -- source device and TXID of the last requests received
  rrPort : Nat := 0             -- port that the round-robin of R366 tries next
  hbm    : List (Nat × Nat × Nat) := []  -- accesses to device memory since the stacks' counters were brought up to date (R350):
                                -- memory key, bytes, and 0 read, 1 write, 2 read by attention
  pf0    : Pf0 := {}
  sec    : Sec := {}
  deriving DecidableEq, Repr

/-- The whole machine. -/
structure State where
  now    : Nat := 0             -- cycles since reset; CYC is its low 64 bits (R98)
  strm   : Sparse Stream := []  -- by 8 * core + n
  task   : Sparse Task := []    -- by 4 * core + slot
  obj    : Objs := {}
  ops    : List Op := []        -- issue order
  core   : Sparse Core := []    -- by device-wide core
  clus   : Sparse (List Tlb) := []       -- translation cache of cluster core / 8
  mem    : List Host.Cell := [] -- by memory key; unlisted 0
  dirty  : List Nat := []       -- 64 KiB blocks of device memory marked dirty (R343), by memory key / 65536
  mpois  : List Nat := []       -- poisoned 32-byte sectors, by memory key / 32
  ctl    : Ctl := {}
  dev    : Dev := {}
  resp   : Resp := .none        -- the device's last answer to the host
  fresh  : Nat := 1             -- next unique number (operations, tokens, launches)
  free   : Nat := 0             -- counter for free values
  sched  : List Act := []       -- who moves next; empty: the earliest due
  stall  : List Nat := []       -- streams found stalled since the last change
  cur    : Nat := 0             -- the stream whose instruction runs, 8 * core + n
  deriving DecidableEq, Repr

/-- The machine right after reset: cycle 0, nothing placed, storage zero, and every register at the
value beside its field: the spec's where it gives one, otherwise DESIGN CHOICE, assumption 2. -/
def State.reset : State := {}

end Sys2Proof.Machine
end

