-- ==== Sys2Proof/Machine/Maps.lean ====
section
/-!
DEFINITION. Association lists with a default (`mget`, `mput`), bytes of memory in canonical form, and
the bit-field, sign and byte-order helpers that the meanings share.
-/
namespace Sys2Proof.Machine

/-! ### Maps -/

/-- The entry of a key, or the default. -/
def mget (d : α) : Sparse α → Nat → α
  | [], _ => d
  | (a, x) :: r, k => if a = k then x else mget d r k

/-- Remove a key. -/
def mdel (m : Sparse α) (k : Nat) : Sparse α := m.filter fun e => e.1 != k

/-- Put an entry at its place in the order, replacing the one of its key. -/
def mset : Sparse α → Nat → α → Sparse α
  | [], k, v => [(k, v)]
  | (a, x) :: r, k, v =>
    if a < k then (a, x) :: mset r k v else if a = k then (k, v) :: r else (k, v) :: (a, x) :: r

/-- Write an entry; the default is not listed. -/
def mput [DecidableEq α] (d : α) (m : Sparse α) (k : Nat) (v : α) : Sparse α :=
  if v = d then mdel m k else mset m k v

/-- Remove every key that satisfies a test. -/
def mdrop (m : Sparse α) (p : Nat → Bool) : Sparse α := m.filter fun e => !p e.1

/-! ### Memory -/

/-- The key of a location: its home's space of 2^64 addresses. -/
def memKey (l : Loc) : Nat :=
  (match l.home with
    | .dev o => o % 8
    | .host => 8
    | .peer d => 16 + d) * 2^64 + l.addr % 2^64

/-- One byte of memory; an unlisted one reads 0 (DESIGN CHOICE, assumption 3). -/
def readB (m : List Host.Cell) (k : Nat) : Byte := mget 0 m k
/-- Write one byte, keeping the canonical form. -/
def writeB (m : List Host.Cell) (k : Nat) (b : Byte) : List Host.Cell := mput 0 m k b

/-- `n` bytes from key `k` as a number, little-endian (R5). -/
def readN (m : List Host.Cell) (k : Nat) : Nat → Nat
  | 0 => 0
  | n + 1 => (readB m k).toNat + 2^8 * readN m (k + 1) n

/-- Write the low `n` bytes of `v` from key `k`, little-endian. -/
def writeN (m : List Host.Cell) (k : Nat) : Nat → Nat → List Host.Cell
  | 0, _ => m
  | n + 1, v => writeN (writeB m k (BitVec.ofNat 8 v)) (k + 1) n (v / 2^8)

/-- The canonical form of memory: addresses strictly rising, and no entry that an unlisted address would
read as. -/
abbrev memWf (m : List Host.Cell) : Prop :=
  (m.map (·.1)).Pairwise (· < ·) ∧ ∀ e ∈ m, e.2 ≠ 0

/-! ### Fields, signs and bytes -/

/-- `n` bits of `v` from bit `lo`. -/
def bits (v lo n : Nat) : Nat := v / 2^lo % 2^n

/-- Bit `i` of `v`. -/
def bitN (v i : Nat) : Bool := v / 2^i % 2 == 1

/-- `v` with its `n` bits from bit `lo` replaced by those of `x`. -/
def setBits (v lo n x : Nat) : Nat :=
  v % 2^lo + 2^lo * (x % 2^n) + v / 2^(lo + n) * 2^(lo + n)

/-- The low `n` bits of `v` as a signed number. -/
def sgn (v n : Nat) : Int := if v % 2^n < 2^(n - 1) then (v % 2^n : Nat) else (v % 2^n : Nat) - (2^n : Nat)

/-- An integer modulo 2^n. -/
def uns (x : Int) (n : Nat) : Nat := (x % (2^n : Nat)).toNat

/-- SExt of R88. -/
def sExt (v n : Nat) : Word := BitVec.ofInt 64 (sgn v n)

/-- The signed 16-bit difference of counts (R26). -/
def diff16 (a b : BitVec 16) : Int := (a - b).toInt

/-- Byte `off` onwards of a store's image, `n` bytes. -/
def bytesAt {w : Nat} (x : BitVec w) (off n : Nat) : Nat := bits x.toNat (8 * off) (8 * n)

/-- A store's image with `n` bytes from byte `off` replaced. -/
def putBytes {w : Nat} (x : BitVec w) (off n v : Nat) : BitVec w :=
  BitVec.ofNat w (setBits x.toNat (8 * off) (8 * n) v)

/-- Element `i` of `w` bits of a packed number. -/
def lane (v w i : Nat) : Nat := bits v (w * i) w

/-- Pack elements of `w` bits, element 0 lowest. -/
def pack (w : Nat) : List Nat → Nat
  | [] => 0
  | x :: xs => x % 2^w + 2^w * pack w xs

/-- The elements of `w` bits of a packed number, `n` of them. -/
def unpack (w : Nat) : Nat → Nat → List Nat
  | 0, _ => []
  | n + 1, v => v % 2^w :: unpack w n (v / 2^w)

/-- Replace the element at an index of a list. -/
def lset (l : List α) (i : Nat) (x : α) : List α := l.set i x

/-- The least `c` with `n ≤ c * d`. -/
def ceilDiv (n d : Nat) : Nat := (n + d - 1) / d

/-- Insert by a strict order, after the elements not above it. -/
def insertBy (lt : α → α → Bool) (x : α) : List α → List α
  | [] => [x]
  | y :: ys => if lt x y then x :: y :: ys else y :: insertBy lt x ys

/-- Sort, keeping the order of equal elements. -/
def sortBy (lt : α → α → Bool) (l : List α) : List α := l.foldl (fun acc x => insertBy lt x acc) []

/-- The first element least by an order. -/
def leastBy (lt : α → α → Bool) : List α → Option α
  | [] => none
  | x :: xs => match leastBy lt xs with
    | none => some x
    | some y => if lt y x then some y else some x

end Sys2Proof.Machine
end

