-- ==== Sys2Proof/Machine/Float.lean ====
section
/-!
DEFINITION. Arithmetic results (R234 to R249): formats, rounding, the f32 operations and their flags,
EXP2A, grouped sums, and the statistics and attention steps. A real number is a sign, a mantissa and a
power of two; a number that is not dyadic also carries a sticky bit, set when its magnitude lies strictly
above `m * 2^e` and below `(m + 1) * 2^e`.
-/
namespace Sys2Proof.Machine

/-- Bits of a lane as it lies in a register. -/
def Ty.w (t : Ty) : Nat :=
  match t with
  | .f32 | .s32 | .n32 => 32
  | .bf16 | .f16 | .s16 | .n16 => 16
  | .e2m1 | .s4 => 4
  | .s64 => 64
  | _ => 8

/-! ### Flags (R94) -/

/-- The FLG bits as numbers. -/
abbrev fINV : Nat := 1
abbrev fDZ : Nat := 2
abbrev fOVF : Nat := 4
abbrev fUNF : Nat := 8
abbrev fINX : Nat := 16
abbrev fSAT : Nat := 32
abbrev fEMP : Nat := 64
abbrev fINC : Nat := 128

/-- A flag if a condition holds. -/
def flagIf (c : Bool) (f : Nat) : Nat := if c then f else 0

/-! ### Formats (R235, R236) -/

/-- A floating-point format: total width, fraction bits, bias, the magnitude encoding of the largest
finite value, and the magnitude encodings of infinity and of the canonical NaN where it has them. -/
structure Fmt where
  w    : Nat
  mb   : Nat
  bias : Nat
  maxM : Nat
  inf  : Option Nat
  nan  : Option Nat
  deriving DecidableEq, Repr

/-- The format of a floating-point type; f32 for a type that is none. -/
def fmtOf : Ty → Fmt
  | .bf16 => ⟨16, 7, 127, 0x7F7F, some 0x7F80, some 0x7FC0⟩
  | .f16 => ⟨16, 10, 15, 0x7BFF, some 0x7C00, some 0x7E00⟩
  | .e4m3 => ⟨8, 3, 7, 0x7E, none, some 0x7F⟩
  | .e5m2 => ⟨8, 2, 15, 0x7B, some 0x7C, some 0x7E⟩
  | .e3m2 => ⟨6, 2, 3, 0x1F, none, none⟩
  | .e2m3 => ⟨6, 3, 1, 0x1F, none, none⟩
  | .e2m1 => ⟨4, 1, 1, 0x7, none, none⟩
  | _ => ⟨32, 23, 127, 0x7F7FFFFF, some 0x7F800000, some 0x7FC00000⟩

/-- The f32 format. -/
abbrev f32F : Fmt := fmtOf .f32
/-- The canonical f32 NaN. -/
abbrev qNaN : Nat := 0x7FC00000

/-- The exponent of the smallest normal value. -/
def Fmt.emin (f : Fmt) : Int := 1 - (f.bias : Int)

/-- A decoded operand. -/
inductive FV where
  | nan (sig : Bool)
  | inf (neg : Bool)
  | num (neg : Bool) (m : Nat) (e : Int)
  deriving DecidableEq, Repr

/-- Decode an encoding (R236), with subnormals read as zero under DAZ (R242). -/
def fdec (f : Fmt) (daz : Bool) (x : Nat) : FV :=
  let neg := bitN x (f.w - 1)
  let mag := x % 2^(f.w - 1)
  if f.nan.isSome && mag > f.inf.getD f.maxM then .nan (f.inf.isSome && !bitN mag (f.mb - 1))
  else if f.inf = some mag then .inf neg
  else
    let ef := mag / 2^f.mb
    let fr := mag % 2^f.mb
    if ef = 0 then .num neg (if daz then 0 else fr) (f.emin - f.mb)
    else .num neg (2^f.mb + fr) ((ef : Int) - f.bias - f.mb)

/-- Whether a decoded operand is a NaN. -/
def FV.isNaN : FV → Bool
  | .nan _ => true
  | _ => false

/-- Whether a decoded operand is a signalling NaN. -/
def FV.isSig : FV → Bool
  | .nan s => s
  | _ => false

/-- The sign of a decoded operand. -/
def FV.neg : FV → Bool
  | .nan _ => false
  | .inf n => n
  | .num n _ _ => n

/-- An encoding from sign and magnitude. -/
def Fmt.enc (f : Fmt) (neg : Bool) (mag : Nat) : Nat := (if neg then 2^(f.w - 1) else 0) + mag

/-- The canonical NaN, or zero where the format has none. -/
def Fmt.qnan (f : Fmt) : Nat := f.nan.getD 0

/-! ### Rounding (R240, R242, R243) -/

/-- A rounding mode; stochastic carries its 16-bit draw r. -/
inductive RM where
  | rne | rz | ru | rd | sr (r : Nat)
  deriving DecidableEq, Repr

/-- Whether a magnitude of `k` quanta plus `rem / 2^sh` quanta (and more, if `st`) rounds up. -/
def roundsUp (rm : RM) (neg : Bool) (k rem sh : Nat) (st : Bool) : Bool :=
  let inx := rem != 0 || st
  match rm with
  | .rne => 2^sh < 2 * rem || (2^sh == 2 * rem && (st || k % 2 == 1))
  | .rz => false
  | .ru => inx && !neg
  | .rd => inx && neg
  | .sr r => inx && 65536 ≤ rem * 65536 / 2^sh + r

/-- The whole and left-over quanta of `m * 2^e` at quantum `2^q`: quanta, remainder, remainder's width. -/
def quanta (m : Nat) (e q : Int) : Nat × Nat × Nat :=
  if q ≤ e then (m * 2^(e - q).toNat, 0, 0)
  else let sh := (q - e).toNat; (m / 2^sh, m % 2^sh, sh)

/-- Round a non-zero magnitude: the magnitude encoding with an unbounded exponent field, whether it is
inexact, and whether it is tiny (R242). -/
def roundMag (f : Fmt) (rm : RM) (neg : Bool) (m : Nat) (e : Int) (st : Bool) : Nat × Bool × Bool :=
  if m = 0 then (0, false, false)
  else
    let p := (Nat.log2 m : Int) + e
    let pe := if p < f.emin then f.emin else p
    let (k, rem, sh) := quanta m e (pe - f.mb)
    let up := roundsUp rm neg k rem sh st
    let tiny := p < f.emin &&
      (let (k', rem', sh') := quanta m e (p - f.mb)
       k' + (roundsUp rm neg k' rem' sh' st).toNat < 2^(f.mb + 1) || p + 1 < f.emin)
    ((pe - f.emin).toNat * 2^f.mb + k + up.toNat, rem != 0 || st, tiny)

/-- The magnitude that an overflow of lane arithmetic gives, as IEEE 754 gives it. -/
def ovfMag (f : Fmt) (rm : RM) (neg : Bool) : Nat :=
  let i := f.inf.getD f.maxM
  match rm with
  | .rne => i
  | .sr _ => i
  | .rz => f.maxM
  | .ru => if neg then f.maxM else i
  | .rd => if neg then i else f.maxM

/-- How an operation rounds: mode and FZ. -/
structure REnv where
  rm : RM := .rne
  fz : Bool := false
  deriving DecidableEq, Repr

/-- A rounded result and its flags (R145, R242). -/
def ffin (f : Fmt) (c : REnv) (neg : Bool) (m : Nat) (e : Int) (st : Bool) : Nat × Nat :=
  let (mag, inx, tiny) := roundMag f c.rm neg m e st
  if f.maxM < mag then (f.enc neg (ovfMag f c.rm neg), fOVF ||| fINX)
  else if c.fz && tiny then (f.enc neg 0, fUNF ||| fINX)
  else (f.enc neg mag, flagIf inx fINX ||| flagIf (tiny && inx) fUNF)

/-- A NaN result. -/
def fnan (f : Fmt) (inv : Bool) : Nat × Nat := (f.qnan, flagIf inv fINV)

/-- The exact value as a signed mantissa at a given exponent no larger than its own. -/
def sgnAt (neg : Bool) (m : Nat) (e q : Int) : Int :=
  let v : Int := (m * 2^(e - q).toNat : Nat)
  if neg then -v else v

/-- Round an exact signed dyadic sum; `z` is the sign of an exact zero. -/
def fsum (f : Fmt) (c : REnv) (v : Int) (e : Int) (z : Bool) : Nat × Nat :=
  if v = 0 then (f.enc z 0, 0) else ffin f c (v < 0) v.natAbs e false

/-- The sign of a zero sum of two zeros or of exact cancellation (R240). -/
def zsign (c : REnv) (na nb : Bool) : Bool := if na = nb then na else c.rm == .rd

/-- Addition. -/
def fadd (f : Fmt) (c : REnv) (a b : FV) : Nat × Nat :=
  match a, b with
  | .nan s, y => fnan f (s || y.isSig)
  | _, .nan s => fnan f s
  | .inf na, .inf nb => if na = nb then (f.enc na (f.inf.getD f.maxM), 0) else fnan f true
  | .inf na, _ => (f.enc na (f.inf.getD f.maxM), 0)
  | _, .inf nb => (f.enc nb (f.inf.getD f.maxM), 0)
  | .num na ma ea, .num nb mb eb =>
    let q := if ea < eb then ea else eb
    fsum f c (sgnAt na ma ea q + sgnAt nb mb eb q) q (zsign c na nb)

/-- The negation of an operand that is no NaN. -/
def FV.negate : FV → FV
  | .nan s => .nan s
  | .inf n => .inf (!n)
  | .num n m e => .num (!n) m e

/-- Subtraction. -/
def fsub (f : Fmt) (c : REnv) (a b : FV) : Nat × Nat := fadd f c a b.negate

/-- Whether a decoded operand is a zero. -/
def FV.isZero : FV → Bool
  | .num _ 0 _ => true
  | _ => false

/-- Multiplication. -/
def fmul (f : Fmt) (c : REnv) (a b : FV) : Nat × Nat :=
  match a, b with
  | .nan s, y => fnan f (s || y.isSig)
  | _, .nan s => fnan f s
  | .inf na, y => if y.isZero then fnan f true else (f.enc (na != y.neg) (f.inf.getD f.maxM), 0)
  | x, .inf nb => if x.isZero then fnan f true else (f.enc (x.neg != nb) (f.inf.getD f.maxM), 0)
  | .num na ma ea, .num nb mb eb =>
    if ma * mb = 0 then (f.enc (na != nb) 0, 0) else ffin f c (na != nb) (ma * mb) (ea + eb) false

/-- Fused multiply-add (R149). -/
def ffma (f : Fmt) (c : REnv) (a b d : FV) : Nat × Nat :=
  let inv0 := (match a, b with
    | .inf _, y => y.isZero
    | x, .inf _ => x.isZero
    | _, _ => false) && !(a.isNaN || b.isNaN)
  if a.isNaN || b.isNaN || d.isNaN || inv0 then fnan f (inv0 || a.isSig || b.isSig || d.isSig)
  else match a, b with
    | .num na ma ea, .num nb mb eb =>
      (match d with
        | .num nd md ed =>
          let q := if ea + eb < ed then ea + eb else ed
          fsum f c (sgnAt (na != nb) (ma * mb) (ea + eb) q + sgnAt nd md ed q) q
            (zsign c (na != nb) nd)
        | _ => (f.enc d.neg (f.inf.getD f.maxM), 0))
    | _, _ => fadd f c (.inf (a.neg != b.neg)) d

/-- Division: correctly rounded (R157, R168). -/
def fdiv (f : Fmt) (c : REnv) (a b : FV) : Nat × Nat :=
  let neg := a.neg != b.neg
  match a, b with
  | .nan s, y => fnan f (s || y.isSig)
  | _, .nan s => fnan f s
  | .inf _, .inf _ => fnan f true
  | .inf _, _ => (f.enc neg (f.inf.getD f.maxM), 0)
  | _, .inf _ => (f.enc neg 0, 0)
  | .num _ ma ea, .num _ mb eb =>
    if mb = 0 then (if ma = 0 then fnan f true else (f.enc neg (f.inf.getD f.maxM), fDZ))
    else if ma = 0 then (f.enc neg 0, 0)
    else
      let k := 64 + Nat.log2 mb
      let n := ma * 2^k
      ffin f c neg (n / mb) (ea - eb - k) (n % mb != 0)

/-- The integer square root, by deciding bits `b - 1` down to 0. -/
def isqrtGo : Nat → Nat → Nat → Nat
  | 0, _, r => r
  | b + 1, n, r => isqrtGo b n (if (r + 2^b) * (r + 2^b) ≤ n then r + 2^b else r)
/-- The integer square root. -/
def isqrt (n : Nat) : Nat := isqrtGo (Nat.log2 n / 2 + 1) n 0

/-- A positive dyadic with an even exponent. -/
def evenExp (m : Nat) (e : Int) : Nat × Int := if e % 2 = 0 then (m, e) else (2 * m, e - 1)

/-- Square root (R157, R158). -/
def fsqrt (f : Fmt) (c : REnv) (a : FV) : Nat × Nat :=
  match a with
  | .nan s => fnan f s
  | .inf neg => if neg then fnan f true else (f.enc false (f.inf.getD f.maxM), 0)
  | .num neg m e =>
    if m = 0 then (f.enc neg 0, 0)
    else if neg then fnan f true
    else
      let (m1, e1) := evenExp m e
      let n := m1 * 2^64
      let r := isqrt n
      ffin f c false r (e1 / 2 - 32) (r * r != n)

/-- Reciprocal square root (R157, R158). -/
def frsq (f : Fmt) (c : REnv) (a : FV) : Nat × Nat :=
  match a with
  | .nan s => fnan f s
  | .inf neg => if neg then fnan f true else (f.enc false 0, 0)
  | .num neg m e =>
    if m = 0 then (f.enc neg (f.inf.getD f.maxM), fDZ)
    else if neg then fnan f true
    else
      let (m1, e1) := evenExp m e
      let k := 40 + Nat.log2 m1
      let r := isqrt (2^(2 * k) / m1)
      ffin f c false r (-(e1 / 2) - k) (r * r * m1 != 2^(2 * k))

/-- The order of two numbers that are no NaN, -0 below +0 (R148): whether `a < b`. -/
def FV.lt (a b : FV) : Bool :=
  match a, b with
  | .inf na, y => na && (match y with
      | .inf nb => !nb
      | _ => true)
  | _, .inf nb => !nb
  | .num na ma ea, .num nb mb eb =>
    let q := if ea < eb then ea else eb
    let x := sgnAt na ma ea q
    let y := sgnAt nb mb eb q
    x < y || (x = y && ma = 0 && na && !nb)
  | _, _ => false

/-- Equality of values, -0 equal to +0. -/
def FV.eqv (a b : FV) : Bool :=
  match a, b with
  | .inf na, .inf nb => na = nb
  | .num na ma ea, .num nb mb eb =>
    let q := if ea < eb then ea else eb
    sgnAt na ma ea q = sgnAt nb mb eb q
  | _, _ => false

/-- The encoding of an operand after DAZ. -/
def dazBits (f : Fmt) (daz : Bool) (x : Nat) : Nat :=
  if daz && x / 2^f.mb % 2^(f.w - 1 - f.mb) = 0 then x / 2^(f.w - 1) * 2^(f.w - 1) else x

/-- Minimum and maximum of class F (R148): the encodings are those of the operands after DAZ. -/
def fminmax (f : Fmt) (daz mx : Bool) (x y : Nat) : Nat × Nat :=
  let a := fdec f daz x
  let b := fdec f daz y
  let fl := flagIf (a.isSig || b.isSig) fINV
  let xb := dazBits f daz x
  let yb := dazBits f daz y
  if a.isNaN then (if b.isNaN then f.qnan else yb, fl)
  else if b.isNaN then (xb, fl)
  else if mx then (if a.lt b then yb else xb, fl)
  else (if b.lt a then yb else xb, fl)

/-! ### f32 steps with flags gathered (R146) -/

/-- A computation that gathers flags. -/
abbrev FM (α : Type) := Nat → α × Nat

/-- Do nothing. -/
def FM.ret (x : α) : FM α := fun fl => (x, fl)
/-- One after another. -/
def FM.andThen (m : FM α) (k : α → FM β) : FM β := fun fl => let r := m fl; k r.1 r.2
/-- Take a result with its flags. -/
def FM.of (r : α × Nat) : FM α := fun fl => (r.1, fl ||| r.2)

/-- RNE_f32 of a sum, difference, product and quotient of f32 bit patterns. -/
def rAdd (x y : Nat) : FM Nat := FM.of (fadd f32F {} (fdec f32F false x) (fdec f32F false y))
def rSub (x y : Nat) : FM Nat := FM.of (fsub f32F {} (fdec f32F false x) (fdec f32F false y))
def rMul (x y : Nat) : FM Nat := FM.of (fmul f32F {} (fdec f32F false x) (fdec f32F false y))
def rDiv (x y : Nat) : FM Nat := FM.of (fdiv f32F {} (fdec f32F false x) (fdec f32F false y))
def rRsq (x : Nat) : FM Nat := FM.of (frsq f32F {} (fdec f32F false x))
def rFma (x y z : Nat) : FM Nat :=
  FM.of (ffma f32F {} (fdec f32F false x) (fdec f32F false y) (fdec f32F false z))

/-- Whether an f32 bit pattern is +0 or -0. -/
def isZ32 (x : Nat) : Bool := x % 2^31 == 0

/-! ### EXP2A (R246) -/

/-- T[j] = RNE_f32(2^(j/64)). -/
def exp2T : List Nat :=
  [0x3F800000, 0x3F8164D2, 0x3F82CD87, 0x3F843A29, 0x3F85AAC3, 0x3F871F62, 0x3F88980F, 0x3F8A14D5]
  ++ [0x3F8B95C2, 0x3F8D1ADF, 0x3F8EA43A, 0x3F9031DC, 0x3F91C3D3, 0x3F935A2B, 0x3F94F4F0, 0x3F96942D]
  ++ [0x3F9837F0, 0x3F99E046, 0x3F9B8D3A, 0x3F9D3EDA, 0x3F9EF532, 0x3FA0B051, 0x3FA27043, 0x3FA43516]
  ++ [0x3FA5FED7, 0x3FA7CD94, 0x3FA9A15B, 0x3FAB7A3A, 0x3FAD583F, 0x3FAF3B79, 0x3FB123F6, 0x3FB311C4]
  ++ [0x3FB504F3, 0x3FB6FD92, 0x3FB8FBAF, 0x3FBAFF5B, 0x3FBD08A4, 0x3FBF179A, 0x3FC12C4D, 0x3FC346CD]
  ++ [0x3FC5672A, 0x3FC78D75, 0x3FC9B9BE, 0x3FCBEC15, 0x3FCE248C, 0x3FD06334, 0x3FD2A81E, 0x3FD4F35B]
  ++ [0x3FD744FD, 0x3FD99D16, 0x3FDBFBB8, 0x3FDE60F5, 0x3FE0CCDF, 0x3FE33F89, 0x3FE5B907, 0x3FE8396A]
  ++ [0x3FEAC0C7, 0x3FED4F30, 0x3FEFE4BA, 0x3FF28177, 0x3FF5257D, 0x3FF7D0DF, 0x3FFA83B3, 0x3FFD3E0C]

/-- RNE_f32 of an exact positive product of a dyadic and an f32 value. -/
def mulExact (m : Nat) (e : Int) (y : Nat) : Nat :=
  match fdec f32F false y with
  | .num _ my ey => if m * my = 0 then 0 else (ffin f32F {} false (m * my) (e + ey) false).1
  | _ => 0

/-- EXP2A of a decoded operand, with FZ on the result where it acts: the result and its flags. -/
def exp2a (fz : Bool) (x : FV) : Nat × Nat :=
  match x with
  | .nan s => fnan f32F s
  | .inf neg => if neg then (0, 0) else (0x7F800000, 0)
  | .num neg m e =>
    -- the exact value is v / 2^s
    let s := (-e).toNat
    let v := sgnAt neg (m * 2^e.toNat) 0 0
    let n : Int := v / (2^s : Nat)
    let fr := (v - n * (2^s : Nat)).toNat
    if 128 ≤ n then (0x7F800000, fOVF ||| fINX)
    else if n < -150 then (0, fUNF ||| fINX)
    else
      let j := 64 * fr / 2^s
      let rm := 64 * fr - j * 2^s                   -- r = rm / 2^(s + 6)
      let t1 := mulExact rm (-((s + 6 : Nat) : Int)) 0x3E75FDF0
      let t2 := (rAdd 0x3F317218 t1 0).1
      let t3 := mulExact rm (-((s + 6 : Nat) : Int)) t2
      let p := (rAdd 0x3F800000 t3 0).1
      let y := (rMul (exp2T.getD j 0) p 0).1
      let int := fr = 0 && -149 ≤ n && n ≤ 127
      match fdec f32F false y with
      | .num _ my ey =>
        let (res, fl) := ffin f32F ⟨.rne, fz⟩ false my (ey + n) false
        -- tiny: y * 2^n lies below 2^-126
        let tiny := ey + n + 126 < 0 && my < 2^(-(ey + n + 126)).toNat
        (res, if int then fl else fl ||| fINX ||| (if tiny then fUNF else 0))
      | _ => (0x7F800000, fOVF ||| fINX)

/-- EXP2A as written, on an f32 bit pattern. -/
def rExp2 (x : Nat) : FM Nat := FM.of (exp2a false (fdec f32F false x))

/-! ### Grouped sums (R244) -/

/-- A product of one group: NaN, an infinity, or an exact signed dyadic. -/
inductive Prod where
  | nan | inf (neg : Bool) | num (v : Int) (e : Int)
  deriving DecidableEq, Repr

/-- The exact product of two decoded elements, scaled by 2^k. -/
def prodOf (a b : FV) (k : Int) : Prod :=
  match a, b with
  | .nan _, _ => .nan
  | _, .nan _ => .nan
  | .inf na, y => if y.isZero then .nan else .inf (na != y.neg)
  | x, .inf nb => if x.isZero then .nan else .inf (x.neg != nb)
  | .num na ma ea, .num nb mb eb =>
    .num (if na != nb then -((ma * mb : Nat) : Int) else ((ma * mb : Nat) : Int)) (ea + eb + k)

/-- `GroupSum`: the products' exact sum after truncation to 48 bits below the largest. -/
def groupSum (ps : List Prod) : Prod :=
  let hasNan := ps.any fun p => p == .nan
  let pos := ps.any fun p => p == .inf false
  let neg := ps.any fun p => p == .inf true
  if hasNan || (pos && neg) then .nan
  else if pos then .inf false
  else if neg then .inf true
  else
    let tops := ps.filterMap fun p => match p with
      | .num v e => if v = 0 then none else some ((Nat.log2 v.natAbs : Int) + e)
      | _ => none
    match tops with
    | [] => .num 0 0
    | t :: ts =>
      let u := ts.foldl (fun a b => if a < b then b else a) t - 48
      let tot := ps.foldl (fun (acc : Int) p => match p with
        | .num v e =>
          let k : Int := (quanta v.natAbs e u).1
          if v < 0 then acc - k else acc + k
        | _ => acc) 0
      .num tot u

/-- `Accumulate`: C + G rounded once, FZ on C (R193, R194, R244). -/
def accumulate (fz : Bool) (c : Nat) (g : Prod) : Nat × Nat :=
  match g with
  | .nan => (qNaN, fINV)
  | .inf neg => fadd f32F ⟨.rne, fz⟩ (fdec f32F false c) (.inf neg)
  | .num v e => fadd f32F ⟨.rne, fz⟩ (fdec f32F false c) (.num (v < 0) v.natAbs e)

/-! ### Statistics (R167, R168) -/

/-- A triple (W, μ, M2) of f32 bit patterns. -/
structure Triple where
  w  : Nat := 0
  mu : Nat := 0
  m2 : Nat := 0
  deriving DecidableEq, Repr

/-- `StatUpdate`. -/
def statUpdate (t : Triple) (x w : Nat) : FM Triple :=
  if isZ32 w then FM.ret t
  else if (match fdec f32F false w with
    | .num false _ _ => false
    | _ => true) then FM.of (t, fINV)
  else
    FM.andThen (rAdd t.w w) fun w1 =>
    FM.andThen (rSub x t.mu) fun d =>
    FM.andThen (rDiv w w1) fun q =>
    FM.andThen (rMul q d) fun qd =>
    FM.andThen (rAdd t.mu qd) fun mu1 =>
    FM.andThen (rMul w d) fun wd =>
    FM.andThen (rSub x mu1) fun xm =>
    FM.andThen (rMul wd xm) fun pr =>
    FM.andThen (rAdd t.m2 pr) fun m21 =>
    FM.ret ⟨w1, mu1, m21⟩

/-- `StatMerge`. -/
def statMerge (a b : Triple) : FM Triple :=
  if isZ32 a.w then FM.ret b
  else if isZ32 b.w then FM.ret a
  else
    FM.andThen (rAdd a.w b.w) fun w =>
    FM.andThen (rSub b.mu a.mu) fun d =>
    FM.andThen (rDiv b.w w) fun bw =>
    FM.andThen (rMul d bw) fun dbw =>
    FM.andThen (rAdd a.mu dbw) fun mu =>
    FM.andThen (rAdd a.m2 b.m2) fun m =>
    FM.andThen (rMul d d) fun dd =>
    FM.andThen (rMul a.w b.w) fun ww =>
    FM.andThen (rDiv ww w) fun wr =>
    FM.andThen (rMul dd wr) fun pr =>
    FM.andThen (rAdd m pr) fun m2 =>
    FM.ret ⟨w, mu, m2⟩

/-! ### Attention partials (R177, R247) -/

/-- One query's partial: m, l and acc of f32 bit patterns. -/
structure Part where
  m   : Nat := 0xFF800000
  l   : Nat := 0
  acc : List Nat := []
  deriving DecidableEq, Repr

/-- The sum of two scaled values, each product and the sum rounded. -/
def mix (x fa y fb : Nat) : FM Nat :=
  FM.andThen (rMul x fa) fun p => FM.andThen (rMul y fb) fun q => rAdd p q

/-- The elements of two accumulators mixed in turn. -/
def mixAll (fa fb : Nat) : List Nat → List Nat → FM (List Nat)
  | x :: xs, y :: ys =>
    FM.andThen (mix x fa y fb) fun z => FM.andThen (mixAll fa fb xs ys) fun zs => FM.ret (z :: zs)
  | _, _ => FM.ret []

/-- `AttnMerge` of one query. -/
def attnMerge (a b : Part) : FM Part :=
  if a.m = 0xFF800000 then FM.ret b
  else if b.m = 0xFF800000 then FM.ret a
  else if (fdec f32F false a.m).isNaN || (fdec f32F false b.m).isNaN then
    FM.of (⟨qNaN, qNaN, a.acc.map fun _ => qNaN⟩, fINV)
  else
    let m := (fminmax f32F false true a.m b.m).1
    FM.andThen (rSub a.m m) fun da =>
    FM.andThen (rExp2 da) fun fa =>
    FM.andThen (rSub b.m m) fun db =>
    FM.andThen (rExp2 db) fun fb =>
    FM.andThen (mix a.l fa b.l fb) fun l =>
    FM.andThen (mixAll fa fb a.acc b.acc) fun acc =>
    FM.ret ⟨m, l, acc⟩

end Sys2Proof.Machine
end

