-- ==== Sys2Proof/Config.lean ====
section
/-!
DEFINITION. What the spec leaves to the implementation or to the outside: constants without a body, so
that nothing can be proved of their values. A free value that may differ each time it is taken is applied
to `State.free`, which the step that takes it advances. DESIGN CHOICE, assumption 5.
-/
namespace Sys2Proof.Config

/-- A nonce the security controller draws (R319, R323). -/
opaque nonce : Nat → BitVec 256
/-- Whether a token's signature verifies under the fused vendor key: the token's bytes (R324). -/
opaque sigOk : List Byte → Bool
/-- SHA-384 of a byte string (R324). -/
opaque sha384 : List Byte → BitVec 384
/-- Versions of the security-controller, control-complex and base-die firmware (R321). -/
opaque fwVersion : Nat → BitVec 64
/-- The measurement at an index other than 7 (R324, R377). -/
opaque measurement : Nat → BitVec 384
/-- A draw of a core's sampling generator (R349). -/
opaque sampleDraw : Nat → Nat
/-- Cycles from the request of an instruction's fetch to its being ready to issue (R349): by the free-value counter. -/
opaque fetchTime : Nat → Nat
/-- A byte of RECV that a collective brings from its peers where no step brings it (R371, R372). -/
opaque recvByte : Nat → Byte
/-- REROUTED and INCOMPLETE of the record of a collective that a member's absence has ended (R228, R371). -/
opaque timeoutFlags : Nat → BitVec 2
/-- BYTES of such a record (R228, R371). -/
opaque timeoutBytes : Nat → BitVec 64
/-- A byte of a partition's memory after its set of quarters has changed in a way that moves its bytes
between stacks (R313, R315). -/
opaque movedByte : Nat → Byte
/-- The place of an ordinary byte's stack among the partition's stacks, by its address (R315). -/
opaque stackOf : Nat → Nat
/-- Whether a `.now` drain reads an element as it stands when it has read its source, and not as it stood when it
started (R203): by the free-value counter and the element. -/
opaque drainPick : Nat → Nat → Bool
/-- Stack, die, bank and row of a byte of device memory, as a machine check gives them (R315, R336): by its
memory key. -/
opaque hbmLoc : Nat → BitVec 64

/-- Row activations that accesses take in a stack (R350), which depend on its row policy: accesses by memory key, bytes and kind, and
the stack. -/
opaque activations : List (Nat × Nat × Nat) → Nat → Nat

/-- Cycles that writing a time-series record takes (R350). -/
opaque tsTime : Nat → Nat

/-- The hash that ranks the ports for a source core, or 160 and a stack, a stream, and a destination device (R366). -/
opaque portHash : Nat → Nat → Nat → Nat → Nat

/-- Whether a peer accepts a request (R367): by its device number, the address there, and the cycle. -/
opaque peerAccepts : Nat → Nat → Nat → Bool

/-- AES-256-GCM ciphertext of a number of bytes under a key and a nonce: key, nonce, bytes, plaintext (R344). -/
opaque gcmSeal : BitVec 256 → Nat → Nat → Nat → Nat

/-- The AES-256-GCM tag that goes with it (R344). -/
opaque gcmTag : BitVec 256 → Nat → Nat → Nat → BitVec 128

/-- AES-256-GCM tag of a flit's fields and DATA under a Balua key (R363). -/
opaque flitTag : BitVec 256 → Nat → BitVec 128

/-- The algorithm that the device chooses for a collective with ALG = 0 (R248): by the free-value counter. -/
opaque collAlg : Nat → Nat

/-- Whether the partial received is operand A of a merge in the merge tree of a collective that was rerouted (R228, R248): by
the free-value counter. -/
opaque rerouteFirst : Nat → Bool
/-- Whether the loss of a port leaves a pair of a collective's members without a path, so that its merge tree is re-formed (R371): by
the free-value counter. -/
opaque pathLost : Nat → Bool
/-- The hottest stack's temperature in 1/16 °C when the junction's is reported (R375): by the free-value counter. -/
opaque stackTemp : Nat → BitVec 16
/-- A re-formed merge tree (R371), by the free-value counter at its forming and the element: the ranks whose partials this member
merges, whether the finished value comes in, and the ranks to which it passes its partial and the finished value. -/
opaque treeFrom : Nat → Nat → List Nat
opaque treeFin : Nat → Nat → Bool
opaque treeUps : Nat → Nat → List Nat
opaque treeDowns : Nat → Nat → List Nat

end Sys2Proof.Config
end

