-- ==== Sys2Proof/Machine/Base.lean ====
section
/-!
DEFINITION. The first operations over the state: reading and replacing its parts, names and windows (R15,
R96), the counting procedures (R25 to R32), address translation (R305 to R310), reading and writing the
registers of the issuing stream (R48, R87 to R90), and fault records (R99).
-/
namespace Sys2Proof.Machine

/-- The outcome of a step. -/
abbrev Out := Host.Outcome State Fault Refusal

/-! ### Parts of the state -/

def State.strmOf (s : State) (k : Nat) : Stream := mget {} s.strm k
def State.setStrm (s : State) (k : Nat) (x : Stream) : State := { s with strm := mput {} s.strm k x }
def State.taskOf (s : State) (k : Nat) : Task := mget {} s.task k
def State.setTask (s : State) (k : Nat) (x : Task) : State := { s with task := mput {} s.task k x }
def State.coreOf (s : State) (c : Nat) : Core := mget {} s.core c
def State.setCore (s : State) (c : Nat) (x : Core) : State := { s with core := mput {} s.core c x }
def State.cntOf (s : State) (k : Nat) : Cnt := mget {} s.obj.cnts k
def State.setCnt (s : State) (k : Nat) (x : Cnt) : State := { s with obj := { s.obj with cnts := mput {} s.obj.cnts k x } }
def State.fillOf (s : State) (k : Nat) : Fill := mget {} s.obj.fills k
def State.setFill (s : State) (k : Nat) (x : Fill) : State :=
  { s with obj := { s.obj with fills := mput {} s.obj.fills k x } }
def State.barOf (s : State) (k : Nat) : Bar := mget {} s.obj.bars k
def State.setBar (s : State) (k : Nat) (x : Bar) : State := { s with obj := { s.obj with bars := mput {} s.obj.bars k x } }
def State.ctxOf (s : State) (c : Nat) : Ctx := mget {} s.dev.ctxs c
def State.setCtx (s : State) (c : Nat) (x : Ctx) : State := { s with dev := { s.dev with ctxs := mput {} s.dev.ctxs c x } }
def State.funOf (s : State) (f : Nat) : Func := mget {} s.dev.funs f
def State.setFun (s : State) (f : Nat) (x : Func) : State := { s with dev := { s.dev with funs := mput {} s.dev.funs f x } }
def State.sqOf (s : State) (q : Nat) : Sq := mget {} s.dev.sqs q
def State.setSq (s : State) (q : Nat) (x : Sq) : State := { s with dev := { s.dev with sqs := mput {} s.dev.sqs q x } }
def State.stackOf (s : State) (k : Nat) : Stack := mget {} s.dev.stks k
def State.setStack (s : State) (k : Nat) (x : Stack) : State :=
  { s with dev := { s.dev with stks := mput {} s.dev.stks k x } }
def State.portOf (s : State) (k : Nat) : Port := mget {} s.dev.ports k
def State.setPort (s : State) (k : Nat) (x : Port) : State := { s with dev := { s.dev with ports := mput {} s.dev.ports k x } }
def State.setPf0 (s : State) (x : Pf0) : State := { s with dev := { s.dev with pf0 := x } }
def State.setSec (s : State) (x : Sec) : State := { s with dev := { s.dev with sec := x } }
def State.setCtl (s : State) (x : Ctl) : State := { s with ctl := x }
def State.setMem (s : State) (m : List Host.Cell) : State := { s with mem := m }
def State.setOps (s : State) (o : List Op) : State := { s with ops := o }
def State.setObj (s : State) (o : Objs) : State := { s with obj := o }
def State.answer (s : State) (r : Resp) : State := { s with resp := r }
/-- Time passes to a cycle at the earliest. -/
def State.upTo (s : State) (c : Nat) : State := { s with now := if s.now < c then c else s.now }
/-- Something has changed: stalled streams may try again. -/
def State.wake (s : State) : State := { s with stall := [] }

/-- The operation of a unique number. -/
def State.opOf (s : State) (u : Nat) : Option Op := s.ops.find? (·.uid == u)
/-- Replace an operation. -/
def State.setOp (s : State) (o : Op) : State := s.setOps (s.ops.map fun x => if x.uid = o.uid then o else x)
/-- Remove an operation. -/
def State.dropOp (s : State) (u : Nat) : State := s.setOps (s.ops.filter fun x => x.uid != u)

/-- The core of a stream key. -/
def coreOfK (k : Nat) : Nat := k / 8
/-- The task key of a stream. -/
def State.tkey (s : State) (k : Nat) : Nat := 4 * (k / 8) + (s.strmOf k).slot
/-- The task of a stream. -/
def State.taskAt (s : State) (k : Nat) : Task := s.taskOf (s.tkey k)

/-- The quarter of a device-wide core (R2). -/
def quarterOf (c : Nat) : Nat := c / 40
/-- The die of a device-wide core (R2). -/
def dieOf (c : Nat) : Nat := c / 80
/-- The owner code of a quarter (R313). -/
def State.ownerQ (s : State) (q : Nat) : Nat := bits s.dev.pf0.partmap.toNat (4 * q) 3
/-- The quarters of an owner, ascending. -/
def State.quarters (s : State) (o : Nat) : List Nat := (List.range 4).filter fun q => s.ownerQ q == o
/-- The stacks of an owner's partition, ascending (R2, R316). -/
def State.stacksOf (s : State) (o : Nat) : List Nat := (s.quarters o).flatMap fun q => [2 * q, 2 * q + 1]
/-- The owner code a context is bound to (R357). -/
def State.ownerC (s : State) (c : Nat) : Nat := (s.ctxOf c).bind.toNat % 8
/-- The contexts bound to an owner. -/
def State.ctxsOf (s : State) (o : Nat) : List Nat := (List.range 64).filter fun c => s.ownerC c == o
/-- The size of a partition's memory (R315). -/
def State.partSize (s : State) (o : Nat) : Nat := 48 * 2^30 * (s.stacksOf o).length

/-! ### WIN (R96) and names (R15) -/

/-- Base and size of a window, by space code, in objects. -/
def winOf (w : BitVec 64) : Spc → Nat × Nat
  | .t => (8 * bits w.toNat 0 5, 8 * (bits w.toNat 5 5 + 1))
  | .o => (bits w.toNat 10 8, bits w.toNat 18 8)
  | .a => (0, bits w.toNat 26 7)
  | .f => (bits w.toNat 33 8, bits w.toNat 41 9)
/-- Base and size of the barrier window. -/
def winBar (w : BitVec 64) : Nat × Nat := (bits w.toNat 50 6, bits w.toNat 56 7)
/-- WIN from its fields. -/
def mkWin (tb ts ob os aq fb fs bb bs : Nat) : BitVec 64 :=
  BitVec.ofNat 64 (tb / 8 + 2^5 * (ts / 8 - 1) + 2^10 * ob + 2^18 * os + 2^26 * aq + 2^33 * fb + 2^41 * fs + 2^50 * bb
    + 2^56 * bs)
/-- The objects of a space (R14). -/
def spaceSize : Spc → Nat
  | .t => 256
  | .o => 192
  | .a => 64
  | .f => 256

/-- The key of a physical object. -/
def okey (core : Nat) (spc : Spc) (i : Nat) : Nat := (core * 4 + spc.code.toNat) * 256 + i
/-- The key of a window-relative name of a task in a slot of a core. -/
def nameKey (t : Task) (core slot : Nat) (spc : Spc) (i : Nat) : Nat :=
  okey core spc (if spc = .a then 64 * slot + i else (winOf t.win spc).1 + i)

/-- The cause that a name takes (R15): 0x06, 0x04, or 0x07 for a bank. -/
def nameFault (t : Task) (spc : Spc) (i : Nat) : Option Nat :=
  if spaceSize spc ≤ i then some 0x06
  else if (winOf t.win spc).2 ≤ i then some 0x04
  else if spc = .a && !bitN t.amap.toNat i then some 0x07
  else none

/-- The first cause, in the order of R70, among names: 0x06, then 0x04, then 0x07; with the name. -/
def namesFault (t : Task) (l : List (Spc × Nat)) : Option (Nat × Spc × Nat) :=
  let pick (c : Nat) := (l.find? fun x => nameFault t x.1 x.2 == some c).map fun x => (c, x.1, x.2)
  ((pick 0x06).or (pick 0x04)).or (pick 0x07)

/-! ### Counting procedures (R26 to R32) -/

/-- V(s) of a task stream. -/
def Cnt.view (c : Cnt) (t : Nat) : BitVec 16 := BitVec.ofNat 16 (bits c.v.toNat (16 * t) 16)
def Cnt.setView (c : Cnt) (t : Nat) (x : BitVec 16) : Cnt :=
  { c with v := BitVec.ofNat 128 (setBits c.v.toNat (16 * t) 16 x.toNat) }

/-- The result of `CountedRead`. -/
inductive RdTest where
  | ready | wait | stale
  deriving DecidableEq, Repr

/-- The expected count E of a tag (R26). -/
def Cnt.expect (c : Cnt) (t : Nat) (tag : BitVec 6) : BitVec 16 := c.view t + tag.setWidth 16

/-- `CountedRead` (R26). A reader exactly 32,768 versions off is STALE by R26's pseudocode, though R33 says that it waits
(DESIGN CHOICE, assumption 52). -/
def countedRead (c : Cnt) (t : Nat) (tag : BitVec 6) : RdTest :=
  if tag = 63 then .ready
  else
    let d := diff16 (c.expect t tag) c.w
    if 0 < d then .wait else if d < 0 then .stale else .ready

/-- Whether a read that starts now consumes (R26). -/
def Cnt.consumes (c : Cnt) : Bool := !c.h && c.l != 0

/-- `ReadStart` with E (R26). -/
def readStart (c : Cnt) (t : Nat) (e : BitVec 16) : Cnt :=
  { c.setView t e with rif := c.rif + 1, l := if c.consumes then c.l - 1 else c.l }

/-- `ReadRetire` (R26), by a unit in a cycle. -/
def readRetire (c : Cnt) (now unit : Nat) : Cnt := { c with rif := c.rif - 1, lc := now, lu := unit }

/-- `WriteReady` (R28). -/
def writeReady (c : Cnt) : Bool := !c.h && c.l == 0 && c.rif == 0

/-- The effect of `CountedWrite` on the counts (R28), by a unit in a cycle; `n` = 15 is HELD. -/
def countedWrite (c : Cnt) (t : Nat) (n : BitVec 4) (now unit : Nat) : Cnt :=
  let c1 := { c with
    w := c.w + 1, h := n == 15, d := n, l := if n = 15 then 0 else n, wc := now, wu := unit
    lc := if n = 0 then now else c.lc, lu := if n = 0 then unit else c.lu }
  c1.setView t c1.w

/-- The units that change counts and wait for them (R42): the engines, and the pipeline of each stream. -/
def engUnit : Eng → Nat
  | .vec => 1
  | .mat => 2
  | .cpy => 3
  | .near => 4
def pipeUnit (k : Nat) : Nat := 16 + k

/-- The first cycle in which a unit sees a change that another made, or itself (R42, R268). -/
def seenAt (cyc maker reader : Nat) : Nat := if maker = 0 then 0 else cyc + (if maker = reader then 1 else 2)

/-! ### Translation (R305 to R310) -/

/-- What an access needs of a page. -/
inductive Need where
  | r | w | rw | x
  deriving DecidableEq, Repr

def Need.writes : Need → Bool
  | .w | .rw => true
  | _ => false

/-- Fields of a table entry (R307). -/
def pteV (e : Nat) : Bool := bitN e 0
def pteLeaf (e : Nat) : Bool := bitN e 1
def pteR (e : Nat) : Bool := bitN e 2
def pteW (e : Nat) : Bool := bitN e 3
def pteX (e : Nat) : Bool := bitN e 4
def pteAttn (e : Nat) : Bool := bitN e 5
def ptePin (e : Nat) : Bool := bitN e 6
def pteA (e : Nat) : Bool := bitN e 7
def pteD (e : Nat) : Bool := bitN e 8
def ptePA (e : Nat) : Nat := bits e 13 39 * 2^13
def pteTgt (e : Nat) : Nat := bits e 52 2
def ptePdev (e : Nat) : Nat := bits e 54 10

/-- The bits of the address that a leaf of a level maps. -/
def lvlBits (lvl : Nat) : Nat := 16 + 10 * lvl

/-- Whether an entry is malformed at its level (R307). -/
def pteBad (lvl e : Nat) : Bool :=
  bits e 9 4 != 0 ||
  (if pteLeaf e then
    lvl == 3 || ptePA e % 2^(lvlBits lvl) != 0 || pteTgt e == 3 || (ptePdev e != 0 && pteTgt e != 2)
      || (pteAttn e && (lvl != 0 || pteTgt e != 0)) || (ptePin e && pteTgt e != 0)
  else lvl == 0 || bits e 2 7 != 0 || pteTgt e != 0 || ptePdev e != 0)

/-- Whether a device number lies in the scale-up domain (R308, R367). -/
def State.inDomain (s : State) (d : Nat) : Bool :=
  bits s.dev.pf0.domain.toNat 16 10 ≤ d && d ≤ bits s.dev.pf0.domain.toNat 32 10

/-- A walk from a table (R307, R308): the leaf, its level and the key of the entry, or the walk code. -/
def walkGo (s : State) (o va : Nat) : Nat → Nat → Except Nat (Nat × Nat × Nat)
  | 0, _ => .error 2
  | lvl + 1, tbl =>
    if s.partSize o ≤ tbl then .error 3
    else
      let k := memKey ⟨.dev o, tbl + 8 * bits va (lvlBits lvl) 10⟩
      let e := readN s.mem k 8
      if !pteV e then .error 1
      else if pteBad lvl e then .error 2
      else if pteLeaf e then
        if pteTgt e = 0 && s.partSize o ≤ ptePA e then .error 3
        else if pteTgt e = 2 && !s.inDomain (ptePdev e) then .error 4
        else .ok (e, lvl, k)
      else walkGo s o va lvl (ptePA e)

/-- The walk of a context's address (R305, R308). -/
def walk (s : State) (ctx va : Nat) : Except Nat (Nat × Nat × Nat) :=
  let root := (s.ctxOf ctx).root.toNat
  if va / 2^56 != 0 then .error 5
  else if !bitN root 0 then .error 1
  else walkGo s (s.ownerC ctx) va 4 (bits root 13 39 * 2^13)

/-- Whether a cached entry serves an address of a context. -/
def Tlb.hits (e : Tlb) (ctx va : Nat) : Bool := e.ctx == ctx && e.page == va / 2^(lvlBits e.lvl) * 2^(lvlBits e.lvl)

/-- A translation's answer: the location with the leaf, a walk code, or a missing attribute. -/
inductive TRes where
  | ok (l : Loc) (pte : Nat) (s : State)
  | walkFault (code : Nat)
  | attr
  deriving DecidableEq, Repr

/-- Whether the leaf gives what the access needs (R307). -/
def needOk (n : Need) (e : Nat) : Bool :=
  match n with
  | .r => pteR e
  | .w => pteW e
  | .rw => pteR e && pteW e
  | .x => pteX e

/-- Whether a location of a partition lies in a stack in self-refresh (R374). The stack of an ordinary
byte is the implementation's (R315). -/
def State.asleep (s : State) (l : Loc) : Bool :=
  match l.home with
  | .dev o =>
    let st := s.stacksOf o
    st.any (fun k => (s.stackOf k).sref || (s.stackOf k).srefX) &&
      (let k := st.getD (Config.stackOf l.addr % st.length) 0
       (s.stackOf k).sref || (s.stackOf k).srefX)
  | _ => false

/-- Set A, and D for a write, in the entry and in the caches (R309). What a core's own cache gave (`own`) enters no other: its
cluster's may have dropped it (R106). -/
def touchPage (s : State) (core : Nat) (own : Bool) (e : Tlb) (wr : Bool) : Tlb × State :=
  let p := e.pte.toNat
  let p1 := if pteA p then p else p + 2^7
  let p2 := if wr && !pteD p1 then p1 + 2^8 else p1
  let e' := { e with pte := BitVec.ofNat 64 p2 }
  let m := if p2 = p then s.mem
    else writeN s.mem e.ploc 8 (readN s.mem e.ploc 8 ||| (if pteA p then 0 else 2^7) ||| (if wr then 2^8 else 0))
  let put (l : List Tlb) := e' :: l.filter fun x => !(x.ctx == e.ctx && x.page == e.page && x.lvl == e.lvl)
  let putC (l : List Tlb) := if own then l.map fun x => if x = e then e' else x else put l
  let c := s.coreOf core
  (e', { s.setCore core { c with tlb := put c.tlb } with
    mem := m, clus := mput [] s.clus (core / 8) (putC (mget [] s.clus (core / 8))) })

/-- Translate an address for an access by a core in a context (R305 to R310). An entry that is cached serves until it is
invalidated (DEDUCED, assumption 13). -/
def translate (s : State) (core ctx : Nat) (va : Nat) (n : Need) : TRes :=
  if va / 2^56 != 0 then .walkFault 5
  else
    let mine := (s.coreOf core).tlb.find? (·.hits ctx va)
    let hit := mine.or ((mget [] s.clus (core / 8)).find? (·.hits ctx va))
    let keep := hit.filter fun e => !(n.writes && pteW e.pte.toNat && !pteD e.pte.toNat)
    let got : Except Nat Tlb := match keep with
      | some e => .ok e
      | none => match walk s ctx va with
        | .error c => .error c
        | .ok (e, lvl, k) => .ok ⟨ctx, va / 2^(lvlBits lvl) * 2^(lvlBits lvl), lvl, BitVec.ofNat 64 e, k⟩
    match got with
    | .error c => .walkFault c
    | .ok e =>
      let p := e.pte.toNat
      let a := ptePA p + va % 2^(lvlBits e.lvl)
      let l : Loc := ⟨match pteTgt p with
        | 0 => .dev (s.ownerC ctx)
        | 1 => .host
        | _ => .peer (ptePdev p), a⟩
      if !needOk n p || s.asleep l then .attr
      else
        let (e', s') := touchPage s core (keep.isSome && mine.isSome) e n.writes
        .ok l e'.pte.toNat s'

/-- Translate without an effect on the caches, for the control complex (R283, R337): location and leaf. -/
def peek (s : State) (ctx va : Nat) : Except Nat (Loc × Nat) :=
  match walk s ctx va with
  | .error c => .error c
  | .ok (e, lvl, _) =>
    .ok (⟨match pteTgt e with
      | 0 => .dev (s.ownerC ctx)
      | 1 => .host
      | _ => .peer (ptePdev e), ptePA e + va % 2^(lvlBits lvl)⟩, e)

/-- Whether any byte of a range of memory keys lies in a poisoned sector (R335). -/
def State.poisoned (s : State) (k n : Nat) : Bool := s.mpois.any fun p => k / 32 ≤ p && p ≤ (k + n - 1) / 32

/-! ### Memory in a context's address space -/

/-- Whether a location can be reached: a peer's needs the tenant's key (R318), and the peer's consent (R367). -/
def reachable (s : State) (ctx : Nat) (l : Loc) : Bool :=
  match l.home with
  | .peer d => (s.funOf (s.ownerC ctx)).balOut.isSome && Config.peerAccepts d l.addr s.now
  | _ => true

/-- Set A, and D for a write, in the entry of the leaf that maps an address (R309), for the device itself. -/
def State.touch (s : State) (ctx va : Nat) (wr : Bool) : State :=
  match walk s ctx va with
  | .ok (_, _, k) => s.setMem (writeN s.mem k 8 (readN s.mem k 8 ||| (if wr then 2^7 + 2^8 else 2^7)))
  | .error _ => s

/-- The longest run from an address that stays inside one 64 KiB leaf. -/
def runLen (va n : Nat) : Nat := let r := 65536 - va % 65536; if n < r then n else r

/-- An access of the device's own agents to bytes by memory key, of kind 0 read, 1 write or 2 read by attention: it counts in its
stacks (R350), and a hot word that it touches is its port's most recent (R368). -/
def State.forward (s : State) (k n kind : Nat) : State :=
  let hit (w : Nat) : Bool := w < k + n && k < w + 8
  { s with dev := { s.dev with
      hbm := if k < 2^67 then (k, n, kind) :: s.dev.hbm else s.dev.hbm
      ports := s.dev.ports.map fun e => (e.1, { e.2 with hot := e.2.hot.filter hit ++ e.2.hot.filter fun w => !hit w }) } }

/-- Read `n` bytes of a context for the device itself, in at most `fuel` leaves (64 KiB runs): the bytes, or a walk code;
0 of a page without R, a peer without a key, or, unless `pois`, a poisoned sector (R307, R318, R335). What the accesses
do to the leaves is `State.see`. -/
def vread (s : State) (ctx : Nat) (pois : Bool) : Nat → Nat → Nat → Except Nat Nat
  | 0, _, _ => .ok 0
  | fuel + 1, va, n =>
    if n = 0 then .ok 0
    else match peek s ctx va with
      | .error c => .error c
      | .ok (l, e) =>
        let r := runLen va n
        if !pteR e || !reachable s ctx l || (!pois && s.poisoned (memKey l) r) then .error 0
        else match vread s ctx pois fuel (va + r) (n - r) with
          | .error c => .error c
          | .ok v => .ok (readN s.mem (memKey l) r + 2^(8 * r) * v)

/-- Read `n` bytes of a context in two leaves at most. -/
def vread2 (s : State) (ctx va n : Nat) : Except Nat Nat := vread s ctx false 3 va n

/-- What a read of `n` bytes by the device itself leaves: A set in the leaves read through (R309). -/
def State.see (s : State) (ctx : Nat) : Nat → Nat → Nat → State
  | 0, _, _ => s
  | fuel + 1, va, n => if n = 0 then s
    else match peek s ctx va with
      | .ok (l, _) => ((s.touch ctx va false).forward (memKey l) (runLen va n) 0).see ctx fuel (va + runLen va n) (n - runLen va n)
      | .error _ => s

/-- The same of a read in two leaves at most. -/
def State.see2 (s : State) (ctx va n : Nat) : State := s.see ctx 3 va n

/-- Write bytes of memory by key; a block of device memory becomes dirty (R343), and a sector that is written whole loses
its poison (R335). -/
def State.store (s : State) (k n v : Nat) : State :=
  let b := [k / 65536, (k + n - 1) / 65536].filter fun x => x < 2^51 && !s.dirty.contains x
  { s with mem := writeN s.mem k n v, dirty := s.dirty ++ b.eraseDups
           mpois := if n < 32 then s.mpois else s.mpois.filter fun p => !(k ≤ 32 * p && 32 * p + 32 ≤ k + n) }

/-- Whether a write to a range of memory keys leaves part of a poisoned sector as it was (R335). -/
def State.partPoison (s : State) (k n : Nat) : Bool :=
  s.mpois.any fun p => k / 32 ≤ p && p ≤ (k + n - 1) / 32 && !(k ≤ 32 * p && 32 * p + 32 ≤ k + n)

/-! ### The copying of an epoch (R343, R344) -/

/-- Whether a write to a memory key waits for the copying of its block in an epoch (R343). -/
def State.ckHold (s : State) (k : Nat) : Bool :=
  match (s.funOf (k / 2^64)).epoch with
  | some e => e.blocks.any fun b => b.2.2 == k / 65536 * 65536
  | none => false

/-- A block as it stands in memory: its context, address and memory key are given. -/
def ckBlock (s : State) (b : Nat × Nat × Nat) : Block :=
  let k := b.2.2
  { ctx := b.1, va := b.2.1, key := k
    data := (s.mem.filter fun e => k ≤ e.1 && e.1 < k + 65536).map fun e => (e.1 - k, e.2)
    poison := (s.mpois.filter fun p => k / 32 ≤ p && p < (k + 65536) / 32).map fun p => p - k / 32 }

/-- Before the device itself writes to a listed block, the block is taken as it stands: the write comes after its copying
(R343). -/
def State.ckFirst (s : State) (k : Nat) : State :=
  if !s.ckHold k then s
  else
    let f := k / 2^64
    let x := s.funOf f
    let here (b : Nat × Nat × Nat) : Bool := b.2.2 == k / 65536 * 65536
    s.setFun f { x with epoch := x.epoch.map fun e =>
      { e with blocks := e.blocks.filter fun b => !here b, caught := e.caught ++ (e.blocks.filter here).map (ckBlock s) } }

/-- A write by the device itself, within one block. -/
def State.put (s : State) (k n v : Nat) : State := ((s.ckFirst k).forward k n 1).store k n v

/-- Write `n` bytes of a context for the device itself, leaf by leaf: the bytes written before a fault, its code (0 for a
missing attribute, a peer without a key or poison that stays), and the state. `pin` asks for PIN. -/
def vwrite (s : State) (ctx : Nat) (pin : Bool) : Nat → Nat → Nat → Nat → Nat × Option Nat × State
  | 0, _, _, _ => (0, none, s)
  | fuel + 1, va, n, v =>
    if n = 0 then (0, none, s)
    else match peek s ctx va with
      | .error c => (0, some c, s)
      | .ok (l, e) =>
        let r := runLen va n
        if !pteW e || (pin && !ptePin e) || !reachable s ctx l || s.partPoison (memKey l) r then (0, some 0, s)
        else
          let (w, f, s') := vwrite ((s.touch ctx va true).put (memKey l) r v) ctx pin fuel (va + r) (n - r) (v / 2^(8 * r))
          (r + w, f, s')

/-! ### The issuing stream (R48, R87 to R91, R380) -/

/-- Write the results that have landed by a cycle (R89 rule 1): in order of landing, later in program
order last. -/
def landAll (st : Stream) : List Land → Stream
  | [] => st
  | l :: r =>
    landAll (if l.reg < 32 then (if l.reg = 0 then st else { st with g := mput 0 st.g l.reg l.val })
      else if l.reg = 32 then st
      else { st with p := BitVec.ofNat 8 (setBits st.p.toNat (l.reg - 32) 1 l.val.toNat) }) r

/-- The stream as an instruction issued in cycle `c` finds it. -/
def settle (st : Stream) (c : Nat) : Stream :=
  landAll { st with land := st.land.filter fun l => c < l.due }
    (sortBy (fun a b => a.due < b.due) (st.land.filter fun l => l.due ≤ c))

/-- The current stream, with its landed results. -/
def State.me (s : State) : Stream := settle (s.strmOf s.cur) s.now
/-- Replace the current stream. -/
def State.setMe (s : State) (st : Stream) : State := s.setStrm s.cur st
/-- The current stream's core. -/
def State.myCore (s : State) : Nat := s.cur / 8
/-- The current stream's task. -/
def State.myTask (s : State) : Task := s.taskAt s.cur
/-- The current stream's context. -/
def State.myCtx (s : State) : Nat := s.myTask.ctx

/-- P(f) (R88). -/
def Stream.pr (st : Stream) (f : P) : Bool := f = 0 || bitN st.p.toNat f.toNat
/-- Guard() (R48). -/
def Stream.guard (st : Stream) (h : Header) : Bool := st.pr h.prd != h.pn

/-- Whether a g field is a stream register. -/
def G.isQ (f : G) : Bool := 32 ≤ f.toNat && f.toNat < 36

/-- Whether an operation is a VQRD of stream register `n` that has not started. -/
def Op.claims (o : Op) (n : Nat) : Bool :=
  match o.i with
  | .vqrd _ _ q => o.guard && o.ph == .queued && q.toNat == n
  | _ => false

/-- Elements of a stream register claimed by queued VQRDs (R186). -/
def State.claimed (s : State) (k n : Nat) : Nat :=
  64 * (s.ops.countP fun o => 8 * o.core + o.strm == k && o.claims n)

/-- Take one element of stream register `n`, after the claimed ones. -/
def Stream.popQ (st : Stream) (skip n : Nat) : Word × Stream :=
  let l := mget [] st.q n
  (l.getD skip 0, { st with q := mput [] st.q n (l.take skip ++ l.drop (skip + 1)) })

/-- G(f) of R88, taking the element of a stream register. -/
def readG (s : State) (st : Stream) (f : G) : Word × Stream :=
  if G.isQ f then st.popQ (s.claimed s.cur (f.toNat - 32)) (f.toNat - 32)
  else if f = 0 then (0, st) else (mget 0 st.g f.toNat, st)

/-- Read g operands in order. -/
def readGs (s : State) (st : Stream) : List G → List Word × Stream
  | [] => ([], st)
  | f :: r =>
    let x := readG s st f
    let y := readGs s x.2 r
    (x.1 :: y.1, y.2)

/-- What an instruction uses: its g sources in order, its g destination, and whether its result comes at
a variable latency (R89, R90). -/
structure Use where
  srcs : List G := []
  dst  : Option G := none
  var  : Bool := false
  deriving DecidableEq, Repr

/-- Whether g register `f` is pending (R89). -/
def Stream.pending (st : Stream) (f : G) : Bool := f.toNat < 32 && bitN st.pend.toNat f.toNat

/-- Whether every stream-register element that is needed is present (R11, R90). -/
def qReady (s : State) (st : Stream) (u : Use) : Bool :=
  (List.range 4).all fun n =>
    let need := u.srcs.countP fun f => f.toNat == 32 + n
    need == 0 || s.claimed s.cur n + need ≤ (mget [] st.q n).length

/-- Whether rules 2 to 4 of R89 let the instruction issue. -/
def rulesOk (st : Stream) (u : Use) : Bool :=
  u.srcs.all (fun f => !st.pending f) &&
  (match u.dst with
    | some d => !st.pending d && !((u.var || u.srcs.any G.isQ) && d != 0 && st.land.any fun l => l.reg == d.toNat)
    | none => true)

/-- Whether nothing holds the instruction's operands. -/
def canRead (s : State) (st : Stream) (u : Use) : Bool := rulesOk st u && qReady s st u

/-- SetG at a fixed latency (R88), or at a pending one where a source was a stream register (R90). -/
def setG (st : Stream) (now : Nat) (f : G) (v : Word) (lat : Nat) (q : Bool) : Stream :=
  if f = 0 then st
  else if q then
    { st with pend := st.pend ||| (1 <<< f.toNat), arr := st.arr ++ [{ reg := f.toNat, due := now + max lat 2, val := v }] }
  else { st with land := st.land ++ [⟨f.toNat, now + lat, v⟩] }

/-- SetGPending with a result that arrives after `lat` cycles. -/
def setGP (st : Stream) (now : Nat) (f : G) (v : Word) (lat : Nat) : Stream := setG st now f v lat true

/-- SetP (R88, R90). -/
def setP (st : Stream) (now : Nat) (f : P) (v : Bool) (q : Bool) : Stream :=
  if f = 0 then st else { st with land := st.land ++ [⟨32 + f.toNat, now + if q then 2 else 1, BitVec.ofNat 64 v.toNat⟩] }

/-- What the issue of an instruction comes to. -/
inductive Eff where
  | ok (s : State)                       -- it issues, with this effect
  | stall (obj : Option (BitVec 2 × BitVec 8)) (s : State)    -- it waits; a counted wait if `since` runs
  | fault (f : FaultRec)
  deriving DecidableEq, Repr

/-! ### Fault records (R99, R329) -/

/-- FINFO from its fields (R99). -/
def finfo (cause strm eng : Nat) (obj : Option (BitVec 2 × BitVec 8)) (fetch wr nest : Bool) (code : Nat) : Word :=
  BitVec.ofNat 64 (cause % 256 + 2^8 * (strm % 8) + 2^11 * (eng % 8)
    + (match obj with
      | some (spc, o) => 2^14 * spc.toNat + 2^16 * o.toNat + 2^24
      | none => 0)
    + 2^25 * fetch.toNat + 2^26 * wr.toNat + 2^27 * nest.toNat + 2^32 * (code % 256))

/-- The cause in a fault record. -/
def FaultRec.cause (f : FaultRec) : Nat := f.finfo.toNat % 256

/-- A fault of the current stream's instruction (R271: ENG 0). -/
def pipeFault (s : State) (cause : Nat) (obj : Option (BitVec 2 × BitVec 8) := none) (faddr : Word := 0)
    (wr : Bool := false) (code : Nat := 0) (fetch : Bool := false) (walk : Nat := 0) : FaultRec :=
  let st := s.strmOf s.cur
  { finfo := finfo cause st.tnum 0 obj fetch wr (st.mode == .handler) code, faddr := faddr, fcyc := s.now, strm := st.tnum
    code := walk, host := cause == 0x09 || cause == 0x0A }

/-- A fault of an operation at its engine. -/
def opFault (s : State) (o : Op) (cause : Nat) (obj : Option (BitVec 2 × BitVec 8) := none) (faddr : Word := 0)
    (wr : Bool := false) (walk : Nat := 0) : FaultRec :=
  { finfo := finfo cause o.tnum (match o.eng with
      | .vec => 1
      | .mat => 2
      | .cpy => 3
      | .near => 4) obj false wr false 0
    faddr := faddr, fcyc := s.now, fstep := o.step, strm := o.tnum, code := walk, host := cause == 0x09 || cause == 0x0A }

end Sys2Proof.Machine
end

