-- ==== Sys2Proof/Machine/Operands.lean ====
section
/-!
DEFINITION. The operands of engine instructions: their engine, counted sources and destinations by register
groups (R138, R139, R143, R190), the g operands they read at issue, and the latency and occupancy of R147;
frame offsets (R179) and scalar ABF addresses (R18, R124).
-/
namespace Sys2Proof.Machine

/-- What an engine instruction names. -/
structure Tile where
  eng  : Eng := .vec
  srcs : List (Spc × Nat × BitVec 6) := []
  dsts : List (Spc × Nat × BitVec 4) := []
  chk  : List (Spc × Nat) := []           -- further names tested by R15
  gs   : List G := []
  lat  : Nat := 0
  occ  : Nat := 1
  deriving DecidableEq, Repr

/-- A source group of `n` objects. -/
def sGrp (spc : Spc) (x : Src) (n : Nat) : List (Spc × Nat × BitVec 6) :=
  (List.range n).map fun i => (spc, x.obj.toNat + i, x.tag)
/-- A destination group of `n` objects. -/
def dGrp (spc : Spc) (x : Dst) (n : Nat) : List (Spc × Nat × BitVec 4) :=
  (List.range n).map fun i => (spc, x.obj.toNat + i, x.rc)

/-- Registers of one operand of a lane-wise instruction. -/
def regN (t : Ty) : Nat := if t = .s64 then 2 else 1

/-- A lane-wise operation of register operands. -/
def lanewise (t : Ty) (lat : Nat) (d : Dst) (as : List Src) : Tile :=
  { srcs := as.flatMap fun a => sGrp .t a (regN t), dsts := dGrp .t d (regN t), lat := lat, occ := regN t }

/-- Registers of elements of one MX copy of a tile (R165). -/
def mx2N (t : Ty) : Nat := if t = .e2m1 then 2 else 3

/-- MMA and MMAS. -/
def mmaTile (d : Dst) (a b : Src) : Tile :=
  { eng := .mat, srcs := sGrp .o a 1 ++ sGrp .o b 1, dsts := dGrp .a d 1 }

/-- The operands of an instruction; no engine instruction's are those of the empty tile. -/
def tileOf : Instr → Tile
  | .vadd _ t d a b => lanewise t 4 d [a, b]
  | .vsub _ t d a b => lanewise t 4 d [a, b]
  | .vmul _ t d a b => lanewise t 5 d [a, b]
  | .vmin _ t d a b => lanewise t 4 d [a, b]
  | .vmax _ t d a b => lanewise t 4 d [a, b]
  | .vand _ t d a b => lanewise t 4 d [a, b]
  | .vor _ t d a b => lanewise t 4 d [a, b]
  | .vxor _ t d a b => lanewise t 4 d [a, b]
  | .vshl _ t d a b => lanewise t 4 d [a, b]
  | .vshr _ t d a b => lanewise t 4 d [a, b]
  | .vsra _ t d a b => lanewise t 4 d [a, b]
  | .vwmul _ _ d a b => { srcs := sGrp .t a 1 ++ sGrp .t b 1, dsts := dGrp .t d 2, lat := 5, occ := 2 }
  | .vwadd _ _ d a b => { srcs := sGrp .t a 1 ++ sGrp .t b 1, dsts := dGrp .t d 2, lat := 5, occ := 2 }
  | .vfma _ t d a b c => lanewise t 5 d [a, b, c]
  | .vabs _ t d a => lanewise t 4 d [a]
  | .vneg _ t d a => lanewise t 4 d [a]
  | .vnot _ t d a => lanewise t 4 d [a]
  | .vcmp _ _ t d a b => lanewise t 4 d [a, b]
  | .vsel _ t d a b c => lanewise t 4 d [a, b, c]
  | .vbcast _ t d gb => { lanewise t 4 d [] with gs := [gb] }
  | .vlane _ t _ a gb _ => { srcs := sGrp .t a (regN t), gs := [gb], lat := 4 }
  | .vperm _ d a b => lanewise .f32 4 d [a, b]
  | .viota _ t d => lanewise t 4 d []
  | .vexp2 _ d a => lanewise .f32 8 d [a]
  | .vrcp _ d a => lanewise .f32 12 d [a]
  | .vrsq _ d a => lanewise .f32 12 d [a]
  | .vsqrt _ d a => lanewise .f32 12 d [a]
  | .vcvt _ toT fr _ d a =>
    let k := cvtCount fr toT
    let n := max (fr.span k) (toT.span k)
    { srcs := sGrp .t a (fr.span k), dsts := dGrp .t d (toT.span k), lat := 4 + n, occ := n }
  | .vquant _ t src d a =>
    let n := (mxWide src).span (quantCount t)
    { srcs := sGrp .t a n, dsts := dGrp .t d 2, lat := 10 + n, occ := n }
  | .vquant2 _ t d c a =>
    { srcs := sGrp .t a 8, dsts := dGrp .t d (mx2N t) ++ dGrp .t c (mx2N t), lat := 24, occ := 8 }
  | .vdeq _ t toT d a =>
    let n := (mxWide toT).span (quantCount t)
    { srcs := sGrp .t a 2, dsts := dGrp .t d n, lat := 10 + n, occ := n }
  | .vsclr _ d => { dsts := dGrp .t d 3, lat := 4, occ := 3 }
  | .vstat _ lg d a b =>
    { srcs := sGrp .t a 3 ++ sGrp .t b 1, dsts := dGrp .t d 3, lat := 8 + 2^lg.toNat, occ := 2^lg.toNat }
  | .vstatw _ lg d a b c =>
    { srcs := sGrp .t a 3 ++ sGrp .t b 1 ++ sGrp .t c 1, dsts := dGrp .t d 3, lat := 8 + 2^lg.toNat, occ := 2^lg.toNat }
  | .vsmerge _ d a b => { srcs := sGrp .t a 3 ++ sGrp .t b 3, dsts := dGrp .t d 3, lat := 12, occ := 3 }
  | .vsdrain _ opt _ d a b =>
    { srcs := sGrp .t a 3 ++ (if opt = 3 then sGrp .t b 1 else []), dsts := dGrp .t d 1
      lat := match opt.toNat with
        | 1 | 2 => 16
        | 3 => 28
        | _ => 6 }
  | .vsdrainNorm _ _ d a b c _ aff _ =>
    { srcs := sGrp .t a 3 ++ sGrp .t b 1 ++ (if aff then sGrp .t c 2 else []), dsts := dGrp .t d 1, lat := 32 }
  | .vredmax _ t d a => { lanewise t 10 d [a] with occ := 1 }
  | .vredmin _ t d a => { lanewise t 10 d [a] with occ := 1 }
  | .vhist _ d a b => { srcs := sGrp .t a 2 ++ sGrp .t b 1, dsts := dGrp .t d 2, lat := 12, occ := 2 }
  | .vrank _ d a b => { srcs := sGrp .t a 1 ++ sGrp .t b 2, dsts := dGrp .t d 1, lat := 14, occ := 2 }
  | .vamerge _ d a b => { srcs := sGrp .t a 9 ++ sGrp .t b 9, dsts := dGrp .t d 9, lat := 24, occ := 9 }
  | .vafin _ d a => { srcs := sGrp .t a 9, dsts := dGrp .t d 8, lat := 20, occ := 8 }
  | .vld _ t d a gb _ => { srcs := sGrp .f a 1, dsts := dGrp .t d (regN t), gs := [gb], lat := 6, occ := regN t }
  | .vst _ d gb _ a => { srcs := sGrp .t a 1, dsts := dGrp .f d 1, gs := [gb], lat := 6 }
  | .vlds _ _ d a gb _ _ _ => { srcs := sGrp .f a 1, dsts := dGrp .t d 1, gs := [gb], lat := 14, occ := 4 }
  | .vgath _ _ d a b => { srcs := sGrp .f a 1 ++ sGrp .t b 1, dsts := dGrp .t d 1, lat := 14, occ := 4 }
  | .vscat _ _ d a b => { srcs := sGrp .t a 1 ++ sGrp .t b 1, dsts := dGrp .f d 1, lat := 14, occ := 4 }
  | .vldo _ d a _ => { srcs := sGrp .o a 1, dsts := dGrp .t d 1, lat := 6 }
  | .vsto _ d _ a => { srcs := sGrp .t a 1, dsts := dGrp .o d 1, lat := 20, occ := 16 }
  | .vqrd _ d _ => { dsts := dGrp .t d 1, lat := 4 }
  | .mma _ _ d a b _ => mmaTile d a b
  | .mmas _ _ d a b _ => mmaTile d a b
  | .mgath _ _ d a b ti tj _ pm1 =>
    { eng := .mat, srcs := sGrp .o a (pm1.toNat + 1) ++ sGrp .o b 1 ++ sGrp .t ti 1 ++ sGrp .t tj 1, dsts := dGrp .a d 1 }
  | .mgroup _ _ d a b fx _ _ => { mmaTile d a b with srcs := sGrp .o a 1 ++ sGrp .o b 1 ++ sGrp .f fx 1 }
  | .acalloc _ _ _ => { eng := .mat }
  | .acfree _ o => { eng := .mat, chk := [(.a, o.toNat)] }
  | .acband _ o _ _ => { eng := .mat, chk := [(.a, o.toNat)] }
  | .aczero _ d => { eng := .mat, dsts := dGrp .a d 1, lat := 32 }
  | .acdrain _ t _ _ _ _ d a =>
    { srcs := sGrp .a a 1, dsts := dGrp .t d (t.span 1024), lat := 14, occ := t.span 1024 }
  | .acfill _ _ d a => { srcs := sGrp .t a 8, dsts := dGrp .a d 1, lat := 14, occ := 8 }
  | .cp _ spc d gs _ _ _ => { eng := .cpy, dsts := dGrp spc d 1, gs := [gs] }
  | .cpst _ spc gs _ a _ => { eng := .cpy, srcs := sGrp spc a 1, gs := [gs] }
  | .cpg _ d gs c => { eng := .cpy, srcs := sGrp .t c 1, dsts := dGrp .o d 1, gs := [gs] }
  | .cps _ gs a c => { eng := .cpy, srcs := sGrp .f a 1 ++ sGrp .t c 1, gs := [gs] }
  | .cpq _ _ gs _ => { eng := .cpy, gs := [gs] }
  | .cppub _ spc o => { eng := .cpy, chk := [(spc, o.toNat)] }
  | .rfence _ => { eng := .cpy }
  | .qpost _ d c gk gl _ _ =>
    { eng := .near, srcs := sGrp .t c 1, dsts := dGrp .f d 1, chk := (List.range 16).map fun i => (.f, d.obj.toNat + i)
      gs := [gk, gl] }
  | .kvapp _ gk gp a => { eng := .near, srcs := sGrp .t a 1, gs := [gk, gp] }
  | .coll _ d gb => { eng := .near, dsts := dGrp .f d 1, gs := [gb] }
  | .trigarm _ gi gb => { eng := .near, gs := [gi, gb] }
  | .trigclr _ gi => { eng := .near, gs := [gi] }
  | .tsend _ gd gi => { eng := .near, gs := [gd, gi] }
  | _ => {}

/-! ### Records (R205, R219, R227) -/

/-- Fields of a shape record's image (R205). -/
def recBase (r : Nat) : Nat := bits r 0 64
def recTy (r : Nat) : Ty := Ty.of (BitVec.ofNat 4 (bits r 64 4))
def recMx (r : Nat) : Bool := bitN r 68
def recRank (r : Nat) : Nat := bits r 72 8
def recDim (r d : Nat) : Nat := bits r (128 + 32 * d) 32
def recStride (r d : Nat) : Int := sgn (bits r (320 + 64 * d) 64) 64
def recBox (r d : Nat) : Nat := bits r (704 + 16 * d) 16
def recKH (r : Nat) : Nat := bits r 800 8
def recKW (r : Nat) : Nat := bits r 808 8
def recWS (r : Nat) : Nat := bits r 816 8
def recDil (r : Nat) : Nat := bits r 824 8
def recPad (r i : Nat) : Nat := bits r (832 + 8 * i) 8
def recFill (r : Nat) : Nat := bits r 864 32
def recSBase (r : Nat) : Nat := bits r 896 64
def recSStride (r d : Nat) : Int := sgn (bits r (960 + 64 * d) 64) 64

/-- Fields of a KV map record's image (R219). -/
def kvBase (r : Nat) : Nat := bits r 0 64
def kvD (r : Nat) : Nat := bits r 64 16
def kvType (r : Nat) : Nat := bits r 80 8
def kvTpr (r : Nat) : Nat := bits r 88 8
def kvCap (r : Nat) : Nat := bits r 128 64
def kvEsize (r : Nat) : Nat := if kvType r = 1 then 2 else 1
/-- Whether a KV map record breaks a rule of R219. -/
def kvBad (r : Nat) : Bool :=
  kvBase r % 65536 != 0 || !(kvD r == 64 || kvD r == 128 || kvD r == 256)
    || !(kvType r == 1 || kvType r == 3 || kvType r == 4) || kvTpr r * (2 * kvD r * kvEsize r) != 2048
    || bits r 96 32 != 0 || 2^40 < kvCap r || bits r 192 64 != 1 || bits r 256 256 != 0

/-! ### The names of an issued operation -/

/-- Registers of QPOST's query group (R222) and of KVAPP's token record (R226): the first alone under a
false guard (R380). -/
def dataGroup (o : Op) : Option (Src × Nat) :=
  let r := o.img.getD 0 0
  match o.i with
  | .qpost _ _ c _ _ qn _ => some (c, if o.guard then ceilDiv (qn.toNat * kvD r) 256 else 1)
  | .kvapp _ _ _ a => some (a, if o.guard then ceilDiv (2 * kvD r * kvEsize r) 512 else 1)
  | _ => none

/-- The counted sources of an operation, in operand order. -/
def Op.srcs (o : Op) : List (Spc × Nat × BitVec 6) :=
  match dataGroup o with
  | some (x, n) => sGrp .t x n
  | none => (tileOf o.i).srcs

/-- The counted destinations of an operation. -/
def Op.dsts (o : Op) : List (Spc × Nat × BitVec 4) := (tileOf o.i).dsts

/-- The key of a name of an operation. -/
def State.opKey (s : State) (o : Op) (spc : Spc) (i : Nat) : Nat :=
  nameKey (s.taskOf (4 * o.core + o.slot)) o.core o.slot spc i

/-- The sources with their keys. -/
def State.opSrcs (s : State) (o : Op) : List (Nat × BitVec 6) := o.srcs.map fun x => (s.opKey o x.1 x.2.1, x.2.2)
/-- The destinations with their keys. -/
def State.opDsts (s : State) (o : Op) : List (Nat × BitVec 4) := o.dsts.map fun x => (s.opKey o x.1 x.2.1, x.2.2)

/-! ### The extents of the matrix instructions (R192) -/

/-- The fields of a matrix instruction's OPT. -/
def mmaOpt : Instr → Option (Ty × MmaOpt)
  | .mma _ t _ _ _ o | .mmas _ t _ _ _ o | .mgath _ t _ _ _ _ _ o _ | .mgroup _ t _ _ _ _ _ o => some (t, o)
  | _ => none

/-- M, N and K of OPT. -/
def mmaM (o : MmaOpt) : Nat := o.mm1.toNat + 1
def mmaN (o : MmaOpt) : Nat := o.nm1.toNat + 1
def mmaK (o : MmaOpt) : Nat := 8 * (o.kq.toNat + 1)
/-- Kept values of a block of 32 (R192). -/
def mmaKept (o : MmaOpt) : Nat := if o.sn then 8 else 16
/-- K as A stores it. -/
def mmaKa (o : MmaOpt) : Nat := mmaK o * mmaKept o / 32

/-- Group size, and cycles of a K-step (R192). -/
def mmaClass (t : Ty) : Nat × Nat :=
  match t with
  | .bf16 | .f16 => (64, 8)
  | .e2m1 => (256, 2)
  | _ => (128, 4)

/-- Whether an instruction is an MMAS. -/
def isMmas : Instr → Bool
  | .mmas _ _ _ _ _ _ => true
  | _ => false

/-- Steps of one group, steps in all, and cycles of a step (R193). -/
def mmaSteps (i : Instr) (t : Ty) (p : MmaOpt) : Nat × Nat × Nat :=
  let c := mmaClass t
  if isMmas i then (c.1 * mmaKept p / 256, mmaKa p / 8, if p.sn then 2 * c.2 else c.2) else (c.1 / 8, mmaK p / 8, c.2)

/-- Cycles of a matrix operation's next step (R42). -/
def stepTime (o : Op) : Nat :=
  match mmaOpt o.i with
  | some (t, p) => (mmaSteps o.i t p).2.2 + (if o.step = 0 then 12 else 0)
  | none => 32

/-- Whether a matrix operation is in a step that had begun by a cycle. -/
def Op.inStep (o : Op) (c : Nat) : Bool := o.eng == .mat && o.ph == .run && o.due != 0 && o.due < c + stepTime o

/-- The next step of an operation whose engine stopped in a cycle: one that had begun runs to its end (R24). -/
def Op.stepAt (o : Op) (c : Nat) : Nat := if o.inStep c then o.step + 1 else o.step

/-- Whether the extents of a matrix instruction take cause 0x12 at issue (R192). -/
def extentBad (i : Instr) : Bool :=
  match mmaOpt i with
  | some (t, p) =>
    (mmaClass t).1 < mmaK p || (p.mx && mmaK p % 32 != 0)
      || (isMmas i && (mmaK p % 32 != 0 || 4096 < mmaM p * mmaKa p))
  | none => false

/-- The reserved code that an instruction's fields hold in a task (R200), before any object is resolved (R62). -/
def codeFault (t : Task) (i : Instr) : Option Nat :=
  match i with
  | .acband _ _ _ strms => if strms.toNat / 2^t.phys.length != 0 then some 0x02 else none
  | _ => none

/-- The cause that an instruction's own fields take in a task, under any guard (R192, R200). -/
def fieldFault (t : Task) (i : Instr) : Option Nat := if extentBad i then some 0x12 else codeFault t i

/-! ### Offsets and ABF addresses -/

/-- The frame offset O of R179. -/
def frameOff (gb : Word) (imm : BitVec 9) : Nat := (gb.toNat + 8 * imm.toNat) % 2^64

/-- The cause a frame offset takes: `n` bytes at O, aligned to `al` (R70, R179). -/
def offFault (o n al : Nat) : Option Nat := if 4096 < o + n then some 0x04 else if o % al != 0 then some 0x0C else none

/-- A scalar ABF address (R18). -/
def abfOff (a : Nat) : Nat := bits a 0 20
def abfGC (a : Nat) : Nat := bits a 20 3

/-- The cause a plain ABF access of `n` bytes takes (R18, R70). -/
def abfFault (t : Task) (a n : Nat) : Option Nat :=
  if a / 2^23 != 0 then some 0x0B
  else if abfGC a != t.grank then some 0x0B
  else if (winOf t.win .f).2 * 4096 ≤ abfOff a then some 0x04
  else if abfOff a % n != 0 then some 0x0C
  else none

/-- The cause an ABF atomic takes (R124, R70). -/
def abfAtomFault (t : Task) (sc : Scope) (a n : Nat) : Option Nat :=
  if a / 2^23 != 0 then some 0x0B
  else if t.gsize ≤ abfGC a || (sc = .core && abfGC a != t.grank) then some 0x0B
  else if (winOf t.win .f).2 * 4096 ≤ abfOff a then some 0x04
  else if abfOff a % n != 0 then some 0x0C
  else none

end Sys2Proof.Machine
end

