-- ==== Sys2Proof/Machine/Flags.lean ====
section
/-!
DEFINITION. Flags and status fields: FLG (R94, R249), the TFENCE test (R129), counters (R12) and the
registers that read as 0 in reserved bits (R7, R93, R99).
-/
namespace Sys2Proof.Machine

/-- OR flags into FLG (R23, R249). -/
def Stream.orFlags (st : Stream) (f : BitVec 8) : Stream := { st with flg := st.flg ||| f.setWidth 32 }

/-- FLG[4:0] AND FPC[12:8] (R129). -/
def Stream.trapFlags (st : Stream) : Nat := bits st.flg.toNat 0 5 &&& bits st.fpc.toNat 8 5

/-- FPC with its reserved bits 0 (R93). -/
def maskFpc (v : BitVec 32) : BitVec 32 := v &&& 0x3F1F
/-- FLG with its reserved bits 0 (R94). -/
def maskFlg (v : BitVec 32) : BitVec 32 := v &&& 0xFF
/-- FINFO with its reserved bits 0 (R99). -/
def maskFinfo (v : Word) : Word := v &&& 0xFF0FFFFFFF

/-- Write SEED: every lane state follows (R95). -/
def Stream.setSeed (st : Stream) (v : BitVec 32) : Stream := { st with seed := v, lanes := seedLanesFrom v 128 }

/-- The counter of an engine's class (R12): one more operation. -/
def Stream.countUp (st : Stream) (e : Eng) : Stream :=
  match e with
  | .vec | .mat => { st with cntT := st.cntT + 1 }
  | .cpy | .near => { st with cntC := st.cntC + 1 }

/-- One operation of the class has completed. -/
def Stream.countDown (st : Stream) (e : Eng) : Stream :=
  match e with
  | .vec | .mat => { st with cntT := st.cntT - 1 }
  | .cpy | .near => { st with cntC := st.cntC - 1 }

/-- TVIEW's image (R135). -/
def viewImage (c : Cnt) (t : Nat) : Word :=
  BitVec.ofNat 64 ((c.view t).toNat + 2^16 * c.w.toNat + 2^32 * c.d.toNat + 2^36 * c.l.toNat + 2^40 * c.h.toNat)

/-- TID from its fields (R97). -/
def mkTid (strm grank gsize nstrm slot ctx core die : Nat) : Word :=
  BitVec.ofNat 64 (strm + 2^3 * grank + 2^6 * (gsize - 1) + 2^9 * (nstrm - 1) + 2^12 * slot + 2^14 * ctx + 2^20 * core
    + 2^27 * die)

/-- TID of a stream (R97). -/
def State.tid (s : State) (k : Nat) : Word :=
  let t := s.taskAt k
  let st := s.strmOf k
  mkTid st.tnum t.grank t.gsize t.phys.length st.slot t.ctx (k / 8 % 80) (k / 8 / 80)

end Sys2Proof.Machine
end

