-- ==== Sys2Proof/Machine/Reports.lean ====
section
/-!
DEFINITION. Reports to the host: MSI-X vectors, machine checks, fault-queue entries and graph errors (R284,
R336, R356, R362).
-/
namespace Sys2Proof.Machine

/-- Raise an MSI-X vector of a function: its pending bit is set (R356, R357). -/
def raiseVec (s : State) (f v : Nat) : State :=
  let x := s.funOf f
  s.setFun f { x with pba := x.pba ||| (1 <<< v) }

/-- The 32 bytes of a machine-check entry (R336). -/
def mcBytes (e : Mc) : Nat :=
  e.kind + 2^16 * e.qtr + 2^24 * e.sev + 2^32 * e.ctx + 2^64 * (e.cyc % 2^64) + 2^128 * e.loc.toNat + 2^192 * e.info.toNat

/-- Record a machine check, and write it to the ring where physical function 0 has enabled it (R336, R377). -/
def machineCheck (s : State) (kind qtr sev ctx : Nat) (loc info : Word) : State :=
  let e : Mc := ⟨kind, qtr, sev, ctx, s.now, loc, info⟩
  let p := s.dev.pf0
  let r := p.mcring.toNat
  if bitN r 0 then
    let a := bits r 12 52 * 2^12 + 32 * (p.mctail % 2^(bits r 1 4))
    raiseVec ((s.setMem (writeN s.mem (memKey ⟨.host, a⟩) 32 (mcBytes e))).setPf0
      { p with mcs := e :: p.mcs, mctail := p.mctail + 1 }) 0 1
  else s.setPf0 { p with mcs := e :: p.mcs }

/-- Whether a function answers accesses to its BARs: it is one of the five and its interface is not in ERROR (R322, R356). -/
def State.answers (s : State) (f : Nat) : Bool := f < 5 && (s.funOf f).tdisp != .error

/-- Whether a function's register writes take effect: it answers, and no bring-up is under way or has failed (R377; DESIGN CHOICE,
assumption 46). -/
def State.mmio (s : State) (f : Nat) : Bool := s.answers f && !s.dev.pf0.boot && !s.dev.pf0.failed

/-- Queue a fault-queue entry for the owner of a context, in the order of detection (R362). -/
def fqAdd (s : State) (e : FqEnt) : State :=
  let f := s.ownerC e.ctx
  let x := s.funOf f
  s.setFun f { x with fqpend := (x.fqpend.filter fun y => y.cyc ≤ e.cyc) ++ e :: x.fqpend.filter fun y => e.cyc < y.cyc }

/-- A graph error (R284). -/
def graphError (s : State) (ctx : Nat) (code : Nat) (node : Word) : State :=
  fqAdd s { kind := 3, ctx := ctx, code := code, faddr := node, cyc := s.now }

/-! ### The order log and replay (R345, R346) -/

/-- The next logged choice of a type at a unit. -/
def Replay.next (r : Replay) (typ unit whr : Nat) : Option LogEnt :=
  r.log.find? fun e => e.typ == typ && e.unit == unit && e.whr == whr

/-- Whether a choice is the logged one: its cycle, in bits [63:32], aside. -/
def LogEnt.isChoice (e : LogEnt) (choice : Nat) : Bool :=
  if e.typ = 5 then e.choice == choice else e.choice % 2^32 == choice % 2^32

/-- Whether a choice may be made in a function's partition: in replay, only the logged one. -/
def mayChooseIn (s : State) (f typ unit whr choice : Nat) : Bool :=
  match (s.funOf f).replay with
  | none => true
  | some r => match r.next typ unit whr with
    | some e => e.isChoice choice
    | none => true

/-- Whether a choice that concerns a context may be made. -/
def mayChoose (s : State) (ctx typ unit whr choice : Nat) : Bool := mayChooseIn s (s.ownerC ctx) typ unit whr choice

/-- Replay diverges (R346): the context stops, and a kind-5 machine check is written. -/
def diverge (s : State) (ctx idx : Nat) : State :=
  let f := s.ownerC ctx
  let s1 := (s.setFun f { s.funOf f with replay := none }).setCtx ctx { s.ctxOf ctx with dbgStop := true, force := true }
  machineCheck s1 5 0xFF 1 ctx 0 (BitVec.ofNat 64 idx)

/-- A unit waits for its logged candidate, no longer than a wait limit from when it began to wait. -/
def replayWait (s : State) (ctx typ unit whr lim : Nat) : State :=
  let x := s.funOf (s.ownerC ctx)
  match x.replay with
  | none => s
  | some r =>
    match r.waits.find? (·.1 == (typ, unit, whr)) with
    | some w => if w.2 + lim < s.now then diverge s ctx r.idx else s
    | none => s.setFun (s.ownerC ctx) { x with replay := some { r with waits := ((typ, unit, whr), s.now) :: r.waits } }

/-- The contexts that a checkpoint covers (R342). -/
def covered (s : State) (f : Nat) : List Nat := (s.ctxsOf f).filter fun c => (s.ctxOf c).ckey.isSome

/-- The 16 bytes of an entry of the order log (R345). -/
def logBytes (e : LogEnt) : Nat :=
  e.typ % 2^8 + 2^8 * (e.unit % 2^8) + 2^16 * (e.whr % 2^16) + 2^32 * (e.seq % 2^32) + 2^64 * (e.choice % 2^64)

/-- Write the `n`-th entry of the open segment to the buffer of the order log, in the first of the covered contexts
(R342, R345). -/
def putLog (s : State) (f n : Nat) (e : LogEnt) : State :=
  let g := (s.funOf f).cklog.toNat
  let size := bits g 0 8 * 2^20
  match covered s f with
  | c :: _ => if bitN g 8 then (vwrite s c true 2 (g / 2^16 * 2^16 + 16 * n % size) 16 (logBytes e)).2.2 else s
  | [] => s

/-- A choice among several candidates: recorded in the order log of a partition that takes checkpoints, with the number of the
choice at its unit, or consumed in replay, which ends with the log. -/
def logChoice (s : State) (ctx typ unit whr choice : Nat) : State :=
  let f := s.ownerC ctx
  let x := s.funOf f
  match x.replay with
  | some r => (match r.next typ unit whr with
    | some e => s.setFun f { x with replay := some {
        log := r.log.erase e, at' := s.now, idx := r.idx + 1, waits := r.waits.filter (·.1 != (typ, unit, whr)) } }
    | none => diverge s ctx r.idx)
  | none =>
    if bitN x.cktgt.toNat 0 then
      let u := 65536 * unit + whr
      let e : LogEnt := ⟨typ, unit, whr, mget 0 x.oseq u, choice⟩
      putLog (s.setFun f { x with olog := e :: x.olog, fullC := s.now, oseq := mput 0 x.oseq u (e.seq + 1) }) f x.olog.length e
    else s

/-- A logged choice of a stream and its issue cycle. -/
def strmCyc (o : Op) : Nat := o.strm + 2^32 * (o.cyc % 2^32)

/-! ### Trace (R347, R349, R351) -/

/-- The safe-point ordinal and object number of an address in a context, if it is a safe point (R347). -/
def safePoint (s : State) (ctx pc : Nat) : Option (Nat × Nat) :=
  match (s.ctxOf ctx).objs.find? fun o => o.lo ≤ pc && pc < o.hi with
  | some o => (o.sps.findIdx? (· == pc)).map fun i => (i, o.num)
  | none => none

/-- The last safe point at or before an address: ordinal, object number and instruction words after it (R349). -/
def lastSafe (s : State) (ctx pc : Nat) : Option (Nat × Nat × Nat) :=
  match (s.ctxOf ctx).objs.find? fun o => o.lo ≤ pc && pc < o.hi with
  | some o =>
    let n := o.sps.countP (· ≤ pc)
    if n = 0 then none else some (n - 1, o.num, (pc - o.sps.getD (n - 1) 0) / 8)
  | none => none

/-- Write a 32-byte record to a context's trace ring (R349): a write that faults drops the record and sets TRERR, which
turns tracing off. -/
def traceWrite (s : State) (ctx v : Nat) : State :=
  let c := s.ctxOf ctx
  let size := 65536 * bits c.trbuf.toNat 0 12
  if size = 0 || bitN c.dbgctl.toNat 5 then s
  else match vwrite s ctx false 2 (c.trbuf.toNat / 2^16 * 2^16 + c.trpos) 32 v with
    | (_, none, s1) => s1.setCtx ctx { s1.ctxOf ctx with trpos := (c.trpos + 32) % size }
    | _ => s.setCtx ctx { c with dbgctl := c.dbgctl ||| 0x20 }

/-- A context in a cycle of events: what stood of an earlier cycle is over (R351). An event that is told of late counts in the
latest cycle of events. -/
def Ctx.inCycle (c : Ctx) (cyc : Nat) : Ctx := if cyc ≤ c.evC then c else { c with evC := cyc, evStop := false, evs := [] }

/-- TRACE_EVENT_RECORD (R351): an event of a condition code of a context. In each cycle STOP acts before START, and where one
of them has held, every record of the cycle is written, those before it included. -/
def traceEvent (s : State) (ctx code core strm : Nat) (sp : Option (Nat × Nat)) (cyc : Nat) : State :=
  if (s.ctxOf ctx).ttrig = 0 then s
  else
    let c := (s.ctxOf ctx).inCycle cyc
    let t := c.ttrig.toNat
    let stop := c.evStop || bits t 8 8 == code
    let start := !stop && bits t 0 8 == code
    let run := !stop && (start || bitN t 16)
    let (ord, obj) := sp.getD (0xFFFFFFFF, 0)
    let r := code + 2^8 * core + 2^16 * strm + 2^32 * ord + 2^64 * obj + 2^192 * (cyc % 2^64)
    let wr := stop || run
    (if wr then c.evs ++ [r] else []).foldl (fun s v => traceWrite s ctx v) (s.setCtx ctx { c with
      ttrig := BitVec.ofNat 64 (setBits t 16 1 run.toNat), evStop := stop, evs := if wr then [] else c.evs ++ [r] })

/-- A cycle count as a sample holds it. -/
def sat16 (n : Nat) : Nat := if n < 65535 then n else 65535

/-- SAMPLE_RECORD (R349). -/
def sampleRecord (s : State) (ctx core tnum : Nat) (pc : Word) (flags fetch issue queue cwait exec cyc : Nat) : State :=
  let (ord, obj, dist) := (lastSafe s ctx pc.toNat).getD (0xFFFFFFFF, 0, 0)
  traceWrite s ctx (ord + 2^32 * obj + 2^48 * (dist % 2^16) + 2^64 * core + 2^72 * tnum + 2^80 * flags
    + 2^96 * sat16 fetch + 2^112 * sat16 issue + 2^128 * sat16 queue + 2^144 * sat16 cwait + 2^160 * sat16 exec + 2^192 * (cyc % 2^64))

/-- A tagged operation has committed, or faulted. -/
def sampleEnd (s : State) (o : Op) (faulted : Bool) : State :=
  match o.samp with
  | none => s
  | some (f, i) =>
    if o.ph = .queued then sampleRecord s o.ctx o.core o.tnum o.pc ((!o.guard).toNat + 2 * faulted.toNat) f i (s.now - o.cyc) 0 0 o.cyc
    else sampleRecord s o.ctx o.core o.tnum o.pc ((!o.guard).toNat + 2 * faulted.toNat) f i (o.at0 - o.cyc - o.cw) o.cw
      (s.now - o.at0) o.cyc

/-- K of a context whose sampling is on (R349). -/
def sampleK (c : Ctx) : Option Nat :=
  let k := bits c.sampctl.toNat 1 5
  if bitN c.sampctl.toNat 0 && 8 ≤ k && k ≤ 24 then some k else none

/-- Whether the sampling of a context tags the next instruction, with probability 2^-K. -/
def sampleHit (s : State) (ctx : Nat) : Bool :=
  match sampleK (s.ctxOf ctx) with
  | none => false
  | some k => Config.sampleDraw s.free % 2^k == 0

end Sys2Proof.Machine
end

