-- ==== Sys2Proof/Machine/Graph.lean ====
section
/-!
DEFINITION. The graph sequencer: launch and loop-nest records (R276 to R280), graph nodes (R281), and their
submission, release, firing and completion (R282 to R284, R361).
-/
namespace Sys2Proof.Machine

/-- Bytes `o` to `o + n - 1` of a record's image. -/
def fld (b o n : Nat) : Nat := bits b (8 * o) (8 * n)

/-! ### Records -/

/-- Whether a graph address has its alignment (R284). -/
def gAligned (a : Word) (n : Nat) : Bool := a.toNat % n == 0

/-- The loop entries of a loop-nest record from entry `i` on; none where R280 is broken. `regs` are the index
registers already named. -/
def loopsOf (b n : Nat) : Nat → Nat → List Nat → Option (List Loop)
  | 0, _, _ => some []
  | k + 1, i, regs =>
    let e := fld b (8 + 16 * i) 16
    if n ≤ i then (if e = 0 then loopsOf b n k (i + 1) regs else none)
    else
      let l : Loop := ⟨fld e 0 1, fld e 1 1, fld e 2 1, fld e 8 8⟩
      if 2 < l.kind || 5 < l.reg || regs.contains l.reg || fld e 3 5 != 0 ||
          (if l.kind = 2 then i ≤ l.outer else l.outer != 0) then none
      else (loopsOf b n k (i + 1) (l.reg :: regs)).map (l :: ·)

/-- A loop-nest record (R280), or its graph-error code. -/
def readNest (s : State) (ctx : Nat) (a : Word) : Except Nat (List Loop) :=
  if !gAligned a 64 then .error 2
  else match vread2 s ctx a.toNat 128 with
    | .error _ => .error 3
    | .ok b =>
      let n := fld b 0 1
      if n = 0 || 6 < n || fld b 1 7 != 0 || fld b 104 24 != 0 then .error 4
      else match loopsOf b n 6 0 [] with
        | none => .error 4
        | some l => if l.any fun x => x.kind != 0 && x.bound % 8 != 0 then .error 2 else .ok l

/-- Most instances of a quarter or cluster level inside its enclosing level (R2, R277); `e` is the enclosing
DOM. -/
def lvlCap (e d : Nat) : Nat :=
  match d, e with
  | 2, 0 => 4
  | 2, _ => 2
  | 3, 0 => 20
  | 3, 1 => 10
  | 3, _ => 5
  | _, _ => 2^24

/-- Whether quarter and cluster levels fit their enclosing levels. -/
def capsOk : Nat → List (Nat × Nat × Nat) → Bool
  | _, [] => true
  | e, (d, _, c) :: r => c ≤ lvlCap e d && capsOk d r

/-- DOM, SCOPE and COUNT of the level entries in use, or none where an entry's reserved bits are set. -/
def levelsOf (b n : Nat) : Option (List (Nat × Nat × Nat)) :=
  let es := (List.range 8).map fun i => fld b (64 + 8 * i) 8
  if (es.drop n).any (· != 0) || (es.take n).any (fun e => bits e 6 2 != 0 || bits e 32 32 != 0) then none
  else some ((es.take n).map fun e => (bits e 0 3, bits e 3 3, bits e 8 24))

/-- COUNT of a level, 1 where the level is not in use. -/
def lvlCount (l : List (Nat × Nat × Nat)) (d : Nat) : Nat := ((l.find? fun x => x.1 == d).map (·.2.2)).getD 1

/-- The least SCOPE whose domain can hold several instances of a level (R278): one core holds streams and stream groups,
one gang its cores, one die gangs, clusters and quarters, and the device its dies. -/
def minScope (d : Nat) : Nat :=
  match d with
  | 6 | 7 => 1
  | 5 => 2
  | 2 | 3 | 4 => 3
  | _ => 4

/-- Most instances of a quarter or cluster level on one die (R2), to which a SCOPE of 3 keeps it (R278). -/
def scopeCap (d : Nat) : Nat :=
  match d with
  | 2 => 2
  | 3 => 10
  | _ => 2^24

/-- Whether a level's SCOPE and COUNT go together (R277, R278); a single instance may have any SCOPE (DEDUCED,
assumption 60), and COUNT is not 0 (DESIGN CHOICE, assumption 75). -/
def scopeOk (x : Nat × Nat × Nat) : Bool :=
  x.2.1 ≤ 5 && x.2.2 != 0 && (x.2.2 == 1 || (minScope x.1 ≤ x.2.1 && (x.2.1 != 3 || x.2.2 ≤ scopeCap x.1)))

/-- Whether level entries meet R277 and R278. -/
def levelsOk (l : List (Nat × Nat × Nat)) : Bool :=
  let ds := l.map (·.1)
  ds.drop (l.length - 4) == [4, 5, 6, 7] && (List.zip ds (ds.drop 1)).all (fun p => p.1 < p.2) && l.all scopeOk
    && lvlCount l 0 == 1 && lvlCount l 1 ≤ 2 && lvlCount l 5 ≤ 8 && lvlCount l 6 * lvlCount l 7 ≤ 8
    && l.all (fun x => x.1 != 4 || 3 ≤ x.2.1) && capsOk 0 l

/-- Gang instances that a node launches (R277). -/
def gangCount (l : List (Nat × Nat × Nat)) : Nat := (l.filter (·.1 ≤ 4)).foldl (fun n x => n * x.2.2) 1

/-- A size rounded up to whole 4,096-byte sections. -/
def sect (n : Nat) : Nat := ceilDiv n 4096 * 4096

/-- Bytes of a save area (R338). -/
def saveSize (t o a f n : Nat) : Nat :=
  16384 + sect (32 * (t + o + a + f)) + sect (512 * t) + sect (22528 * o) + 16384 * a + 8192 * f + 4096 * n
    + sect (2048 * n) + 16384

/-- A launch record (R276 to R278), or its graph-error code. -/
def readLaunch (s : State) (die ctx prio : Nat) (node : Word) (succ : List Word) (cpl : Option Cpl) (a : Word) :
    Except Nat Launch :=
  if !gAligned a 64 then .error 2
  else match vread2 s ctx a.toNat 256 with
    | .error _ => .error 3
    | .ok b =>
      let t := fld b 16 2
      let o := fld b 18 1
      let q := fld b 19 1
      let f := fld b 20 2
      let w := fld b 22 1
      let n := fld b 23 1
      if t % 8 != 0 || t < 8 || 256 < t || 192 < o || 64 < q || 256 < f || 64 < w || n < 4 || 8 < n
          || fld b 28 4 != 0 || fld b 40 24 != 0 || fld b 128 128 != 0 then .error 4
      else match levelsOf b n with
        | none => .error 4
        | some l =>
          if !levelsOk l then .error 4
          else
            let ln := BitVec.ofNat 64 (fld b 32 8)
            let mk (loops : List Loop) : Launch :=
              { lid := s.fresh, die := die, ctx := ctx, prio := prio, node := node, succ := succ
                entry := BitVec.ofNat 64 (fld b 0 8), arg := BitVec.ofNat 64 (fld b 8 8), wint := t, wino := o, wina := q
                winf := f, winb := w, wlim := 1024 * (if fld b 24 4 = 0 then 4096 else fld b 24 4), lvls := l
                nest := ln != 0, lnest := ln, loops := loops, total := gangCount l, cpl := cpl }
            if ln = 0 then .ok (mk []) else (readNest s ctx ln).map mk

/-- Streams of a launch's tasks. -/
def Launch.streams (l : Launch) : Nat := lvlCount l.lvls 6 * lvlCount l.lvls 7
/-- Cores of its gangs. -/
def Launch.gang (l : Launch) : Nat := lvlCount l.lvls 5

/-- Whether a launch has a level. -/
def Launch.has (l : Launch) (d : Nat) : Bool := l.lvls.any (·.1 == d)

/-- The outermost level that spreads instances below the dies: quarters, else clusters, else gangs. -/
def Launch.spread (l : Launch) : Nat := if l.has 2 then 2 else if l.has 3 then 3 else 4

/-- Whether the instances of a launch may stand on both dies (R278): it has no die level, and the level that spreads them
has a SCOPE above 3. -/
def Launch.wide (l : Launch) : Bool := !l.has 1 && l.lvls.any fun x => x.1 == l.spread && 3 < x.2.1

/-- Quarters of the launch's partition on a die. -/
def Launch.room (s : State) (l : Launch) (d : Nat) : Nat := (s.quarters (s.ownerC l.ctx)).countP fun q => q / 2 == d

/-- Instances of the spreading level that a die's quarters hold. -/
def Launch.cap (s : State) (l : Launch) (d : Nat) : Nat :=
  if l.has 2 then l.room s d else if l.has 3 then 5 * l.room s d else if l.room s d = 0 then 0 else lvlCount l.lvls 4

/-- Whether the instances of a launch on one die fit its quarters. -/
def Launch.fits (s : State) (l : Launch) (d : Nat) : Bool := lvlCount l.lvls l.spread ≤ l.cap s d && 0 < l.room s d

/-- The die of instance `i` of a launch, whose dispatcher it is handed to (R278, DESIGN CHOICE, assumption 37): instances are
numbered level by level, the innermost fastest. A die level's first instance stands on the sequencer's die, and its second on the
other one. Without, all stand on the sequencer's die where they fit there, or else on the other one; or, where the level
may spread, quarters and clusters fill the sequencer's die first, and gangs take the partition's dies in turn. -/
def instDie (s : State) (l : Launch) (i : Nat) : Nat :=
  let cg := lvlCount l.lvls 4
  let cc := lvlCount l.lvls 3
  let n := i / (if l.has 2 then cg * cc else if l.has 3 then cg else 1)
  if lvlCount l.lvls 1 = 2 then (if i / (cg * cc * lvlCount l.lvls 2) = 0 then l.die else 1 - l.die)
  else if !l.wide then (if l.fits s l.die then l.die else 1 - l.die)
  else if l.spread = 4 then
    (if l.room s l.die = 0 then 1 - l.die else if l.room s (1 - l.die) = 0 || n % 2 = 0 then l.die else 1 - l.die)
  else if n < l.cap s l.die then l.die else 1 - l.die

/-- The device-wide clusters of a die in which instance `i` of a launch may stand, ascending (R277, R278, R286): instances
of one quarter or cluster of the launch share a quarter or cluster of the device with those placed before, and others
have their own. -/
def instClusters (s : State) (l : Launch) (i die : Nat) : List Nat :=
  let cg := lvlCount l.lvls 4
  let cc := lvlCount l.lvls 3
  ((List.range 10).map (10 * die + ·)).filter fun k =>
    (s.quarters (s.ownerC l.ctx)).contains (k / 5) && l.spots.all fun x =>
      x.1 == i || ((!l.has 2 || (i / (cg * cc) == x.1 / (cg * cc)) == (k / 5 == x.2 / 40))
        && (!l.has 3 || (i / cg == x.1 / cg) == (k == x.2 / 8)))

/-- Whether the context's partition can hold a launch (R284 code 5, R337). -/
def launchFits (s : State) (l : Launch) : Bool :=
  let p := (s.ctxOf l.ctx).pool.toNat
  s.ownerC l.ctx < 7 && (!l.has 2 || lvlCount l.lvls 3 ≤ 5)
    && (if lvlCount l.lvls 1 = 2 then l.fits s 0 && l.fits s 1
      else if l.wide then 0 < l.room s 0 + l.room s 1 && lvlCount l.lvls l.spread ≤ l.cap s 0 + l.cap s 1
      else l.fits s 0 || l.fits s 1)
    && (!bitN p 8 || saveSize l.wint l.wino l.wina l.winf l.streams ≤ bits p 0 8 * 2^20)

/-! ### Nodes (R281 to R284) -/

/-- `w` COND OPERAND (R281). -/
def condHolds (c : Nat) (w x : Word) : Bool :=
  match c with
  | 0 => w == x
  | 1 => w != x
  | 2 => w.slt x
  | 3 => w.sle x
  | 4 => w.ult x
  | _ => w.ule x

/-- A node's completion for the entry that submitted it (R361): the completion word, then the vector. -/
def completeNode (s : State) (node : Word) (c : Option Cpl) : State :=
  match c with
  | none => s
  | some c =>
    let s1 := if c.addr = 0 then s
      else match vwrite s c.ctx false 2 c.addr.toNat 8 c.val.toNat with
        | (_, none, t) => t
        | (_, some _, _) => graphError s c.ctx 3 node
    if c.vec = 0xFFFF then s1 else raiseVec s1 c.f c.vec

/-- Ask for the release of nodes (R283); a 0 means none. -/
def releaseAll (s : State) (die ctx prio : Nat) (l : List Word) : State :=
  s.setCtl { s.ctl with rels := s.ctl.rels ++ (l.filter (· != 0)).map fun n => ⟨die, ctx, n, prio⟩ }

/-- The instances of a launch, handed to the dispatchers of its dies (R283, R285, R287). -/
def handOver (s : State) (l : Launch) : State :=
  let new := (List.range l.total).map fun i =>
    ({ die := instDie s l i, lid := l.lid, prio := l.prio, arr := s.fresh + 1 + i } : Inst)
  { s.setCtl { s.ctl with lnch := s.ctl.lnch ++ [l], pendI := s.ctl.pendI ++ new } with fresh := s.fresh + 1 + l.total }

/-- Write a node's LIVE, whose page needs R alone (R233, R284). -/
def putLive (s : State) (ctx : Nat) (node : Word) (v : Nat) : State :=
  match peek s ctx (node.toNat + 2) with
  | .ok (l, _) => (s.touch ctx (node.toNat + 2) true).put (memKey l) 2 v
  | .error _ => s

/-- NODE_FIRE (R283, R284). LIVE is set before what the node names is tested, and a switch table is tested only where an entry of it
is read (DESIGN CHOICE, assumption 73). -/
def fireNode (s : State) (die ctx prio : Nat) (node : Word) (cpl : Option Cpl) : State :=
  match vread2 s ctx node.toNat 64 with
  | .error _ => graphError s ctx 3 node
  | .ok b =>
    let kind := fld b 0 1
    let cond := fld b 6 1
    if 3 < kind || 5 < cond || fld b 1 1 != 0 || fld b 7 1 != 0 || fld b 28 4 != 0 then graphError s ctx 1 node
    else
      let s1 := putLive (s.see2 ctx node.toNat 64) ctx node (fld b 4 2)
      let rcd := BitVec.ofNat 64 (fld b 8 8)
      let opd := BitVec.ofNat 64 (fld b 16 8)
      let succ := (List.range 4).map fun i => BitVec.ofNat 64 (fld b (32 + 8 * i) 8)
      let one (i : Nat) := succ.getD i 0
      if kind = 0 then
        match readLaunch s1 die ctx prio node succ cpl rcd with
        | .error c => graphError s1 ctx c node
        | .ok l =>
          let s2 := (s1.see2 ctx rcd.toNat 256).see2 ctx l.lnest.toNat (if l.nest then 128 else 0)
          if launchFits s2 l then handOver s2 l else graphError s2 ctx 5 node
      else if !gAligned rcd 8 then graphError s1 ctx 2 node
      else match vread2 s1 ctx rcd.toNat 8 with
        | .error _ => graphError s1 ctx 3 node
        | .ok w =>
          let s2 := s1.see2 ctx rcd.toNat 8
          let done (l : List Word) := completeNode (releaseAll s2 die ctx prio l) node cpl
          let holds := condHolds cond (BitVec.ofNat 64 w) opd
          if kind = 1 then done (if holds then [one 0, one 1] else [one 2, one 3])
          else if kind = 2 then done (if holds then [one 0] else [one 1])
          else if fld b 24 4 ≤ w then done [one 0]
          else if !gAligned opd 8 then graphError s2 ctx 2 node
          else match vread2 s2 ctx (opd.toNat + 8 * w) 8 with
            | .error _ => graphError s2 ctx 3 node
            | .ok e =>
              if e % 64 != 0 then graphError s2 ctx 2 node
              else completeNode (releaseAll (s2.see2 ctx (opd.toNat + 8 * w) 8) die ctx prio [BitVec.ofNat 64 e]) node cpl

/-- NODE_RELEASE (R282): LIVE falls by one; the node fires when it reaches 0, with the priority and completion
of the submission that held it, or, where none does, with the releaser's priority (DESIGN CHOICE, assumption 74). -/
def releaseNode (s : State) (r : Rel) : State :=
  if !gAligned r.node 64 then graphError s r.ctx 2 r.node
  else match vread2 s r.ctx r.node.toNat 64 with
    | .error _ => graphError s r.ctx 3 r.node
    | .ok b =>
      let live := fld b 2 2
      let s0 := s.see2 r.ctx r.node.toNat 64
      if live = 0 then s0
      else
        let s1 := putLive s0 r.ctx r.node (live - 1)
        if live != 1 then s1
        else match s1.ctl.held.find? fun h => h.ctx == r.ctx && h.node == r.node with
          | none => fireNode s1 r.die r.ctx r.prio r.node none
          | some h =>
            fireNode (s1.setCtl { s1.ctl with held := s1.ctl.held.erase h }) h.die h.ctx h.prio h.node h.cpl

/-- Submit a node (R282): it fires at once if its LIVE is 0, and is held otherwise. -/
def submitNode (s : State) (die ctx prio : Nat) (node : Word) (cpl : Option Cpl) : State :=
  if !gAligned node 64 then graphError s ctx 2 node
  else match vread2 s ctx node.toNat 64 with
    | .error _ => graphError s ctx 3 node
    | .ok b =>
      if fld b 2 2 = 0 then fireNode s die ctx prio node cpl
      else (s.see2 ctx node.toNat 64).setCtl { s.ctl with held := s.ctl.held ++ [⟨die, ctx, node, prio, cpl⟩] }

/-- Apply up to `n` of the releases asked for, in order. -/
def applyRels : Nat → State → State
  | 0, s => s
  | n + 1, s =>
    match s.ctl.rels with
    | [] => s
    | r :: rest => applyRels n (releaseNode (s.setCtl { s.ctl with rels := rest }) r)

/-- The releases that one step applies; more are applied by the steps after it. -/
def settleGraph (s : State) : State := applyRels 16 s

end Sys2Proof.Machine
end

