-- ==== Sys2Proof/Machine/Port.lean ====
section
/-!
DEFINITION. The sending side of the Balua ports (R318, R363 to R366): a flit's image, its CRC and tag, the choice of a port, and
its replay buffer.
-/
namespace Sys2Proof.Machine

/-- This device's number (R367). -/
def State.self (s : State) : Nat := bits s.dev.pf0.domain.toNat 0 10

/-- DATA of a flit. -/
def flitBody (fl : Flit) : Nat :=
  fl.addr.toNat + 2^64 * fl.op.toNat + 2^72 * fl.size.toNat + 2^128 * fl.cmp.toNat + 2^192 * fl.data.toNat

/-- The 256 bytes of a flit (R363), with DATA in the clear. -/
def flitImage (fl : Flit) : Nat :=
  fl.dst.toNat + 2^16 * fl.src.toNat + 2^32 * fl.typ.toNat + 2^40 * fl.ten.toNat + 2^48 * fl.lseq.toNat + 2^64 * fl.txid.toNat
    + 2^96 * fl.crc.toNat + 2^128 * flitBody fl + 2^1920 * fl.tag.toNat

/-- CRC-32 of the low `n` bits of a value, lowest bit first, from a remainder on (PRESUMED, assumption 62: the polynomial of
IEEE 802.3). -/
def crcGo : Nat → Nat → Nat → Nat
  | 0, _, c => c
  | n + 1, v, c => crcGo n (v / 2) (c / 2 ^^^ (if (c + v) % 2 = 1 then 0xEDB88320 else 0))

/-- CRC of a flit, with its own field taken as 0 (R363). -/
def flitCrc (fl : Flit) : BitVec 32 :=
  BitVec.ofNat 32 (crcGo 2048 (flitImage { fl with crc := 0 }) (2^32 - 1)) ^^^ BitVec.allOnes 32

/-- A flit's tag under a Balua key; a link acknowledgement has none (R363). -/
def flitTag (fl : Flit) (key : BitVec 256) : BitVec 128 := if fl.typ = 8 then 0 else Config.flitTag key (flitBody fl)

/-- The ports that are up. -/
def healthyPorts (s : State) : List Nat := (List.range 18).filter fun p => (s.portOf p).up

/-- The port of a source to a destination: the healthy one that its hash ranks first, so that the choice stays while that
port is healthy (R366). -/
def pathPort (s : State) (core strm dst : Nat) : Option Nat :=
  leastBy (fun a b => Config.portHash core strm dst a < Config.portHash core strm dst b) (healthyPorts s)

/-- The port that the round-robin of copies and collectives takes next (R366). -/
def spreadPort (s : State) : Option Nat :=
  let l := healthyPorts s
  (l.find? fun p => s.dev.rrPort ≤ p).or l.head?

/-- Whether a port can take a flit at once: its replay buffer has room (R364). -/
def portRoom (s : State) (p : Option Nat) : Bool := p.any fun p => (s.portOf p).sent.length < 256

/-- Complete a flit with its sequence number, its tag under its partition's key, and its CRC (R363). A partition without a key sends
no data, and what it still answers has tag 0 (R318; assumption 62). -/
def sealFlit (s : State) (seq : Nat) (fl : Flit) : Flit :=
  let f1 := { fl with lseq := BitVec.ofNat 16 (seq % 4096), tag := ((s.funOf fl.ten.toNat).balOut.map (flitTag fl)).getD 0 }
  { f1 with crc := flitCrc f1 }

/-- Send what waits at a port, as far as its replay buffer has room (R364): each flit takes the next LSEQ and stays in the buffer, and
a request also stands until it is acknowledged end to end. -/
def State.pump (s : State) : Nat → Port → Port
  | 0, x => x
  | n + 1, x =>
    match x.out with
    | [] => x
    | y :: r =>
      if 256 ≤ x.sent.length then x
      else
        let f := sealFlit s x.seq y.fl
        s.pump n { x with
          out := r, seq := (x.seq + 1) % 4096, sent := x.sent ++ [f], cSent := x.cSent + 1
          unack := if y.req then x.unack ++ [{ y with fl := f }] else x.unack }

/-- Send a flit through a port, at once or when its replay buffer has room (R363, R364). -/
def sendFlit (s : State) (p : Nat) (y : Sent) : State :=
  let x := s.portOf p
  s.setPort p (s.pump 256 { x with out := x.out ++ [y] })

/-- A flit of this device for a partition. -/
def flitTo (s : State) (dst ten typ txid addr : Nat) : Flit :=
  { dst := BitVec.ofNat 16 dst, src := BitVec.ofNat 16 s.self, typ := BitVec.ofNat 8 typ, ten := BitVec.ofNat 8 ten, lseq := 0
    txid := BitVec.ofNat 32 txid, crc := 0, addr := BitVec.ofNat 64 addr, op := 0, size := 0, cmp := 0, data := 0, tag := 0 }

/-- Send a request, under a new transaction identifier (R366). -/
def sendReq (s : State) (p : Nat) (path : Option (Nat × Nat)) (fl : Flit) : State :=
  { sendFlit s p ⟨{ fl with txid := BitVec.ofNat 32 s.fresh }, path, true⟩ with fresh := s.fresh + 1 }

/-- Send a request on the path of a source core and stream (R366). -/
def pathSend (s : State) (core strm : Nat) (fl : Flit) : State :=
  match pathPort s core strm fl.dst.toNat with
  | some p => sendReq s p (some (core, strm)) fl
  | none => s

/-- Send a request of a copy or collective on the next healthy port (R366). -/
def spreadSend (s : State) (fl : Flit) : State :=
  match spreadPort s with
  | some p => sendReq { s with dev := { s.dev with rrPort := (p + 1) % 18 } } p none fl
  | none => s

/-- Flits that `n` bytes of a request take (PRESUMED, assumption 62). -/
def flitCount (n : Nat) : Nat := max 1 (ceilDiv n 200)

/-- A request of up to 200 of `n` bytes of data from byte 200 i on (assumption 62). -/
def dataFlit (fl : Flit) (i n v : Nat) : Flit :=
  let m := min 200 (n - 200 * i)
  { fl with addr := fl.addr + BitVec.ofNat 64 (200 * i), size := BitVec.ofNat 8 m, data := BitVec.ofNat 1600 (bits v (1600 * i) (8 * m)) }

/-- The requests of a copy or collective for `n` bytes of data, each on the next healthy port (R366). -/
def spreadData (s : State) (fl : Flit) (n v : Nat) : State :=
  (List.range (flitCount n)).foldl (fun s i => spreadSend s (dataFlit fl i n v)) s

/-- The request of an access to a peer: by TYPE, operation code, compared value and data (R363; the codes are those of R62, and 10 for
CAS: assumption 62). -/
def accFlit (s : State) (ctx d off : Nat) (a : Acc) : Option Flit :=
  let fl (typ op : Nat) : Flit := { flitTo s d (s.ownerC ctx) typ 0 off with
    op := BitVec.ofNat 8 op, size := BitVec.ofNat 8 a.size, cmp := a.cmp, data := a.val.setWidth 1600 }
  match a.kind with
  | .ld _ => some { fl 2 0 with data := 0 }
  | .st => some (fl 1 0)
  | .amo op => some (fl 4 (([.add, .and, .or, .xor, .min, .max, .minn, .maxn, .xchg, .fadd] : List AmoOp).idxOf op))
  | .cas => some (fl 4 10)
  | _ => none

/-- Whether a location is a peer's. -/
def toPeer (l : Loc) : Bool :=
  match l.home with
  | .peer _ => true
  | _ => false

/-- An engine's access to `n` bytes of a location goes there: to a peer in flits on every healthy port, a read or the write of `wr`
(R366), and past the hot words of device memory (R368). -/
def State.reach (s : State) (ctx : Nat) (l : Loc) (n : Nat) (wr : Option Nat) : State :=
  match l.home with
  | .peer d => spreadData s (flitTo s d (s.ownerC ctx) (if wr.isSome then 1 else 2) 0 l.addr) n (wr.getD 0)
  | _ => s.forward (memKey l) n wr.isSome.toNat

/-- What a triggered command's access to a context's memory sends to peers (R366, R372), leaf by leaf. -/
def cmdFlits (s : State) (ctx : Nat) : Nat → Nat → Nat → Option Nat → State
  | 0, _, _, _ => s
  | fuel + 1, va, n, wr =>
    if n = 0 then s
    else match peek s ctx va with
      | .error _ => s
      | .ok (l, _) =>
        let r := runLen va n
        cmdFlits (if toPeer l then s.reach ctx l r wr else s) ctx fuel (va + r) (n - r) (wr.map (· / 2^(8 * r)))

end Sys2Proof.Machine
end

