-- ==== Sys2Proof/Machine/Access.lean ====
section
/-!
DEFINITION. A stream's loads, stores and atomics at their homes (R113 to R124, R252 to R256): what one reads and
writes, when a queued one may be performed, and its performance.
-/
namespace Sys2Proof.Machine

/-- Bytes of an access size (R62). -/
def szBytes : Sz → Nat
  | .s8 | .n8 => 1
  | .s16 | .n16 => 2
  | .s32 | .n32 => 4
  | .b64 => 8

/-- A loaded value in its g register (R113). -/
def loadExt (sg : Bool) (n v : Nat) : Word := if sg then sExt v (8 * n) else BitVec.ofNat 64 (v % 2^(8 * n))

/-- A number that orders the bytes of memory and of frames, for overlap. -/
def Place.key : Place → Nat
  | .mem l => memKey l
  | .frm c f o => 2^96 + okey c .f f * 4096 + o

/-- Read `n` bytes at a place: memory, or the front of a frame. -/
def placeRead (s : State) (p : Place) (n : Nat) : Nat :=
  match p with
  | .mem l => readN s.mem (memKey l) n
  | .frm c f o => bytesAt (mget 0 s.obj.frmF (okey c .f f)) o n

/-- Write `n` bytes at a place. -/
def placeWrite (s : State) (p : Place) (n v : Nat) : State :=
  match p with
  | .mem l => s.store (memKey l) n v
  | .frm c f o =>
    let k := okey c .f f
    s.setObj { s.obj with frmF := mput 0 s.obj.frmF k (putBytes (mget 0 s.obj.frmF k) o n v) }

/-- The new contents of a location of `w` bits under an atomic (R121). -/
def amoStep (op : AmoOp) (w old b : Nat) : Nat :=
  match op with
  | .add => (old + b) % 2^w
  | .and => old &&& b
  | .or => old ||| b
  | .xor => old ^^^ b
  | .min => if sgn b w < sgn old w then b else old
  | .max => if sgn old w < sgn b w then b else old
  | .minn => min old b
  | .maxn => max old b
  | .xchg => b
  | .fadd => (fadd f32F {} (fdec f32F false old) (fdec f32F false b)).1

def Acc.isLd (a : Acc) : Bool :=
  match a.kind with
  | .ld _ => true
  | _ => false
def Acc.isAtom (a : Acc) : Bool :=
  match a.kind with
  | .amo _ | .cas => true
  | _ => false
def Acc.isMark (a : Acc) : Bool := a.kind == .mark
/-- The peer whose memory an access is to. -/
def Acc.toPeer (a : Acc) : Option Nat :=
  match a.place with
  | .mem ⟨.peer d, _⟩ => some d
  | _ => none
/-- What counts as a load of R12. -/
def Acc.loads (a : Acc) : Bool := a.isLd || a.isAtom
/-- What counts as a store of R12. -/
def Acc.stores (a : Acc) : Bool := !a.loads && !a.isMark
/-- What writes memory or a frame. -/
def Acc.writes (a : Acc) : Bool := a.isAtom || a.kind == .st

/-- Whether two accesses share a byte. -/
def Acc.meets (a b : Acc) : Bool := a.place.key < b.place.key + b.size && b.place.key < a.place.key + a.size
/-- Whether `b` covers every byte of `a`. -/
def Acc.within (a b : Acc) : Bool := b.place.key ≤ a.place.key && a.place.key + a.size ≤ b.place.key + b.size

/-- The youngest of a list of queued entries, oldest first, that is a store meeting a load (R116). -/
def forwarder (before : List Acc) (a : Acc) : Option Acc := (before.filter fun b => b.kind == .st && b.meets a).getLast?

/-- Drop the LSMARK markers that no store stands ahead of (R118). -/
def trimMarks : Bool → List Acc → List Acc
  | _, [] => []
  | seen, a :: r =>
    if a.isMark && !seen then trimMarks seen r else a :: trimMarks (seen || a.stores || a.isAtom) r

/-- Whether the `k`-th queued access of a stream may be performed now (R116, R118, R122, R256): a load passes
stores to other addresses, one of which it needs only a part waits for it, and a marker holds it while a store
stands ahead; everything else is performed in program order, a store only after every earlier load has returned. -/
def mayPerform (s : State) (sk k : Nat) : Bool :=
  let st := s.strmOf sk
  match st.mq[k]? with
  | none => false
  | some a =>
    let before := st.mq.take k
    if a.isMark || (a.toPeer.isSome && (healthyPorts s).isEmpty) then false
    else if a.isLd then
      before.all (fun b => !b.loads && !b.isMark) &&
        (match forwarder before a with
          | some b => a.within b
          | none => true)
    else before.all (·.isMark) && !(st.arr.any (·.load))
      && !(a.writes && (match a.place with
        | .mem l => s.ckHold (memKey l)
        | _ => false))

/-- Whether a place is in the frames of a core. -/
def Place.onCore (p : Place) (c : Nat) : Bool :=
  match p with
  | .frm x _ _ => x == c
  | .mem _ => false

/-- A value returns to a g register of a stream of core `c`. -/
def returnVal (st : Stream) (c : Nat) (a : Acc) (now : Nat) (v : Word) : Stream :=
  { st with arr := st.arr ++ [{ reg := a.reg, due := max now a.due, val := v, load := true, own := a.place.onCore c }] }

/-- An access of stream `sk` goes to its home: to a peer in a flit on the stream's path (R363, R366), to device memory by way of the
port that may hold its word (R368). -/
def sendAcc (s : State) (sk : Nat) (a : Acc) : State :=
  match a.place with
  | .mem ⟨.peer d, off⟩ => match accFlit s (s.taskAt sk).ctx d off a with
    | some fl => pathSend s (sk / 8) (sk % 8) fl
    | none => s
  | .mem l =>
    let s1 := if a.loads then s.forward (memKey l) a.size 0 else s
    if a.writes then s1.forward (memKey l) a.size 1 else s1
  | .frm _ _ _ => s

/-- Perform the `k`-th queued access of a stream at its home: ACCESS_PERFORMED with AMO_STEP and CAS_STEP (R252,
R121), a SPAWN's submission or a SIGNAL's release (R233). -/
def performAt (s0 : State) (sk k : Nat) : State :=
  let st := s0.strmOf sk
  match st.mq[k]? with
  | none => s0
  | some a =>
    let s := sendAcc s0 sk a
    let st1 := { st with mq := trimMarks false (st.mq.eraseIdx k), cntS := if a.stores then st.cntS - 1 else st.cntS }
    let t := s.taskAt sk
    let w := 8 * a.size
    let old := placeRead s a.place a.size
    match a.kind with
    | .ld sg =>
      let v := match forwarder (st.mq.take k) a with
        | some b => bits b.val.toNat (8 * (a.place.key - b.place.key)) w
        | none => old
      s.setStrm sk (returnVal st1 (sk / 8) a s.now (loadExt sg a.size v))
    | .st => (placeWrite s a.place a.size a.val.toNat).setStrm sk st1
    | .amo op =>
      (placeWrite s a.place a.size (amoStep op w old (a.val.toNat % 2^w))).setStrm sk
        (returnVal st1 (sk / 8) a s.now (BitVec.ofNat 64 old))
    | .cas =>
      (if old = a.cmp.toNat % 2^w then placeWrite s a.place a.size a.val.toNat else s).setStrm sk
        (returnVal st1 (sk / 8) a s.now (BitVec.ofNat 64 old))
    | .mark => s
    | .spawn => settleGraph (submitNode (s.setStrm sk st1) (dieOf (sk / 8)) t.ctx t.prio a.va none)
    | .signal => settleGraph (releaseNode (s.setStrm sk st1) ⟨dieOf (sk / 8), t.ctx, a.va, t.prio⟩)

/-- Perform everything a stream has queued, in order: what is issued is still performed when its task ends
(R327). -/
def finishQueue (s : State) (sk : Nat) : State := (s.strmOf sk).mq.foldl (fun s _ => performAt s sk 0) s

end Sys2Proof.Machine
end

