-- ==== Sys2Proof/Machine/Writes.lean ====
section
/-!
DEFINITION. Counted writes and publishes: the stores of counted objects, the effect of a write on counts and poison (R28, R29,
R36, R334), fills and their publish (R181, R185, R212), and the commit and the end of an operation (R12, R24, R37).
-/
namespace Sys2Proof.Machine

/-- The record of an issued copy. -/
def Op.rcd (o : Op) : Nat := o.img.getD 0 0
/-- Coordinate `d` of an issued copy, read as a signed value (R207). -/
def Op.coord (o : Op) (d : Nat) : Int := (o.gv.getD (d + 1) 0).toInt

/-- Whether a type packs two elements to the byte. -/
def Ty.nib (t : Ty) : Bool := Ty.w t == 4
/-- Bytes of `n` elements. -/
def tyBytes (t : Ty) (n : Nat) : Nat := n * Ty.w t / 8

/-- Runs of BOX[0] elements in a box. -/
def recRuns (r : Nat) : Nat := ((List.range (recRank r)).drop 1).foldl (fun n d => n * recBox r d) 1
/-- Elements of a box. -/
def recEls (r : Nat) : Nat := recBox r 0 * recRuns r
/-- Bytes of a run. -/
def recRunBytes (r : Nat) : Nat := tyBytes (recTy r) (recBox r 0)

/-! ### Stores of objects -/

/-- Read a store of an object's key: its front, or its only copy. -/
def objVal (s : State) (k : Nat) : Nat :=
  match k / 256 % 4 with
  | 0 => (mget 0 s.obj.tregs k).toNat
  | 1 => (mget 0 s.obj.slotF k).toNat
  | 2 => (mget 0 s.obj.banks k).toNat
  | _ => (mget 0 s.obj.frmF k).toNat

/-- Write bytes of an object: of its front, or of its only copy. -/
def objPut (s : State) (k : Nat) (l : List (Nat × Nat × Nat)) : State :=
  let o := s.obj
  let upd {w : Nat} (m : Sparse (BitVec w)) : Sparse (BitVec w) :=
    mput 0 m k (l.foldl (fun v x => putBytes v x.1 x.2.1 x.2.2) (mget 0 m k))
  s.setObj (match k / 256 % 4 with
    | 0 => { o with tregs := upd o.tregs }
    | 1 => { o with slotF := upd o.slotF }
    | 2 => { o with banks := upd o.banks }
    | _ => { o with frmF := upd o.frmF })

/-- Change a slot's or frame's shadow. -/
def shadowUpd (s : State) (k : Nat) (f : Nat → Nat) : State :=
  let o := s.obj
  let upd {w : Nat} (m : Sparse (BitVec w)) : Sparse (BitVec w) := mput 0 m k (BitVec.ofNat w (f (mget 0 m k).toNat))
  s.setObj (if k / 256 % 4 = 1 then { o with slotS := upd o.slotS } else { o with frmS := upd o.frmS })
/-- Write bit fields, from bit, bits and value, of a slot's or frame's shadow. -/
def shadowBits (s : State) (k : Nat) (l : List (Nat × Nat × Nat)) : State :=
  shadowUpd s k fun v => l.foldl (fun v x => setBits v x.1 x.2.1 x.2.2) v
/-- Write bytes of a slot's or frame's shadow. -/
def shadowPut (s : State) (k : Nat) (l : List (Nat × Nat × Nat)) : State :=
  shadowBits s k (l.map fun x => (8 * x.1, 8 * x.2.1, x.2.2))

/-- Write bytes of a slot's side-array shadow (R188). -/
def sidePut (s : State) (k : Nat) (l : List (Nat × Nat × Nat)) : State :=
  s.setObj { s.obj with sideS := mput 0 s.obj.sideS k (l.foldl (fun v x => putBytes v x.1 x.2.1 x.2.2) (mget 0 s.obj.sideS k)) }

/-- The space of the object that holds words of a store in the poison list, 4 of none: a side array is its slot's, and a shadow's
words stand under 8 more than the code of its front's (R334). -/
def poisonSpc (code : Nat) : Nat := match code % 8 with
  | 4 => 1
  | 5 => 4
  | c => c

/-- The poisoned words of an object, each under the store codes that `f` gives its own. -/
def rePoison (s : State) (k : Nat) (f : Nat → List Nat) : State :=
  s.setObj { s.obj with poison := s.obj.poison.flatMap fun p =>
    if p.1 == k / 1024 && p.2.2.1 == k % 256 && poisonSpc p.2.1 == k / 256 % 4 then (f p.2.1).map fun c => (p.1, c, p.2.2) else [p] }

/-- A shadow takes the contents of the front (R212, R185), side array included, and its poison (R334). -/
def shadowOpen (s : State) (k : Nat) : State :=
  let o := s.obj
  rePoison (s.setObj (if k / 256 % 4 = 1 then
      { o with slotS := mput 0 o.slotS k (mget 0 o.slotF k), sideS := mput 0 o.sideS k (mget 0 o.sideF k) }
    else { o with frmS := mput 0 o.frmS k (mget 0 o.frmF k) })) k fun c => if c < 8 then [c, c + 8] else []

/-- Publish: swap front and shadow, side arrays included (R212), each with its poison (R334). -/
def swapShadow (s : State) (k : Nat) : State :=
  let o := s.obj
  rePoison (s.setObj (if k / 256 % 4 = 1 then
      { o with slotF := mput 0 o.slotF k (mget 0 o.slotS k), slotS := mput 0 o.slotS k (mget 0 o.slotF k)
               sideF := mput 0 o.sideF k (mget 0 o.sideS k), sideS := mput 0 o.sideS k (mget 0 o.sideF k) }
    else { o with frmF := mput 0 o.frmF k (mget 0 o.frmS k), frmS := mput 0 o.frmS k (mget 0 o.frmF k) })) k
    fun c => [if c < 8 then c + 8 else c - 8]

/-- A whole-object write clears the poison of an object's data (R334). -/
def unpoison (s : State) (k : Nat) : State := rePoison s k fun c => if c = k / 256 % 4 then [] else [c]

/-- A whole-object publish clears the poison of the object's front with its side array (R212, R334; DEDUCED, assumption 34). -/
def unpoisonFront (s : State) (k : Nat) : State := rePoison s k fun c => if c < 8 then [] else [c]

/-- A TVIEW of an object in this cycle shows its counts after this cycle's write (R135). -/
def Stream.review (st : Stream) (k now : Nat) (c : Cnt) : Stream :=
  { st with arr := st.arr.map fun a => if a.view = some (k, now) then { a with val := viewImage c st.tnum } else a }

/-- The counts of a `CountedWrite` by a task stream (R28), made by a unit. -/
def bump (s : State) (k tnum : Nat) (n : BitVec 4) (unit : Nat) : State :=
  let c := countedWrite (s.cntOf k) tnum n s.now unit
  { s.setCnt k c with strm := s.strm.map fun (e : Nat × Stream) => (e.1, e.2.review k s.now c) }

/-- The first cycle from `t` on in which objects may take another write: one write commits to an object in a cycle (R29). -/
def State.writeAt (s : State) (t : Nat) (ks : List Nat) : Nat :=
  if ks.any fun k => (s.cntOf k).wu != 0 && (s.cntOf k).wc == t then t + 1 else t

/-- Retire one read of an object by a unit (R26). -/
def retireRead (s : State) (unit k : Nat) : State := s.setCnt k (readRetire (s.cntOf k) s.now unit)

/-- Retire the tracked reads of an operation (R26). -/
def retireReads (s : State) (o : Op) : State :=
  (o.rds.foldl (fun s k => retireRead s (engUnit o.eng) k) s).setOp { o with rds := [] }

/-- Whether a write is of the whole object. -/
def wholeWrite (k : Nat) (l : List (Nat × Nat × Nat)) : Bool :=
  let n := match k / 256 % 4 with
    | 0 => 512
    | 1 => 8192
    | 2 => 16384
    | _ => 4096
  l.any fun x => x.1 == 0 && x.2.1 == n

/-- Write the results of an operation to its destinations and bump each (R28, R36); data only under a true
guard (R30). -/
def writeDsts (s : State) (o : Op) : State :=
  ((List.zip (s.opDsts o) (o.res ++ List.replicate (s.opDsts o).length [])).foldl (fun s x =>
    let k := x.1.1
    let s1 := if o.guard then (let s0 := objPut s k x.2; if wholeWrite k x.2 then unpoison s0 k else s0) else s
    bump s1 k o.tnum x.1.2 (engUnit o.eng)) s)

/-- An operation completes for its stream's counters, with the flags it raised and the rounding states it
leaves (R12, R23, R161). -/
def completeOp (s : State) (o : Op) : State :=
  let k := 8 * o.core + o.strm
  let st := s.strmOf k
  let st1 := (if o.guard then st.orFlags o.flags else st)
  let st2 := if o.uncnt then st1 else st1.countDown o.eng
  sampleEnd (s.setStrm k st2) o false

/-- A VLANE or ACALLOC's g register (R154, R198) comes in. -/
def deliverG (s : State) (k reg : Nat) (v : Word) : State :=
  let st := s.strmOf k
  s.setStrm k { st with g := if reg = 0 then st.g else mput 0 st.g reg v, pend := st.pend &&& ~~~((1 : BitVec 32) <<< reg) }

/-- Commit a vector-engine operation that has started: its writes, bumps, flags and g result in one cycle
(R29, R36). -/
def commitVec (s : State) (o : Op) : State :=
  let s1 := completeOp (writeDsts (retireReads s o) o) o
  let s2 := match o.i with
    | .vlane _ _ _ _ _ _ => if o.guard then deliverG s1 (8 * o.core + o.strm) o.reg (BitVec.ofNat 64 (o.img.getD 0 0)) else s1
    | _ => s1
  (s2.dropOp o.uid).wake

/-- Whether every destination of an operation is ready to be written now. -/
def dstsReady (s : State) (o : Op) : Bool := (s.opDsts o).all fun x => writeReady (s.cntOf x.1)

/-! ### Fills and publishes (R181, R185, R212) -/

/-- The task key of an operation. -/
def Op.tk (o : Op) : Nat := 4 * o.core + o.slot
/-- The stream key of an operation. -/
def Op.sk (o : Op) : Nat := 8 * o.core + o.strm

/-- Objects an operation names without counting them: an allocated bank, or a fill's destination. -/
def Op.alsoNames (o : Op) : List (Spc × Nat) :=
  match o.i with
  | .acfree _ _ | .acband _ _ _ _ | .cppub _ _ _ => (tileOf o.i).chk
  | _ => []

/-- Whether the objects of a space that an operation names are on its core: that part of its task is not scanned out (R267,
R299). -/
def State.onPart (s : State) (o : Op) (k : Nat) : Bool := !bitN (s.taskOf o.tk).out.toNat (2 + k / 256 % 4)

/-- Whether an operation is a copy that shares a shadow's fill. -/
def Op.fills (o : Op) : Bool :=
  match o.i with
  | .cp _ _ _ _ _ _ _ | .cpg _ _ _ _ => true
  | _ => false

/-- Whether an operation's end closes its fill: a copy with PART = 0, or a CPPUB. -/
def Op.closes (o : Op) : Bool :=
  match o.i with
  | .cp _ _ _ _ _ _ part => !part
  | .cpg _ _ _ _ | .cppub _ _ _ => true
  | _ => false

/-- Whether an operation is a VSTO. -/
def Op.isVsto (o : Op) : Bool :=
  match o.i with
  | .vsto _ _ _ _ => true
  | _ => false

/-- Whether an operation belongs to a fill of an object. -/
def State.inFill (s : State) (p : Op) (k gen : Nat) : Bool :=
  p.eng == .cpy && p.fill == gen && s.onPart p k
    && ((p.fills && (s.opDsts p).any (·.1 == k)) || p.alsoNames.any fun x => s.opKey p x.1 x.2 == k)

/-- Whether a matrix operation that has started reads a slot (R37). -/
def matReads (s : State) (k : Nat) : Bool :=
  s.ops.any fun p => p.eng == .mat && p.ph != .queued && s.onPart p k && (s.opSrcs p).any (·.1 == k)

/-- The operations that wait for a publish of an object: a VSTO whose row stands in the shadow, or those of a closed fill. -/
def publishers (s : State) (k : Nat) : List Op :=
  match s.ops.find? fun p => p.ph == .tail && p.isVsto && s.onPart p k && (s.opDsts p).any (·.1 == k) with
  | some v => [v]
  | none =>
    let f := s.fillOf k
    let l := s.ops.filter fun p => s.inFill p k f.gen && (p.fills || p.ph == .tail)
    if f.opn && f.closed && l.all fun p => p.ph == .tail then l else []

/-- The operation as whose write a publish stands: the VSTO, the fill's copy issued last, or its CPPUB (R212). -/
def pubOp (l : List Op) : Option Op := ((l.filter fun p => p.fills || p.isVsto).getLast?).or l.getLast?

/-- An operation is over: it completes for its stream and leaves. -/
def finishOp (s : State) (o : Op) : State := (completeOp s o).dropOp o.uid

/-- Whether a VSTO to a slot keeps a fill from opening for a copy that a stream issues at `u` in program order: one that has started,
or an earlier one of the same stream, for which the copy waits by R25 (R181, R212; DEDUCED, assumption 65: with the fill open neither
could ever start). -/
def vstoAhead (s : State) (k sk u : Nat) : Bool :=
  s.ops.any fun p => p.isVsto && s.onPart p k && (s.opDsts p).any (·.1 == k) && (p.ph != .queued || (p.sk == sk && p.uid < u))

/-- The fill that an operation issued now belongs to: the one that stands, or, after its closing event, the next (R212). -/
def joinGen (s : State) (k : Nat) : Nat :=
  let f := s.fillOf k
  if f.opn && f.closed then f.gen + 1 else f.gen

/-- FILL_OPEN (R212). -/
def openFill (s : State) (k : Nat) : State := (shadowOpen s k).setFill k { s.fillOf k with opn := true, closed := false }

/-- Open the fill that copies already issued wait for, after a publish, or once a VSTO before it is gone (R181, R212, R332). -/
def reopen (s : State) (k : Nat) : State :=
  if !(s.fillOf k).opn && s.ops.any fun p => p.fills && s.inFill p k (s.fillOf k).gen && !vstoAhead s k p.sk p.uid then openFill s k
  else s

/-- Bytes that the copies of a fill have written. -/
def fillBytes (l : List Op) : Nat :=
  l.foldl (fun n o => if o.fills && o.guard then n + tyBytes (recTy o.rcd) (recEls o.rcd) else n) 0

/-- Publish an object (R28, R37, R185, R212): one counted write, with the count of the copy issued last. -/
def publish (s : State) (k : Nat) (l : List Op) : State :=
  let data := l.any fun p => p.guard && (p.fills || p.eng == .vec)
  let last := (l.filter fun p => p.fills || p.eng == .vec).getLast?
  let s1 := if data then swapShadow s k else s
  let s2 := if (if k / 256 % 4 = 1 then 8192 else 4096) ≤ fillBytes l then unpoisonFront s1 k else s1
  let s3 := match last with
    | some o => bump s2 k o.tnum ((o.dsts.head?.map (·.2.2)).getD 0) (engUnit o.eng)
    | none => s2
  let s4 := l.foldl finishOp s3
  let f := s4.fillOf k
  reopen (if l.any (·.eng == .cpy) then s4.setFill k { gen := f.gen + 1 } else s4) k

end Sys2Proof.Machine
end

