-- ==== Sys2Proof/Machine/Ops.lean ====
section
/-!
DEFINITION. The shared operations: the end of a task (R232, R333), the
fault frame and taking a fault (R326 to R333), returning from one (R132, R332), the issue of an instruction by
the current stream (R47 to R50, R87 to R90, R331, R380), the issue of an engine operation (R20, R142), and the
readiness, start and commit of operations (R21 to R37).
-/
namespace Sys2Proof.Machine

/-! ### Tasks -/

/-- The task keys of a gang instance. -/
def State.gangKeys (s : State) (token : Nat) : List Nat :=
  (s.task.filter fun e => e.2.token == token && e.2.stat != .empty).map (·.1)

/-- The stream keys of a task: none while its streams are off its core (R295). -/
def streamKeys (t : Task) (tk : Nat) : List Nat := if bitN t.out.toNat 0 then [] else t.phys.map fun n => 8 * (tk / 4) + n

/-- Apply a function to each stream of a task. -/
def onStreams (s : State) (tk : Nat) (f : Stream → Stream) : State :=
  (streamKeys (s.taskOf tk) tk).foldl (fun s k => s.setStrm k (f (s.strmOf k))) s

/-- The operations of a task on its core. -/
def State.taskOps (s : State) (tk : Nat) : List Op := s.ops.filter fun o => o.core == tk / 4 && o.slot == tk % 4

/-- Take a task off its core, once the accesses it has issued are performed: its operations, its streams and its slot (R232, R333). -/
def clearSlot (s : State) (tk : Nat) : State :=
  let s0 := (streamKeys (s.taskOf tk) tk).foldl finishQueue s
  let s1 := onStreams s0 tk fun st => { st with run := .absent, land := [], arr := [], mq := [], wait := none, barW := none }
  let s2 := s1.setOps (s1.ops.filter fun o => !(o.core == tk / 4 && o.slot == tk % 4))
  let c := s2.coreOf (tk / 4)
  let s3 := s2.setCore (tk / 4) { c with recs := c.recs.filter fun r => r.slot != tk % 4 }
  let o := s3.obj
  let b := okey (tk / 4) .a (64 * (tk % 4))
  let t := s3.taskOf tk
  let inWin (k : Nat) := [Spc.o, Spc.f].any fun p => !bitN t.out.toNat (2 + p.code.toNat) &&
    okey (tk / 4) p (winOf t.win p).1 ≤ k && k < okey (tk / 4) p ((winOf t.win p).1 + (winOf t.win p).2)
  (s3.setObj { o with banks := mdrop o.banks fun k => b ≤ k && k < b + 64
                      fills := mdrop o.fills inWin }).setTask tk {}

/-- An instance of a launch has ended, by DONE or not (R283). -/
def instanceEnded (s : State) (lid : Nat) (term : Bool) : State :=
  s.setCtl { s.ctl with lnch := s.ctl.lnch.map fun l =>
    if l.lid = lid then { l with ended := l.ended + 1, term := l.term || term } else l }

/-- A part of a gang instance, on its core or off it: its core, slot and task. -/
def gangPart (s : State) (token : Nat) : Option (Nat × Nat × Task) :=
  match s.gangKeys token with
  | k :: _ => some (k / 4, k % 4, s.taskOf k)
  | [] => (s.ctl.saves.find? fun x => x.task.token == token).map fun x => (x.core, x.slot, x.task)

/-- Let the memory work of a task's streams finish, their results written (R340). -/
def quiesce (s : State) (tk : Nat) : State :=
  (streamKeys (s.taskOf tk) tk).foldl (fun s k =>
    let s1 := finishQueue s k
    let st := s1.strmOf k
    let s2 := s1.setStrm k { landAll { st with land := [] } (sortBy (fun a b => a.due < b.due) st.land) with arr := [] }
    st.arr.foldl (fun s a =>
      let s3 := deliverG s k a.reg a.val
      if a.load then s3.setStrm k { s3.strmOf k with cntL := (s3.strmOf k).cntL - 1 } else s3) s2) s

/-- Take an ended part off its core: its slot is cleared, or, while a dump of its context is to be written on a fault,
stays with its frame (R333, R353). -/
def endPart (f : FaultRec) (s : State) (k : Nat) : State :=
  let t := s.taskOf k
  if bitN (s.ctxOf t.ctx).dumpctl.toNat 1 then
    onStreams ((quiesce s k).setTask k
      { t with stat := .ended, fault := none, kept := some f, yreq := none, gate0 := if t.stat = .run then s.now else t.gate0 }) k
      fun st => { st with wait := none, barW := none }
  else clearSlot s k

/-- End a whole gang instance without DONE (R322, R333, R341), with a fault-queue entry of a kind. -/
def endGang (s : State) (token : Nat) (f : FaultRec) (kind : Nat) (report : Bool) : State :=
  match gangPart s token with
  | none => s
  | some (c, sl, t) =>
    let s1 := if report then
        fqAdd s { kind := kind, ctx := t.ctx, token := token, finfo := f.finfo, faddr := f.faddr, cyc := f.fcyc, core := c
                  slot := sl }
      else s
    let s3 := (s.gangKeys token).foldl (endPart f) (instanceEnded s1 t.lid true)
    s3.setCtl { s3.ctl with pendI := s3.ctl.pendI.filter fun i => i.token != some token
                            saves := s3.ctl.saves.filter fun x => x.task.token != token
                            grps := mdrop s3.ctl.grps fun k => k / 8 == token }

/-! ### The fault frame (R329, R330) -/

/-- The queue of an engine record: the operations that hold entries by R20. -/
def recOps (s : State) (tk e tnum : Nat) : List Op :=
  (s.taskOps tk).filter fun o => o.tnum == tnum && (match o.eng with
    | .vec => e == 0 && o.ph == .queued
    | .mat => e == 1
    | .cpy => e == 2 && o.ph == .queued
    | .near => e == 3 && o.ph == .queued)

/-- A record's 16 bytes, of engines that stopped in a cycle (R330). -/
def erec (c : Nat) (q : List Op) : Nat :=
  match q with
  | [] => 0
  | o :: r =>
    o.pc.toNat + 2^64 * q.length
      + 2^72 * ((o.eng == .mat && o.ph != .queued).toNat
        + 4 * (match r with
          | o2 :: _ => (o2.eng == .mat && o2.ph != .queued).toNat
          | [] => 0))
      + 2^96 * (if o.ph = .queued then 0 else o.stepAt c)

/-- A record's entries (R330). -/
def eent (q : List Op) : Nat :=
  match q with
  | [] => 0
  | o :: _ => pack 32 (q.map fun x => (x.pc - o.pc).toNat)

/-- SSTATE's byte (R329). -/
def sstate (st : Stream) (faulted : Bool) : Nat :=
  match st.run with
  | .absent => 0
  | .done => 3
  | .yielded => 4
  | .run => if faulted then 2 else 1

/-- Place values at byte offsets of an image. -/
def image (l : List (Nat × Nat × Nat)) : Nat := l.foldl (fun v x => setBits v (8 * x.1) (8 * x.2.1) x.2.2) 0

/-- The fault in the frame that the device keeps of a task (R329): one still to be delivered or given to the host, the one handled, or
the one that ended it. -/
def Task.report (t : Task) : Option FaultRec :=
  match if t.stat = .gated then t.was else t.stat with
  | .stopping | .stopped | .hostStop => t.fault
  | .handler | .ended => t.kept
  | _ => none

/-- The frame page (R329); with `f` = none, the stop report of R348. -/
def frameImage (s : State) (tk : Nat) (f : Option FaultRec) : Nat :=
  let t := s.taskOf tk
  let fr := f.getD {}
  let per := (streamKeys t tk).flatMap fun k =>
    let st := s.strmOf k
    [(32 + st.tnum, 1, sstate st (f.isSome && st.tnum == fr.strm)), (64 + 8 * st.tnum, 8, st.pc.toNat),
      (2688 + 4 * st.tnum, 4, match safePoint s t.ctx st.pc.toNat with
        | some x => x.1
        | none => 0xFFFFFFFF)]
      ++ (List.range 4).flatMap fun e =>
        let q := recOps s tk e st.tnum
        [(128 + 16 * (8 * e + st.tnum), 16, erec t.gate0 q), (640 + 64 * (8 * e + st.tnum), 64, eent q)]
  image ([(0, 8, fr.finfo.toNat), (8, 8, fr.faddr.toNat), (16, 8, fr.fcyc % 2^64), (24, 4, fr.fstep)] ++ per)

/-! ### What the vector engine has started (R24) -/

/-- Run the next of some started vector operations, in the order of their starts: it commits, a VSTO by its publish. One that finds
a destination not ready, or whose publish R37 defers, cannot commit while the streams and steps that it waits for stand still: it
stays, and holds those after it (DEDUCED, assumption 22). -/
def runStarted (x : State × Bool) (o : Op) : State × Bool :=
  let o1 := { o with rds := [] }
  if !x.2 || !dstsReady x.1 o then (x.1, false)
  else match o.i, (x.1.opDsts o).head? with
    | .vsto _ _ _ _, some d => if matReads x.1 d.1 then (x.1, false) else (publish x.1 d.1 [o1], true)
    | _, _ => (commitVec x.1 o1, true)

/-- The started vector operations of a task run to commit, in the order of their starts, before its engine stops (R24, R327):
their reads have retired. -/
def commitStarted (s : State) (tk : Nat) : State :=
  let l := sortBy (fun (a b : Op) => a.at0 < b.at0) ((s.taskOps tk).filter fun o => o.eng == .vec && o.ph != .queued)
  (l.foldl runStarted (l.foldl retireReads s, true)).1

/-! ### Taking a fault (R326 to R333) -/

/-- FINFO.ENG of a fault record (R99). -/
def FaultRec.eng (f : FaultRec) : Nat := bits f.finfo.toNat 11 3

/-- Whether a fault is reported before another: it is detected earlier, or in the same cycle at a lower ENG code, or there from
a lower stream (R328). -/
def FaultRec.before (f g : FaultRec) : Bool :=
  f.fcyc < g.fcyc || (f.fcyc == g.fcyc && (f.eng < g.eng || (f.eng == g.eng && f.strm < g.strm)))

/-- Record a fault of a task: the first one stands until its work has stopped (R328). -/
def reportFault (s : State) (tk : Nat) (f : FaultRec) : State :=
  let t := s.taskOf tk
  let first := match t.fault with
    | none => true
    | some g => f.before g
  if !first || (t.stat != .run && t.stat != .stopping) then s
  else traceEvent (s.setTask tk { t with fault := some f, stat := .stopping }) t.ctx 1 (tk / 4) f.strm none f.fcyc

/-- FAULT_STOP (R327): every stream stands at its next issue boundary, every engine at a stop point; what the
vector engine has started commits, and nobody waits on. -/
def faultStop (s : State) (tk : Nat) : State :=
  let s1 := commitStarted s tk
  let s2 := s1.setOps (s1.ops.map fun o => if o.core = tk / 4 && o.slot = tk % 4 then { o with wait := none } else o)
  s2.setTask tk { s2.taskOf tk with stat := .stopped, gate0 := s.now }

/-- The operations of a task whose engines stopped in a cycle go on: a wait has not run since (R34), and the next step of a matrix
operation begins now (R294, R299). -/
def resumeOps (s : State) (tk gate0 : Nat) : State :=
  s.setOps (s.ops.map fun o =>
    if o.core = tk / 4 && o.slot = tk % 4 then
      { o with wait := o.wait.map (· + (s.now - gate0))
               due := if o.eng == .mat && o.ph == .run && gate0 + stepTime o ≤ o.due then s.now + stepTime o else o.due }
    else o)

/-- Write a task's frame page (R270, R331): at EVB + 4,096, translated in its own context. -/
def writeFrame (s : State) (tk : Nat) (f : FaultRec) : Option State :=
  let t := s.taskOf tk
  match translate s (tk / 4) t.ctx (t.evb.toNat + 4096) .w with
  | .ok l _ s1 => if reachable s t.ctx l then some (s1.put (memKey l) 4096 (frameImage s tk (some f))) else none
  | _ => none

/-- The end of a task under R333: a poisoned or nested fault, no handler, or an unwritable frame. -/
def terminate (s : State) (tk : Nat) (f : FaultRec) : State := endGang s (s.taskOf tk).token f 2 true

/-- The record with another cause; its other fields stay (DESIGN CHOICE, assumption 72). -/
def FaultRec.withCause (f : FaultRec) (c : Nat) : FaultRec :=
  { f with finfo := BitVec.ofNat 64 (setBits f.finfo.toNat 0 8 c) }

/-- The cycle in which the step ends that a task's matrix operation is in (R24). -/
def stepsEnd (s : State) (tk : Nat) : Nat :=
  (s.taskOps tk).foldl (fun n o => if o.inStep s.now then max n o.due else n) 0

/-- FAULT_VECTORING (R326, R331, R333, R362): deliver the task's recorded fault to the handler, to the host,
or end the task. -/
def faultVector (s : State) (tk : Nat) : State :=
  let t := s.taskOf tk
  match t.fault with
  | none => s
  | some f =>
    if f.cause = 0x11 then terminate s tk f
    else if f.host then
      fqAdd (s.setTask tk { t with stat := .hostStop })
        { kind := 1, ctx := t.ctx, code := f.code, token := t.token, finfo := f.finfo, faddr := f.faddr, cyc := f.fcyc,
          core := tk / 4, slot := tk % 4 }
    else if t.evb = 0 then terminate s tk f
    else match writeFrame s tk f with
      | none => terminate s tk (f.withCause 0x11)
      | some s1 =>
        let s2 := s1.setTask tk { s1.taskOf tk with stat := .handler, fault := none, kept := some f }
        onStreams s2 tk fun st =>
          if st.tnum = f.strm then
            { st with mode := .handler, finfo := f.finfo, pc := t.evb + BitVec.ofNat 64 (64 * f.cause), run := .run
                      nextIss := max (s.now + 1) (stepsEnd s tk), wait := none, barW := none }
          else { st with wait := none, barW := none }

/-- Whether another stream of a task may still issue in this cycle, and so fault in it too (R328). -/
def State.mayStill (s : State) (tk k : Nat) : Bool :=
  (streamKeys (s.taskOf tk) tk).any fun j =>
    let st := s.strmOf j
    let c := s.coreOf (tk / 4)
    j != k && st.run == .run && st.mode == .task && !st.dstop && st.nextIss ≤ s.now && c.endC ≤ s.now && !s.stall.contains j
      && (c.issC != s.now || c.issN < 4)

/-- The sample of a tagged instruction that faults in its stream's pipeline (R349). -/
def sampleFault (s : State) : State :=
  let ctx := s.myCtx
  let st := s.strmOf s.cur
  if (sampleK (s.ctxOf ctx)).isNone then s
  else
    let s1 := { s with free := s.free + 1 }
    if !sampleHit s ctx then s1
    else sampleRecord s1 ctx s.myCore st.tnum st.pc 2 (Config.fetchTime s.free) (s.now - st.iss0) 0 0 0 s.now

/-- Take a fault of the current stream's instruction: a nested one ends the task (R333); a fault in firmware mode, of which
the spec says nothing, ends the routine without a report (DESIGN CHOICE, assumption 54); any other stops the task and,
once none of its streams can fault in the same cycle, is delivered (R327, R328, R331). The instruction itself has had no
effect (R71). -/
def takeFault (s : State) (f : FaultRec) : State :=
  let st := s.strmOf s.cur
  let tk := s.tkey s.cur
  match st.mode with
  | .handler => (terminate (traceEvent (sampleFault s) s.myCtx 1 s.myCore st.tnum none s.now) tk f).wake
  | .firmware => (s.setMe { st with run := .absent, mode := .task }).wake
  | .task =>
    if s.mayStill tk s.cur then
      ((reportFault (sampleFault s) tk f).setMe { st with nextIss := s.now + 1, wait := none, barW := none }).wake
    else (faultVector (faultStop (reportFault (sampleFault s) tk f) tk) tk).wake

/-- A fault of an operation at an engine: recorded; its task's work stops (R327, R328). -/
def engineFault (s : State) (o : Op) (f : FaultRec) : State :=
  (reportFault (sampleEnd ((if (s.opOf o.uid).isSome then s.setOp { (s.opOf o.uid).getD o with samp := none } else s)) o true)
    (4 * o.core + o.slot) f).wake

/-! ### Returning from a fault (R132, R332) -/

/-- Remove the head of an engine record by SKIP (R332): it completes for the counters, with no counted read,
write, bump or flag; a fill that waits for a VSTO so removed opens. -/
def skipHead (s : State) (tk e tnum : Nat) : State :=
  match recOps s tk e tnum with
  | [] => s
  | o :: _ =>
    let s1 := retireReads s o
    let s2 := completeOp s1 { o with flags := 0, samp := none }
    let s3 := match o.i with
      | .vlane _ _ _ _ _ _ =>
        let k := 8 * o.core + o.strm
        let st := s2.strmOf k
        s2.setStrm k { st with pend := st.pend &&& ~~~((1 : BitVec 32) <<< o.reg) }
      | _ => s2
    (if o.isVsto then ((s.opDsts o).map (·.1)).foldl reopen (s3.dropOp o.uid) else s3.dropOp o.uid)

/-- Resume every stream of a task at its restart address, with no fault kept; `gap` is the GAP of the ERET, after which its own stream issues
(R49). -/
def resumeStreams (s : State) (tk gap : Nat) (restart : Nat → Option Word) : State :=
  let s1 := s.setTask tk { s.taskOf tk with stat := .run, fault := none, kept := none }
  onStreams (resumeOps s1 tk (s.taskOf tk).gate0) tk fun st =>
    { st with pc := (restart st.tnum).getD st.pc &&& ~~~7, mode := if st.mode = .handler then .task else st.mode
              nextIss := max st.nextIss (s.now + 1 + if st.mode = .handler then gap else 0), dstop := false, wait := none
              barW := none, nx := { st.nx with at' := none } }

/-- ERET in handler mode (R132, R332), with the frame page's image. -/
def eretTask (s : State) (tk gap frame : Nat) : State :=
  let n := (s.taskOf tk).phys.length
  let s1 := (List.range 4).foldl (fun s e => (List.range n).foldl (fun s t =>
    if bitN frame (8 * (128 + 16 * (8 * e + t)) + 73) then skipHead s tk e t else s) s) s
  resumeStreams s1 tk gap fun t => some (BitVec.ofNat 64 (bits frame (8 * (64 + 8 * t)) 64))

/-! ### Issue (R47 to R50, R87 to R90, R137, R331, R380) -/

/-- How an instruction begins: it is over, or it goes on with its guard's value. -/
inductive Beg where
  | out (o : Out)
  | go (g : Bool) (s : State)

/-- A faulting instruction's outcome. -/
def raise (s : State) (f : FaultRec) : Out := .next (takeFault s f)

/-- Begin an instruction of major `mj`: landed results are written, handler mode is checked (R331), and the guard is read
(R48). -/
def begin' (h : Header) (mj : Nat) (s : State) : Beg :=
  let st := s.me
  if st.run != .run then .out (.next s)
  else
    let s1 := s.setMe st
    if st.mode = .handler && 6 ≤ mj then .out (raise s1 (pipeFault s1 0x03)) else .go (st.guard h) s1

/-- A stream after an issue: its PC, the cycles in which GAP and SW act (R49, R50), no wait, and, in task mode, no SYNCARR
(R137). -/
def Stream.issued (st : Stream) (h : Header) (now : Nat) (pc : Word) : Stream :=
  { st with pc := pc, nextIss := now + 1 + h.gap.toNat, iss0 := now + 1, sw := h.sw, wait := none, wtc := none, bphit := false
            syncArr := if st.mode = .task then false else st.syncArr }

/-- A core after an issue of a stream: the issues of the cycle, the place of its rotation (R290), and its counter (R350). -/
def Core.issued (c : Core) (now n : Nat) : Core :=
  let more := c.issC = now && c.issN != 0
  { c with issC := now, issN := if more then c.issN + 1 else 1, rot := if more then c.rot else c.last, last := n
           cIss := if more then c.cIss else c.cIss + 1 }

/-- The current stream's core counts an issue of it. -/
def State.coreIssued (s : State) : State := s.setCore s.myCore ((s.coreOf s.myCore).issued s.now (s.cur % 8))

/-- The instruction has issued, and control goes to a PC. -/
def retireTo (h : Header) (pc : Word) (s : State) : Out :=
  .next ((s.setMe ((s.strmOf s.cur).issued h s.now pc)).coreIssued).wake

/-- The instruction has issued: the PC advances by its bytes. -/
def retire (h : Header) (n : Nat) (s : State) : Out := retireTo h ((s.strmOf s.cur).pc + BitVec.ofNat 64 n) s

/-- The instruction stalls; the wait is not measured. -/
def stallU (s : State) : Out :=
  .next { s.setMe { s.strmOf s.cur with wait := none } with stall := s.cur :: s.stall }

/-- The instruction stalls in a wait that the wait limit bounds (R292); `cnt`: a counted wait (R34). -/
def stallC (s : State) (obj : Option (BitVec 2 × BitVec 8)) (cnt : Bool := false) : Out :=
  let st := s.strmOf s.cur
  .next { s.setMe { st with wait := some ⟨(st.wait.map (·.since)).getD s.now, obj, cnt⟩ } with stall := s.cur :: s.stall }

/-- Read the operands of an instruction, or stall (R89, R90, R11). -/
def withOperands (u : Use) (s : State) (k : List Word → State → Out) : Out :=
  let st := s.strmOf s.cur
  if !rulesOk st u then stallU s
  else if !qReady s st u then stallC s none
  else let r := readGs s st u.srcs; k r.1 (s.setMe r.2)

/-- An instruction whose guard is false and which names no counted operand (R88): it only issues. -/
def guarded (h : Header) (mj : Nat) (s : State) (body : State → Out) : Out :=
  match begin' h mj s with
  | .out o => o
  | .go false s1 => retire h 8 s1
  | .go true s1 => body s1

/-- A scalar computation of g operands into a g register at a fixed latency (R109, R110). -/
def alu (h : Header) (mj : Nat) (gd : G) (srcs : List G) (lat : Nat) (f : List Word → State → Word) (s : State) : Out :=
  guarded h mj s fun s1 => withOperands { srcs := srcs, dst := some gd } s1 fun vs s2 =>
    retire h 8 (s2.setMe (setG (s2.strmOf s2.cur) s2.now gd (f vs s2) lat (srcs.any G.isQ)))

/-- A compare of g operands into a predicate (R111). -/
def cmp (h : Header) (mj : Nat) (pd : P) (srcs : List G) (f : List Word → Bool) (s : State) : Out :=
  guarded h mj s fun s1 => withOperands { srcs := srcs } s1 fun vs s2 =>
    retire h 8 (s2.setMe (setP (s2.strmOf s2.cur) s2.now pd (f vs) (srcs.any G.isQ)))

/-- A predicate operation (R112). -/
def pop2 (h : Header) (pd pa pb : P) (f : Bool → Bool → Bool) (s : State) : Out :=
  guarded h 2 s fun s1 =>
    let st := s1.strmOf s1.cur
    retire h 8 (s1.setMe (setP st s1.now pd (f (st.pr pa) (st.pr pb)) false))

/-! ### Issue of engine operations (R20, R70, R142, R380) -/

/-- The stream-side entries of an engine's queue (R20). -/
def queueLen (s : State) (k : Nat) (e : Eng) : Nat :=
  s.ops.countP fun o => 8 * o.core + o.strm == k && o.eng == e && (o.ph == .queued || e == .mat)

/-- Whether an operation of an engine can enter its queue now: 16 entries a queue, and 512 copies a core (R12, R20). -/
def queueRoom (s : State) (k : Nat) (e : Eng) : Bool :=
  queueLen s k e < 16 && (e != .cpy || (s.ops.countP fun o => o.core == k / 8 && o.eng == .cpy && !o.uncnt) < 512)

/-- The names an engine instruction is tested for (R15, R70), in operand order. -/
def Tile.names (t : Tile) : List (Spc × Nat) :=
  t.dsts.map (fun x => (x.1, x.2.1)) ++ t.srcs.map (fun x => (x.1, x.2.1)) ++ t.chk

/-- The operation that the current stream issues now. -/
def newOp (s : State) (i : Instr) (guard : Bool) (gv : List Word) : Op :=
  let st := s.strmOf s.cur
  { uid := s.fresh, core := s.myCore, strm := s.cur % 8, slot := st.slot, tnum := st.tnum, ctx := s.myCtx
    eng := (tileOf i).eng, i := i, pc := st.pc, cyc := s.now, fpc := st.fpc, guard := guard, gv := gv }

/-- Put an operation at its queue's tail; the stream's counter goes up (R12, R20). -/
def enqueue (s : State) (o : Op) : State :=
  { s.setMe ((s.strmOf s.cur).countUp o.eng) with ops := s.ops ++ [o], fresh := s.fresh + 1 }

/-- What the tests of an engine instruction at issue come to: the operation to queue, a fault with the state it
is taken in, or a stall. -/
abbrev Pre := Except (Option (FaultRec × State)) (Op × State)

/-- Issue an engine instruction (R20, R70, R141 to R143): reserved codes and the names' causes first, under any guard; then room
in the queue; then, under a true guard, the g operands and the causes that depend on them (`pre`), which may
also read memory. `put` enters it in its queue. -/
def issueOp (h : Header) (mj n : Nat) (i : Instr) (dst : Option G) (pre : List Word → Op → State → Pre)
    (put : State → Op → State) (s : State) : Out :=
  match begin' h mj s with
  | .out o => o
  | .go g s1 =>
    let t := tileOf i
    match codeFault s1.myTask i with
    | some c => raise s1 (pipeFault s1 c)
    | none =>
    match namesFault s1.myTask t.names with
    | some (c, spc, o) => raise s1 (pipeFault s1 c (some (spc.code, BitVec.ofNat 8 o)))
    | none =>
      match fieldFault s1.myTask i with
      | some c => raise s1 (pipeFault s1 c)
      | none =>
      if !queueRoom s1 s1.cur t.eng then stallU s1
      else if g then
        withOperands { srcs := t.gs, dst := dst, var := dst.isSome } s1 fun vs s2 =>
          match pre vs (newOp s2 i true vs) s2 with
          | .error (some (f, s3)) => raise (s3.setMe (s1.strmOf s1.cur)) f
          | .error none => stallU s1
          | .ok (o, s3) => retire h n (put s3 o)
      else retire h n (put s1 (newOp s1 i false []))

/-- No cause of its own at issue. -/
def noPre (_ : List Word) (o : Op) (s : State) : Pre := .ok (o, s)

/-- A fault at issue. -/
def preFault (s : State) (f : FaultRec) : Pre := .error (some (f, s))

end Sys2Proof.Machine
end

