-- ==== Sys2Proof/Machine/Fetch.lean ====
section
/-!
DEFINITION. One issue of a stream (R44 to R51, R70, R71, R290, R348): which stream may issue, the fetch of its
words, the order of the tests of R70, the stops before an instruction, and its execution.
-/
namespace Sys2Proof.Machine

/-- Whether every clock of a core runs: no freeze, no change of performance point (R43, R374). -/
def State.coreRuns (s : State) (c : Nat) : Bool := (s.coreOf c).frz.isNone && s.dev.pf0.newPP.isNone

/-- Whether a stream may issue: it runs, its task is not stopped or it is the handler's stream, its context has a binding
(R305), and its core runs. -/
def State.canIssue (s : State) (k : Nat) : Bool :=
  let st := s.strmOf k
  let t := s.taskAt k
  st.run == .run && !st.dstop && s.coreRuns (k / 8) && (st.mode == .firmware || s.ownerC t.ctx < 7) &&
    (match st.mode with
      | .firmware => true
      | .task => t.stat == .run || (t.stat == .stopping && t.fault.any (fun f => f.fcyc == s.now) && st.nextIss ≤ s.now)
      | .handler => t.stat == .handler)

/-- The first cycle in which a stream can issue: its GAP has elapsed, the cycle's issues are not over, and the core has an issue
slot (R20, R49). A WAITC at which it waits already goes on in the cycle of the last commit it waits for (R268). -/
def State.issueDue (s : State) (k : Nat) : Nat :=
  let c := s.coreOf (k / 8)
  let st := s.strmOf k
  let n := max (max s.now st.nextIss) (if st.wtc = some st.pc then 0 else c.endC)
  if c.issC = n && 4 ≤ c.issN then n + 1 else n

/-- The place of a stream in its core's rotation in a cycle (R290): from the stream after the one taken last before that cycle
on, and one that carried SW in the cycle before last of all (R50). -/
def State.rotPos (s : State) (k t : Nat) : Nat :=
  let c := s.coreOf (k / 8)
  let st := s.strmOf k
  (if st.sw && st.iss0 == t then 8 else 0) + (k % 8 + 7 - (if c.issC = t && c.issN != 0 then c.rot else c.last) % 8) % 8

/-- Whether it is a stream's turn to issue: no stream of its core that may issue, and is not known to stall, stands before it
in the rotation of its cycle (R290). -/
def State.turn (s : State) (k : Nat) : Bool :=
  let t := s.issueDue k
  (List.range 8).all fun n =>
    let j := 8 * (k / 8) + n
    j == k || !s.canIssue j || s.stall.contains j || t < s.issueDue j || s.rotPos k t < s.rotPos j t

/-- Make a stream the current one, at its issue cycle. -/
def select (s : State) (k : Nat) : State := { s.upTo (s.issueDue k) with cur := k }

/-- Fetch the word at an address of the current stream (R46). -/
def fetchAt (s : State) (pc : Word) : Except FaultRec (Nat × State) :=
  match translate s s.myCore s.myCtx pc.toNat .x with
  | .ok l _ s1 => .ok (readN s1.mem (memKey l) 8, s1)
  | .walkFault c => .error (pipeFault s 0x09 none pc false 0 true c)
  | .attr => .error (pipeFault s 0x0B none pc false 0 true)

/-- Whether a first word is a privileged instruction's (R69). -/
def privWord (w : Nat) : Bool :=
  (majOf w == 0 && (minOf w == 1 || minOf w == 7 || minOf w == 8 || minOf w == 9)) || (majOf w == 5 && minOf w == 7)

/-- What a first word fails of the tests that need no second one (R70, R71): no second word makes it an instruction. The second
words tried have, in turn, no field set, an option or a register in each place that some long form needs one (R64 to R67). -/
def firstBad (w : Nat) : Option DecodeError :=
  if [0, 1, 2^63, 16, 17, 2^58 + 16].any fun x => (decodeWords w x).isOk then none
  else match decodeWords w 0 with
    | .error e => some e
    | .ok _ => none

/-- Fetch and decode at the PC: the instruction, or a fault by the order of R70. A first word that fails by itself takes its
cause even where the fetch of its second word faults (R71). -/
def fetch (s : State) : Except FaultRec (Instr × State) :=
  let st := s.strmOf s.cur
  match fetchAt s st.pc with
  | .error f => .error f
  | .ok (w, s1) =>
    let two : Except FaultRec (Nat × State) := if fBit w 63 then fetchAt s1 (st.pc + 8) else .ok (0, s1)
    let bad (e : DecodeError) : FaultRec := pipeFault s (if e == .reserved && privWord w && st.mode == .task then 0x03 else e.cause)
    match two with
    | .error f =>
      match firstBad w with
      | some e => .error (bad e)
      | none => .error f
    | .ok (x, s2) =>
      match decodeWords w x with
      | .ok i => .ok (i, s2)
      | .error e => .error (bad e)

/-- The armed breakpoint of a context at an address (R347, R348). -/
def bpAt (s : State) (ctx pc : Nat) : Bool :=
  let c := s.ctxOf ctx
  bitN c.dbgctl.toNat 0 &&
  (match safePoint s ctx pc with
    | some (ord, obj) => c.bp.any fun e => bitN e.2.toNat 63 && bits e.2.toNat 0 32 == ord && bits e.2.toNat 32 16 == obj
    | none => false)

/-- Whether the current stream stands at an armed breakpoint that it has not taken yet (R348). -/
def State.atBp (s : State) : Bool := !(s.strmOf s.cur).bphit && bpAt s s.myCtx (s.strmOf s.cur).pc.toNat

/-- A stream in firmware mode issues outside any context's stops; any other stops before an instruction for a
debug stop (R325, R348): at a safe point, or at once under FORCE. -/
def stopsHere (s : State) (sp : Bool) : Bool :=
  let st := s.strmOf s.cur
  let c := s.ctxOf s.myCtx
  st.mode == .task && ((c.dbgStop && (sp || c.force)) || (sp && (s.coreOf s.myCore).hold)
    || (sp && s.atBp))

/-- Stop the current stream for debug; a breakpoint, or BRKPT, requests STOP for its context (R102, R348). -/
def debugStop (s : State) (req : Bool) : State :=
  let st := s.strmOf s.cur
  let c := s.ctxOf s.myCtx
  ((s.setMe { st with dstop := true, bphit := true, stopC := s.now }).setCtx s.myCtx { c with dbgStop := c.dbgStop || req }).wake

/-- The header of a first word's SP bit (R51). -/
def spOf (w : Nat) : Bool := fBit w 62

/-- Tag the instruction just issued with probability 2^-K (R349): one that has committed in the pipeline is recorded now, an
operation when it commits. `w` is its first word. -/
def sampleIssue (w : Nat) (s0 s1 : State) : State :=
  let ctx := s0.myCtx
  if (sampleK (s0.ctxOf ctx)).isNone then s1
  else
    let s2 := { s1 with free := s1.free + 1 }
    if !sampleHit s1 ctx then s2
    else
      let st := s0.strmOf s0.cur
      let fe := Config.fetchTime s1.free
      if s0.ops.length < s1.ops.length then
        s2.setOps (s2.ops.map fun o => if s0.fresh ≤ o.uid then { o with samp := some (fe, s0.now - st.iss0) } else o)
      else
        let cw := (st.wait.map fun x => if x.cnt then s0.now - x.since else 0).getD 0
        sampleRecord s2 ctx s0.myCore st.tnum st.pc (!s0.me.guard (fHdr w)).toNat fe (s0.now - st.iss0 - cw) 0 cw 0 s0.now

/-- What an issue adds beside the instruction's meaning (R349 to R351): the sample, the event of a safe point's issue, and the
counter of counted waits. -/
def afterIssue (w : Nat) (s0 s1 : State) : State :=
  let a := s0.coreOf s0.myCore
  let b := s1.coreOf s0.myCore
  if a.issC = b.issC && a.issN = b.issN then s1
  else
    let ctx := s0.myCtx
    let st := s0.strmOf s0.cur
    let s2 := sampleIssue w s0 s1
    let s3 := match st.wait with
      | none => s2
      | some x => if !x.cnt then s2 else
        s2.setCore s0.myCore { s2.coreOf s0.myCore with cWait := (s2.coreOf s0.myCore).cWait + (s0.now - x.since) }
    match safePoint s0 ctx st.pc.toNat with
    | some (ord, obj) =>
      let c := s0.ctxOf ctx
      if spOf w && ord = bits c.ttrig.toNat 32 32 && obj = bits (mget 0 c.bp 0).toNat 32 16 then
        traceEvent s3 ctx 3 s0.myCore st.tnum (some (ord, obj)) s0.now
      else s3
    | none => s3

/-- The word at the PC, 0 where it cannot be fetched. -/
def wordHere (s : State) : Nat :=
  match fetchAt s (s.strmOf s.cur).pc with
  | .ok (w, _) => w
  | .error _ => 0

/-- One issue of stream `k`: fetch, decode, execute. -/
def issueStep (exec : Instr → State → Out) (k : Nat) (s : State) : Out :=
  if !s.canIssue k || !s.turn k then .next s
  else
    let s1 := select s k
    let w := wordHere s1
    if stopsHere s1 (spOf w) then .next (debugStop s1 s1.atBp)
    else match fetch s1 with
      | .error f => raise (s1.setMe s1.me) f
      | .ok (i, s2) => match exec i s2 with
        | .next s3 => .next (afterIssue w s2 s3)
        | o => o

end Sys2Proof.Machine
end

