-- ==== Sys2Proof/Machine/Scalar.lean ====
section
/-!
DEFINITION. Scalar arithmetic, compares and predicate operations: majors 0x1 and 0x2 (R109 to R112).
-/
namespace Sys2Proof.Machine

/-- The i-th operand value. -/
def arg (v : List Word) (i : Nat) : Word := v.getD i 0

/-- Leading zeros, 64 for 0. -/
def clz64 (a : Word) : Word := if a = 0 then 64 else BitVec.ofNat 64 (63 - Nat.log2 a.toNat)
/-- Set bits. -/
def popc64 (a : Word) : Word := BitVec.ofNat 64 ((List.range 64).countP fun i => bitN a.toNat i)
/-- The signed quotient, truncated toward zero; all ones for a zero divisor (R109). -/
def divS (a b : Word) : Word := if b = 0 then BitVec.allOnes 64 else BitVec.ofInt 64 (a.toInt.tdiv b.toInt)
/-- The natural quotient; all ones for a zero divisor (R109). -/
def divN (a b : Word) : Word := if b = 0 then BitVec.allOnes 64 else a / b
/-- The high half of the signed product. -/
def mulhS (a b : Word) : Word := BitVec.ofInt 64 (a.toInt * b.toInt / 2^64)
/-- The high half of the natural product. -/
def mulhN (a b : Word) : Word := BitVec.ofNat 64 (a.toNat * b.toNat / 2^64)
/-- The shift count b[5:0]. -/
def shAmt (b : Word) : Nat := b.toNat % 64

def execAdd (h : Header) (gd ga gb : G) (s : State) : Out := alu h 1 gd [ga, gb] 1 (fun v _ => arg v 0 + arg v 1) s
def execSub (h : Header) (gd ga gb : G) (s : State) : Out := alu h 1 gd [ga, gb] 1 (fun v _ => arg v 0 - arg v 1) s
def execMul (h : Header) (gd ga gb : G) (s : State) : Out := alu h 1 gd [ga, gb] 3 (fun v _ => arg v 0 * arg v 1) s
def execMulh (h : Header) (gd ga gb : G) (s : State) : Out :=
  alu h 1 gd [ga, gb] 3 (fun v _ => mulhS (arg v 0) (arg v 1)) s
def execMulhn (h : Header) (gd ga gb : G) (s : State) : Out :=
  alu h 1 gd [ga, gb] 3 (fun v _ => mulhN (arg v 0) (arg v 1)) s
def execDiv (h : Header) (gd ga gb : G) (s : State) : Out :=
  alu h 1 gd [ga, gb] 20 (fun v _ => divS (arg v 0) (arg v 1)) s
def execDivn (h : Header) (gd ga gb : G) (s : State) : Out :=
  alu h 1 gd [ga, gb] 20 (fun v _ => divN (arg v 0) (arg v 1)) s
def execAnd (h : Header) (gd ga gb : G) (s : State) : Out := alu h 1 gd [ga, gb] 1 (fun v _ => arg v 0 &&& arg v 1) s
def execOr (h : Header) (gd ga gb : G) (s : State) : Out := alu h 1 gd [ga, gb] 1 (fun v _ => arg v 0 ||| arg v 1) s
def execXor (h : Header) (gd ga gb : G) (s : State) : Out := alu h 1 gd [ga, gb] 1 (fun v _ => arg v 0 ^^^ arg v 1) s
def execAndn (h : Header) (gd ga gb : G) (s : State) : Out :=
  alu h 1 gd [ga, gb] 1 (fun v _ => arg v 0 &&& ~~~(arg v 1)) s
def execShl (h : Header) (gd ga gb : G) (s : State) : Out :=
  alu h 1 gd [ga, gb] 1 (fun v _ => arg v 0 <<< shAmt (arg v 1)) s
def execShr (h : Header) (gd ga gb : G) (s : State) : Out :=
  alu h 1 gd [ga, gb] 1 (fun v _ => arg v 0 >>> shAmt (arg v 1)) s
def execSra (h : Header) (gd ga gb : G) (s : State) : Out :=
  alu h 1 gd [ga, gb] 1 (fun v _ => (arg v 0).sshiftRight (shAmt (arg v 1))) s
def execMin (h : Header) (gd ga gb : G) (s : State) : Out :=
  alu h 1 gd [ga, gb] 1 (fun v _ => if (arg v 1).slt (arg v 0) then arg v 1 else arg v 0) s
def execMax (h : Header) (gd ga gb : G) (s : State) : Out :=
  alu h 1 gd [ga, gb] 1 (fun v _ => if (arg v 0).slt (arg v 1) then arg v 1 else arg v 0) s
def execClz (h : Header) (gd ga : G) (s : State) : Out := alu h 1 gd [ga] 1 (fun v _ => clz64 (arg v 0)) s
def execPopc (h : Header) (gd ga : G) (s : State) : Out := alu h 1 gd [ga] 1 (fun v _ => popc64 (arg v 0)) s
def execSel (h : Header) (gd ga gb : G) (ps : P) (s : State) : Out :=
  alu h 1 gd [ga, gb] 1 (fun v s => if (s.strmOf s.cur).pr ps then arg v 0 else arg v 1) s

/-- i = SExt(imm33, 33). -/
def imm33 (i : BitVec 33) : Word := i.signExtend 64

def execAddi (h : Header) (gd ga : G) (imm : BitVec 33) (s : State) : Out :=
  alu h 2 gd [ga] 1 (fun v _ => arg v 0 + imm33 imm) s
def execMuli (h : Header) (gd ga : G) (imm : BitVec 33) (s : State) : Out :=
  alu h 2 gd [ga] 3 (fun v _ => arg v 0 * imm33 imm) s
def execAndi (h : Header) (gd ga : G) (imm : BitVec 33) (s : State) : Out :=
  alu h 2 gd [ga] 1 (fun v _ => arg v 0 &&& imm33 imm) s
def execOri (h : Header) (gd ga : G) (imm : BitVec 33) (s : State) : Out :=
  alu h 2 gd [ga] 1 (fun v _ => arg v 0 ||| imm33 imm) s
def execXori (h : Header) (gd ga : G) (imm : BitVec 33) (s : State) : Out :=
  alu h 2 gd [ga] 1 (fun v _ => arg v 0 ^^^ imm33 imm) s
def execShli (h : Header) (gd ga : G) (imm : BitVec 33) (s : State) : Out :=
  alu h 2 gd [ga] 1 (fun v _ => arg v 0 <<< (imm.toNat % 64)) s
def execShri (h : Header) (gd ga : G) (imm : BitVec 33) (s : State) : Out :=
  alu h 2 gd [ga] 1 (fun v _ => arg v 0 >>> (imm.toNat % 64)) s
def execSrai (h : Header) (gd ga : G) (imm : BitVec 33) (s : State) : Out :=
  alu h 2 gd [ga] 1 (fun v _ => (arg v 0).sshiftRight (imm.toNat % 64)) s
def execLi (h : Header) (gd : G) (imm : BitVec 33) (s : State) : Out := alu h 2 gd [] 1 (fun _ _ => imm33 imm) s
/-- LIH keeps the low 33 bits of gd, which it reads as its source (R110). -/
def execLih (h : Header) (gd : G) (imm : BitVec 33) (s : State) : Out :=
  alu h 2 gd [gd] 1 (fun v _ => (imm.setWidth 64 <<< 33) ||| (arg v 0 &&& 0x1FFFFFFFF)) s

def execCmpeq (h : Header) (pd : P) (ga gb : G) (s : State) : Out := cmp h 2 pd [ga, gb] (fun v => arg v 0 == arg v 1) s
def execCmpne (h : Header) (pd : P) (ga gb : G) (s : State) : Out := cmp h 2 pd [ga, gb] (fun v => arg v 0 != arg v 1) s
def execCmplt (h : Header) (pd : P) (ga gb : G) (s : State) : Out :=
  cmp h 2 pd [ga, gb] (fun v => (arg v 0).slt (arg v 1)) s
def execCmple (h : Header) (pd : P) (ga gb : G) (s : State) : Out :=
  cmp h 2 pd [ga, gb] (fun v => (arg v 0).sle (arg v 1)) s
def execCmpltn (h : Header) (pd : P) (ga gb : G) (s : State) : Out :=
  cmp h 2 pd [ga, gb] (fun v => (arg v 0).ult (arg v 1)) s
def execCmplen (h : Header) (pd : P) (ga gb : G) (s : State) : Out :=
  cmp h 2 pd [ga, gb] (fun v => (arg v 0).ule (arg v 1)) s

/-- j = SExt(imm27, 27). -/
def imm27 (i : BitVec 27) : Word := i.signExtend 64

def execCmpeqi (h : Header) (pd : P) (ga : G) (imm : BitVec 27) (s : State) : Out :=
  cmp h 2 pd [ga] (fun v => arg v 0 == imm27 imm) s
def execCmplti (h : Header) (pd : P) (ga : G) (imm : BitVec 27) (s : State) : Out :=
  cmp h 2 pd [ga] (fun v => (arg v 0).slt (imm27 imm)) s
def execCmpltni (h : Header) (pd : P) (ga : G) (imm : BitVec 27) (s : State) : Out :=
  cmp h 2 pd [ga] (fun v => (arg v 0).ult (imm27 imm)) s

def execPand (h : Header) (pd pa pb : P) (s : State) : Out := pop2 h pd pa pb (· && ·) s
def execPor (h : Header) (pd pa pb : P) (s : State) : Out := pop2 h pd pa pb (· || ·) s
def execPxor (h : Header) (pd pa pb : P) (s : State) : Out := pop2 h pd pa pb (· != ·) s
def execPnot (h : Header) (pd pa : P) (s : State) : Out := pop2 h pd pa 0 (fun a _ => !a) s

end Sys2Proof.Machine
end

