-- ==== Sys2Proof/Machine/Sys.lean ====
section
/-!
DEFINITION. SYS but for CTXSAVE and CTXLOAD: major 0x0 (R102 to R107).
-/
namespace Sys2Proof.Machine

/-- A privileged instruction (R69): outside handler and firmware mode it takes cause 0x03, whatever its
guard (R70, R71). -/
def privileged (s : State) (k : State → Out) : Out :=
  if (s.strmOf s.cur).mode = .task && (s.strmOf s.cur).run = .run then raise (s.setMe s.me) (pipeFault s 0x03) else k s

/-- Whether every tile, copy and near-memory operation of a stream has committed (R104, R129). -/
def drained (s : State) (k : Nat) : Bool := s.ops.all fun o => 8 * o.core + o.strm != k || o.uncnt

def execNop (h : Header) (s : State) : Out := guarded h 0 s (retire h 8)

def execHalt (h : Header) (s : State) : Out := privileged s fun s => guarded h 0 s fun s1 =>
  let st := s1.strmOf s1.cur
  if st.mode = .firmware then .next ((s1.setMe { st with run := .absent, mode := .task }).coreIssued).wake
  else
    let k := (s1.taskAt s1.cur).kept.getD {}
    .next (terminate s1.coreIssued (s1.tkey s1.cur) { k with finfo := st.finfo }).wake

/-- The value of a control and status register (R92, R103). -/
def csrRead (s : State) (r : Csr) : Word :=
  let st := s.strmOf s.cur
  match r with
  | .fpc => st.fpc.setWidth 64
  | .flg => st.flg.setWidth 64
  | .seed => st.seed.setWidth 64
  | .win => s.myTask.win
  | .tid => s.tid s.cur
  | .cyc => BitVec.ofNat 64 s.now
  | .finfo => st.finfo
  | .evb => s.myTask.evb

def execRdcs (h : Header) (gd : G) (r : Csr) (s : State) : Out := guarded h 0 s fun s1 =>
  withOperands { dst := some gd, var := true } s1 fun _ s2 =>
    retire h 8 (s2.setMe (setGP (s2.strmOf s2.cur) s2.now gd (csrRead s2 r) 2))

/-- WRCS's effect on a register (R104). -/
def csrWrite (r : Csr) (v : Word) (s : State) : State :=
  let st := s.strmOf s.cur
  match r with
  | .fpc => s.setMe { st with fpc := maskFpc (v.setWidth 32) }
  | .flg => s.setMe { st with flg := maskFlg (v.setWidth 32) }
  | .seed => s.setMe (st.setSeed (v.setWidth 32))
  | .finfo => s.setMe { st with finfo := maskFinfo v }
  | .evb => s.setTask (s.tkey s.cur) { s.myTask with evb := v }
  | .win | .tid | .cyc => s

def execWrcs (h : Header) (r : Csr) (ga : G) (s : State) : Out := guarded h 0 s fun s1 =>
  let m := (s1.strmOf s1.cur).mode
  if r = .win || r = .tid || r = .cyc then raise s1 (pipeFault s1 0x0B)
  else if (r = .finfo || r = .evb) && m = .task then raise s1 (pipeFault s1 0x03)
  else if (r = .flg || r = .seed) && !drained s1 s1.cur then stallU s1
  else withOperands { srcs := [ga] } s1 fun v s2 =>
    if r = .evb && bits (arg v 0).toNat 0 12 != 0 then raise s1 (pipeFault s1 0x0C)
    else retire h 8 (csrWrite r (arg v 0) s2)

def execSetfpc (h : Header) (img : BitVec 14) (s : State) : Out := guarded h 0 s fun s1 =>
  retire h 8 (s1.setMe { s1.strmOf s1.cur with fpc := maskFpc (img.setWidth 32) })

def execRdcyc (h : Header) (gd : G) (s : State) : Out := guarded h 0 s fun s1 =>
  withOperands { dst := some gd } s1 fun _ s2 =>
    retire h 8 (s2.setMe (setG (s2.strmOf s2.cur) s2.now gd (BitVec.ofNat 64 s2.now) 1 false))

/-- BRKPT with SP, while debug events are enabled, stops its task here as a debug stop does; resumed there, it
goes on (R102, R348). A stream in handler or firmware mode belongs to no debug stop (R328), and goes on (DEDUCED, assumption
61). -/
def execBrkpt (h : Header) (s : State) : Out := guarded h 0 s fun s1 =>
  if (s1.strmOf s1.cur).mode = .task && h.sp && bitN (s1.ctxOf s1.myCtx).dbgctl.toNat 0 && !(s1.strmOf s1.cur).bphit then .next (debugStop s1 true)
  else retire h 8 s1

/-- Remove entries from the translation caches of a core and its cluster (R107). -/
def tlbDrop (s : State) (core : Nat) (p : Tlb → Bool) : State :=
  let c := s.coreOf core
  { s.setCore core { c with tlb := c.tlb.filter fun e => !p e } with
    clus := mput [] s.clus (core / 8) ((mget [] s.clus (core / 8)).filter fun e => !p e) }

def execTlbinv (h : Header) (ga : G) (kind : BitVec 33) (s : State) : Out := privileged s fun s => guarded h 0 s fun s1 =>
  withOperands { srcs := [ga] } s1 fun v s2 =>
    let fw := (s2.strmOf s2.cur).mode = .firmware
    let a := (arg v 0).toNat
    let c := s2.myCtx
    match kind.toNat with
    | 0 => if a % 64 = c || fw then retire h 8 (tlbDrop s2 s2.myCore fun e => e.ctx == a % 64) else raise s1 (pipeFault s1 0x03)
    | 1 => retire h 8 (tlbDrop s2 s2.myCore fun e => e.hits c a)
    | 2 => if fw then retire h 8 (tlbDrop s2 s2.myCore fun _ => true) else raise s1 (pipeFault s1 0x03)
    | _ => raise s1 (pipeFault s1 0x02)

end Sys2Proof.Machine
end

