-- ==== Sys2Proof/Machine/Turn.lean ====
section
/-!
DEFINITION. Which operations stand at a commit or a publish, and which of them writes an object first (R22, R29, R37, R195,
R212).
-/
namespace Sys2Proof.Machine

/-- Whether a core that Salend stops has stopped: each of its streams stands at a safe point or does not run (R325, R348). -/
def State.coreHeld (s : State) (c : Nat) : Bool :=
  (s.coreOf c).hold && (List.range 8).all fun n =>
    let st := s.strmOf (8 * c + n)
    st.dstop || st.run != .run || st.mode != .task || (s.taskAt (8 * c + n)).stat != .run

/-- Whether the engines work for a task: it runs, or another of its operations has faulted in this very cycle (R327, R328). -/
def Task.engines (t : Task) (now : Nat) : Bool := t.stat == .run || (t.stat == .stopping && t.fault.any fun f => f.fcyc == now)

/-- Whether an operation's task runs, so that its engine works on it (R24, R305, R325, R327,
R348, R374). -/
def State.opLive (s : State) (o : Op) : Bool :=
  s.coreRuns o.core && (s.taskOf o.tk).engines s.now && s.ownerC o.ctx < 7 && !bitN (s.ctxOf o.ctx).dbgctl.toNat 4 && !s.coreHeld o.core

/-- Whether an operation names an object and has not reached its view point there: a queued read, or a write
that has not committed or published. -/
def State.holdsView (s : State) (o : Op) (k : Nat) : Bool :=
  (o.ph == .queued && (s.opSrcs o).any (·.1 == k)) || (s.opDsts o).any (·.1 == k)
    || o.alsoNames.any fun x => s.opKey o x.1 x.2 == k

/-! ### Commits -/

/-- Whether a stopped task's matrix operation is in a K-step that had begun when it stopped: the engine carries that step to its
end (R24). -/
def State.stepGoes (s : State) (o : Op) : Bool :=
  let t := s.taskOf o.tk
  s.coreRuns o.core && t.stat != .run && t.stat != .stopping && t.stat != .gated && o.inStep t.gate0

/-- The operation that holds the sequencer of a core: the one started first (R22). -/
def State.matRun (s : State) (c : Nat) : Option Op :=
  leastBy (fun (a b : Op) => a.at0 < b.at0 || (a.at0 == b.at0 && a.uid < b.uid))
    (s.ops.filter fun o => o.core == c && o.eng == .mat && o.ph != .queued && (s.opLive o || s.stepGoes o))

/-- Whether an operation is a `.now` drain that has not finished reading (R203). -/
def Op.nowDrain (o : Op) : Bool :=
  o.guard && (match o.i with
    | .acdrain _ _ _ now _ _ _ _ => now && o.ph == .run && o.step == 0
    | _ => false)

/-- Whether a `.now` drain still reads a destination of a matrix operation (R195). -/
def drainReads (s : State) (o : Op) : Bool :=
  s.ops.any fun p => p.core == o.core && p.nowDrain && p.tk == o.tk && (s.opSrcs p).any fun x => (s.opDsts o).any (·.1 == x.1)

/-- Whether the vector engine works on an operation that it has started: also while the work of its task is being stopped
(R24, R327). -/
def State.vecGoes (s : State) (o : Op) : Bool :=
  s.coreRuns o.core && ((s.taskOf o.tk).stat == .run || (s.taskOf o.tk).stat == .stopping)

/-- Whether an operation is the first of its engine's started ones that has not committed (R22). -/
def vecFirst (s : State) (o : Op) : Bool :=
  s.ops.all fun p => !(p.core == o.core && p.eng == .vec && p.ph != .queued && p.uid != o.uid && p.at0 < o.at0 && s.vecGoes p)

/-- Whether an operation would write its destinations now: its last step is done, nothing before it in its engine has still to
commit, and every destination is ready (R28, R37, R195). -/
def State.atCommit (s : State) (p : Op) : Bool :=
  p.due ≤ s.now && dstsReady (retireReads s p) p &&
    (match p.eng with
      | .vec =>
        if p.isVsto then s.vecGoes p && p.ph == .tail && !(s.opDsts p).any fun x => matReads s x.1
        else s.vecGoes p && p.ph == .run && vecFirst s p
      | .mat => s.matRun p.core == some p && p.ph == .tail && !drainReads s p
      | .cpy => s.opLive p && p.ph == .tail && (s.opDsts p).any fun x => pubOp (publishers s x.1) == some p && !matReads s x.1
      | .near => (p.ph == .tail || (p.ph == .run && p.step == 255)) && (s.opDsts p).any fun x => s.onPart p x.1)

/-- Whether an earlier operation of a stream holds back operations on an object: one issued before `u` (R25). -/
def State.viewBlocked (s : State) (sk k u : Nat) : Bool :=
  s.ops.any fun o => 8 * o.core + o.strm == sk && o.uid < u && s.holdsView o k

/-- The object that a stream's BUMP would write in this cycle: its next instruction is one that may issue now, and nothing but the
destination's readiness could hold it (R29, R31). -/
def State.bumpNow (s : State) (j : Nat) : Option Nat :=
  if !s.canIssue j || s.now < s.issueDue j || s.stall.contains j then none
  else match fetch { s with cur := j } with
    | .ok (.bump _ spc x, _) =>
      let t := s.taskAt j
      let k := nameKey t (j / 8) (s.strmOf j).slot spc x.obj.toNat
      let c := s.cntOf k
      if (s.strmOf j).mode == .task && (nameFault t spc x.obj.toNat).isNone && !s.viewBlocked j k s.fresh
          && writeReady c && seenAt c.lc c.lu (pipeUnit j) ≤ s.now then some k else none
    | _ => none

/-- The writes of an object of a core that could be made now as well, each by its stream and place in program order: operations at
their commit, and the BUMPs of other streams than the one that makes write `u` of that name. -/
def State.rivals (s : State) (core u : Nat) (ks : List Nat) : List (Nat × Nat) :=
  ((s.ops.filter fun p => p.core == core && p.uid != u && (s.opDsts p).any (fun x => ks.contains x.1) && s.atCommit p).map
      fun p => (p.strm, p.uid))
    ++ ((List.range 8).filter fun n => (u != s.fresh || 8 * core + n != s.cur) && (s.bumpNow (8 * core + n)).any ks.contains).map
      fun n => (n, s.fresh)

/-- Whether a write of a stream, in program order at `u`, is made before those of its rivals: the lower physical stream's goes
first, then the earlier in program order (R29). -/
def State.writeTurn (s : State) (core strm u : Nat) (ks : List Nat) : Bool :=
  (s.rivals core u ks).all fun p => !(p.1 < strm || (p.1 == strm && p.2 < u))

/-- An operation's write of its objects: in its turn; where other operations could make theirs as well the choice is logged, and made
in replay as the log says (R29, R345, R346). `s` stands where it cannot be made. -/
def writeAs (s s0 : State) (o : Op) (ks : List Nat) (go : State → Out) : Out :=
  let several := (s0.rivals o.core o.uid ks).any fun p => p.2 < s0.fresh
  let again := several && (s0.funOf (s0.ownerC o.ctx)).replay.isSome
  if again && !mayChoose s0 o.ctx 2 0 o.core (strmCyc o) then .next (replayWait s0 o.ctx 2 0 o.core (s0.taskOf o.tk).wlim)
  else if again || s0.writeTurn o.core o.strm o.uid ks then
    go (if several then logChoice s0 o.ctx 2 0 o.core (strmCyc o) else s0)
  else .next s

end Sys2Proof.Machine
end

