-- ==== Sys2Proof/Machine/Count.lean ====
section
/-!
DEFINITION. Counts and barriers: major 0x6 (R133 to R137), and the order of one stream's operations on an object
(R25).
-/
namespace Sys2Proof.Machine

/-! ### Count instructions -/

/-- A count instruction: the causes of its name under any guard (R380), then program order on the object, then
its act. With `skip` a false guard makes it a NOP; without, the guard changes nothing. The wait for program
order is no counted wait (DESIGN CHOICE, assumption 69). -/
def counted (h : Header) (spc : Spc) (i : Nat) (skip nop : Bool) (act : Nat → State → Out) (s : State) : Out :=
  match begin' h 6 s with
  | .out o => o
  | .go g s1 =>
    match nameFault s1.myTask spc i with
    | some c => raise s1 (pipeFault s1 c (some (spc.code, BitVec.ofNat 8 i)))
    | none =>
      let k := nameKey s1.myTask s1.myCore (s1.strmOf s1.cur).slot spc i
      if nop || (skip && !g) then retire h 8 s1
      else if s1.viewBlocked s1.cur k s1.fresh then stallU s1
      else act k s1

/-- TWAIT and DROP: `CountedRead`, then an effect on the counts (R133); the latest bump is seen first (R42). -/
def countRead (h : Header) (spc : Spc) (x : Src) (eff : Cnt → Nat → BitVec 16 → Cnt) (s : State) : Out :=
  counted h spc x.obj.toNat false (x.tag == 63) (fun k s1 =>
    let c := s1.cntOf k
    let t := (s1.strmOf s1.cur).tnum
    match countedRead c t x.tag with
    | .stale => raise s1 (pipeFault s1 0x05 (some (spc.code, x.obj)))
    | .wait => stallC s1 (some (spc.code, x.obj)) true
    | .ready =>
      if s1.now < seenAt c.wc c.wu (pipeUnit s1.cur) then stallC s1 (some (spc.code, x.obj)) true
      else retire h 8 (s1.setCnt k (eff c t (c.expect t x.tag)))) s

def execTwait (h : Header) (spc : Spc) (x : Src) (s : State) : Out :=
  countRead h spc x (fun c t e => c.setView t e) s

/-- A consuming read without data: start and retire in one cycle (R31). -/
def execDrop (h : Header) (spc : Spc) (x : Src) (s : State) : Out :=
  countRead h spc x (fun c t e => readRetire (readStart c t e) s.now (pipeUnit s.cur)) s

def execBump (h : Header) (spc : Spc) (x : Dst) (s : State) : Out :=
  counted h spc x.obj.toNat false false (fun k s1 =>
    let c := s1.cntOf k
    let free := writeReady c && seenAt c.lc c.lu (pipeUnit s1.cur) ≤ s1.now
    if free && s1.writeAt s1.now [k] == s1.now
        && s1.writeTurn s1.myCore (s1.cur % 8) s1.fresh [k] then
      retire h 8 (bump s1 k (s1.strmOf s1.cur).tnum x.rc (pipeUnit s1.cur))
    else stallC s1 (some (spc.code, x.obj)) !free) s

def execTsync (h : Header) (spc : Spc) (obj : BitVec 8) (s : State) : Out :=
  counted h spc obj.toNat true false (fun k s1 =>
    let c := s1.cntOf k
    retire h 8 (s1.setCnt k (c.setView (s1.strmOf s1.cur).tnum c.w))) s

/-- TREL clears the hold of a held version (R31). -/
def execTrel (h : Header) (spc : Spc) (obj : BitVec 8) (s : State) : Out :=
  counted h spc obj.toNat true false (fun k s1 =>
    let c := s1.cntOf k
    retire h 8 (s1.setCnt k (if c.h then { c with h := false, d := 0, l := 0, lc := s1.now, lu := pipeUnit s1.cur } else c))) s

/-- The image on its way to gd (R135): a count write of the same cycle still shows in it. -/
def setView (st : Stream) (now : Nat) (gd : G) (k : Nat) (c : Cnt) : Stream :=
  if gd = 0 then st
  else { st with pend := st.pend ||| (1 <<< gd.toNat)
                 arr := st.arr ++ [{ reg := gd.toNat, due := now + 2, val := viewImage c st.tnum, view := some (k, now) }] }

def execTview (h : Header) (gd : G) (spc : Spc) (obj : BitVec 8) (s : State) : Out :=
  counted h spc obj.toNat true false (fun k s1 =>
    withOperands { dst := some gd, var := true } s1 fun _ s2 =>
      retire h 8 (s2.setMe (setView (s2.strmOf s2.cur) s2.now gd k (s2.cntOf k)))) s

/-! ### Barriers -/

/-- The key of a physical barrier. -/
def barKey (core i : Nat) : Nat := 64 * core + i

/-- The barrier that a number names (R136): the gang's, kept at the core of rank 0, where that one has GANG set;
otherwise the core's own. So while rank 0's barrier of a number has GANG set, a core-scope BARINIT of another core's leaves the
number naming the gang's (DESIGN CHOICE, assumption 56). -/
def barOfName (s : State) (i : Nat) : Nat :=
  let t := s.myTask
  let t0 := s.taskOf (4 * t.gbase + t.gslots.getD 0 0)
  let k0 := barKey t.gbase ((winBar t0.win).1 + i)
  if (s.barOf k0).gang then k0 else barKey s.myCore ((winBar t.win).1 + i)

/-- The barrier that BARINIT initialises. -/
def barToInit (s : State) (i : Nat) (gang : Bool) : Nat :=
  let t := s.myTask
  if gang then barKey t.gbase ((winBar (s.taskOf (4 * t.gbase + t.gslots.getD 0 0)).win).1 + i)
  else barKey s.myCore ((winBar t.win).1 + i)

/-- The place of the current stream's target T(s) in a barrier. -/
def State.barLane (s : State) : Nat := 128 * s.myTask.grank + 16 * (s.strmOf s.cur).tnum

/-- T(s) at a place. -/
def Bar.target (b : Bar) (at' : Nat) : BitVec 16 := BitVec.ofNat 16 (bits b.t.toNat at' 16)

/-- Every stream's target. -/
def allTargets (v : BitVec 16) : BitVec 1024 := BitVec.ofNat 1024 (pack 16 (List.replicate 64 v.toNat))

/-- BARINIT's effect (R137). -/
def barInit (b : Bar) (count : BitVec 18) (gang : Bool) : Bar :=
  { b with n := count.setWidth 32, gang := gang, a := 0, t := allTargets (b.gen + 1) }

/-- An arrival (R137), in a cycle. -/
def barArrive (b : Bar) (at' now : Nat) : Bar :=
  let b1 := { b with t := BitVec.ofNat 1024 (setBits b.t.toNat at' 16 (b.gen + 1).toNat), a := b.a + 1 }
  if b1.a = b1.n then { b1 with a := 0, gen := b1.gen + 1, rel := now } else b1

/-- Whether the phase that a place waits for has completed. -/
def barPassed (b : Bar) (at' : Nat) : Bool := 0 ≤ diff16 b.gen (b.target at')

/-- Cycles from the completing arrival to the release of a waiting stream (R137). -/
def barLat (b : Bar) (k core : Nat) : Nat := if b.gang && k / 64 != core then 40 else 3

/-- Whether a stream may go on at a barrier in a cycle without having waited there. -/
def barFree (b : Bar) (at' now lat : Nat) : Bool :=
  barPassed b at' && (0 < diff16 b.gen (b.target at') || b.rel + lat ≤ now)

/-- The void issue of a BARSYNC: it leaves SYNCARR where that stands for the barrier that it names (R137). -/
def voidSync (h : Header) (i : BitVec 8) (s : State) : Out :=
  let st := s.strmOf s.cur
  match retire h 8 s with
  | .next t => .next (if st.syncBar = i.toNat then t.setMe { t.strmOf t.cur with syncArr := st.syncArr } else t)
  | o => o

/-- A barrier instruction (R136): under a true guard, the causes of its number, then its act. -/
def barrier (h : Header) (i : BitVec 8) (void act : State → Out) (s : State) : Out :=
  match begin' h 6 s with
  | .out o => o
  | .go g s1 =>
    if !g then void s1
    else if 64 ≤ i.toNat then raise s1 (pipeFault s1 0x06 (some (0, i)))
    else if (winBar s1.myTask.win).2 ≤ i.toNat then raise s1 (pipeFault s1 0x04 (some (0, i)))
    else act s1

/-- Act on an initialised barrier. -/
def onBar (s : State) (i : BitVec 8) (act : Nat → Bar → Out) : Out :=
  let k := barOfName s i.toNat
  if (s.barOf k).n = 0 then raise s (pipeFault s 0x0B (some (0, i))) else act k (s.barOf k)

/-- Wait at a barrier (R137): a stream that has waited goes on at its release. -/
def barWait (h : Header) (i : BitVec 8) (k : Nat) (s : State) : Out :=
  let st := s.strmOf s.cur
  let b := s.barOf k
  if st.barW.isNone && (barFree b s.barLane s.now (barLat b k s.myCore) || (st.wait.isSome && barPassed b s.barLane)) then
    retire h 8 (s.setMe { st with syncArr := false })
  else stallC (s.setMe { st with barW := some k }) (some (0, i))

def execBarinit (h : Header) (bar : BitVec 8) (count : BitVec 18) (gang : Bool) (s : State) : Out :=
  barrier h bar (retire h 8) (fun s1 =>
    let k := barToInit s1 bar.toNat gang
    retire h 8 (s1.setBar k (barInit (s1.barOf k) count gang))) s

def execBararr (h : Header) (bar : BitVec 8) (s : State) : Out :=
  barrier h bar (retire h 8) (fun s1 => onBar s1 bar fun k b => retire h 8 (s1.setBar k (barArrive b s1.barLane s1.now))) s

def execBarwait (h : Header) (bar : BitVec 8) (s : State) : Out :=
  barrier h bar (retire h 8) (fun s1 => onBar s1 bar fun k _ => barWait h bar k s1) s

/-- BARSYNC arrives once, and keeps its arrival while it waits (R137). -/
def execBarsync (h : Header) (bar : BitVec 8) (s : State) : Out :=
  barrier h bar (voidSync h bar) (fun s1 => onBar s1 bar fun k b =>
    let st := s1.strmOf s1.cur
    if st.syncArr && st.syncBar == bar.toNat then barWait h bar k s1
    else barWait h bar k ((s1.setBar k (barArrive b s1.barLane s1.now)).setMe
      { st with syncArr := true, syncBar := bar.toNat }).wake) s

/-- BARRIER_RELEASE (R42, R137): the streams of a core that wait on a physical barrier whose phase has completed
go on. A BARINIT made between the arrival that completed the phase and this release makes them wait again (DESIGN CHOICE,
assumption 56). -/
def execBarrierRelease (c bar : Nat) (s : State) : Out :=
  let go (k : Nat) : Option Nat :=
    let st := s.strmOf k
    match st.barW with
    | some b =>
      let x := s.barOf b
      let lane := 128 * (s.taskAt k).grank + 16 * st.tnum
      if b % 64 = bar && st.run == .run && (s.taskAt k).stat == .run && barPassed x lane then
        some (if 0 < diff16 x.gen (x.target lane) then s.now else x.rel + barLat x b c)
      else none
    | none => none
  let ks := if !s.coreRuns c then [] else (List.range 8).filterMap fun n => (go (8 * c + n)).map fun d => (8 * c + n, d)
  match leastBy (fun (a b : Nat × Nat) => a.2 < b.2) ks with
  | none => .next s
  | some m =>
    let s1 := s.upTo m.2
    .next ((ks.filter fun x => x.2 ≤ s1.now).foldl (fun s x => s.setStrm x.1 { s.strmOf x.1 with barW := none }) s1).wake

end Sys2Proof.Machine
end

