-- ==== Sys2Proof/Machine/Memory.lean ====
section
/-!
DEFINITION. Memory, spill, markers, waits, fences and atomics: majors 0x3 and 0x4 (R113 to R124).
-/
namespace Sys2Proof.Machine

/-- The machine check of a consumed HBM error (R326, R335, R336), at a memory key. -/
def hbmCheck (s : State) (ctx k : Nat) : State :=
  let loc := Config.hbmLoc k
  machineCheck s 2 (bits loc.toNat 32 3 / 2) 1 ctx loc 0

/-- The machine check of a consumed on-chip error (R334, R336): a core, a store code and an index. -/
def chipCheck (s : State) (core store idx ctx : Nat) : State :=
  machineCheck s 1 (quarterOf core) 1 ctx (BitVec.ofNat 64 (core % 2^8 + 2^8 * (store % 8) + 2^11 * (idx % 2^16))) 0

/-- Whether a poisoned word of an object lies in a range of its bytes. -/
def State.chipPoison (s : State) (core store obj lo n : Nat) : Bool :=
  s.obj.poison.any fun p => p.1 == core && p.2.1 == store && p.2.2.1 == obj && p.2.2.2 * 8 < lo + n && lo < p.2.2.2 * 8 + 8

/-- A fault at issue, with the state it is taken in. -/
abbrev Refused := FaultRec × State

/-- The location of a scalar access to memory of `n` bytes (R70, R114, R123, R318, R335): alignment, then
translation, then what the page and the place permit, then poison (DEDUCED, assumption 6). -/
def memAt (s : State) (a : Word) (n : Nat) (nd : Need) : Except Refused (Place × State) :=
  let wr := nd.writes
  if a.toNat % n != 0 then .error (pipeFault s 0x0C none a wr, s)
  else match translate s s.myCore s.myCtx a.toNat nd with
    | .walkFault c => .error (pipeFault s (if wr then 0x0A else 0x09) none a wr 0 false c, s)
    | .attr => .error (pipeFault s 0x0B none a wr, s)
    | .ok l _ s1 =>
      if !reachable s1 s1.myCtx l then .error (pipeFault s 0x0B none a wr, s)
      else if s1.poisoned (memKey l) n then
        .error (pipeFault s 0x10 none a wr, hbmCheck s s.myCtx (memKey l))
      else .ok (.mem l, s1)

/-- The place of a scalar ABF address in the frames of a core of the gang (R18, R124). -/
def abfPlace (s : State) (a : Nat) : Place :=
  let t := s.myTask
  let gc := abfGC a
  let c := t.gbase + gc
  let t2 := s.taskOf (4 * c + t.gslots.getD gc 0)
  .frm c ((winOf t2.win .f).1 + abfOff a / 4096) (abfOff a % 4096)

/-- The place of a scalar ABF access after the causes its address takes. -/
def abfAt (s : State) (a : Word) (n : Nat) (wr rd : Bool) (cause : Option Nat) : Except Refused (Place × State) :=
  match cause with
  | some c => .error (pipeFault s c none (if c = 0x04 then 0 else a) wr, s)
  | none =>
    match abfPlace s a.toNat with
    | .frm c f o =>
      if rd && s.chipPoison c 3 f o n then .error (pipeFault s 0x10 none a wr, chipCheck s c 3 f s.myCtx)
      else .ok (.frm c f o, s)
    | p => .ok (p, s)

/-- Whether the load queue, or the store queue, of the current stream has an entry free (R116). -/
def lsRoom (s : State) (load : Bool) : Bool :=
  let st := s.strmOf s.cur
  if load then st.mq.countP (fun a => a.loads || a.isMark) + st.arr.countP (·.load) < 32
  else st.mq.countP (fun a => a.stores || a.isMark) < 32

/-- Put an access at the tail of its queue: its counter goes up, and a destination becomes pending (R12, R113). -/
def enterAcc (s : State) (a : Acc) : State :=
  let st := s.strmOf s.cur
  s.setMe { st with
    mq := st.mq ++ [{ a with seq := s.fresh }], cntL := if a.loads then st.cntL + 1 else st.cntL, cntS := if a.stores then st.cntS + 1 else st.cntS
    pend := if a.loads && a.reg != 0 then st.pend ||| ((1 : BitVec 32) <<< a.reg) else st.pend }

/-- An access at issue: its operands, room in its queue, the causes of its address, then entry. -/
def access (h : Header) (mj : Nat) (u : Use) (load : Bool)
    (mk : List Word → State → Except Refused (Acc × State)) (s : State) : Out :=
  guarded h mj s fun s1 =>
    if !lsRoom s1 load then stallU s1
    else withOperands u s1 fun v s2 =>
      match mk v s2 with
      | .error (f, s3) => raise (s3.setMe (s1.strmOf s1.cur)) f
      | .ok (a, s3) => retire h 8 (enterAcc s3 a)

/-- A = G(ga) + SExt(disp30, 30) (R113). -/
def dispAddr (a : Word) (d : BitVec 30) : Word := a + d.signExtend 64

/-- Whether a load of a size extends the sign. -/
def szSigned : Sz → Bool
  | .s8 | .s16 | .s32 => true
  | _ => false

/-- The load of a place. -/
def ldAcc (sz : Sz) (gd : G) (va : Word) (p : Place) (due : Nat) : Acc :=
  { kind := .ld (szSigned sz), place := p, size := szBytes sz, reg := gd.toNat, va := va, due := due }
/-- The store to a place. -/
def stAcc (sz : Sz) (v va : Word) (p : Place) (due : Nat) : Acc :=
  { kind := .st, place := p, size := szBytes sz, val := v, va := va, due := due }

/-- Shortest latencies of R42, in cycles. -/
def latMem : Nat := 320
def latFrame : Nat := 6
def latGang : Nat := 40

def execLd (h : Header) (sz : Sz) (g ga : G) (disp : BitVec 30) (s : State) : Out :=
  access h 3 { srcs := [ga], dst := some g, var := true } true (fun v s =>
    let a := dispAddr (arg v 0) disp
    (memAt s a (szBytes sz) .r).map fun p => (ldAcc sz g a p.1 (s.now + latMem), p.2)) s

/-- ST reads gs in the gd field after its address (R60, R90). -/
def execSt (h : Header) (sz : Sz) (g ga : G) (disp : BitVec 30) (s : State) : Out :=
  access h 3 { srcs := [ga, g] } false (fun v s =>
    let a := dispAddr (arg v 0) disp
    (memAt s a (szBytes sz) .w).map fun p => (stAcc sz (arg v 1) a p.1 s.now, p.2)) s

def execLda (h : Header) (sz : Sz) (g ga : G) (disp : BitVec 30) (s : State) : Out :=
  access h 3 { srcs := [ga], dst := some g, var := true } true (fun v s =>
    let a := dispAddr (arg v 0) disp
    (abfAt s a (szBytes sz) false true (abfFault s.myTask a.toNat (szBytes sz))).map fun p =>
      (ldAcc sz g a p.1 (s.now + latFrame), p.2)) s

def execSta (h : Header) (sz : Sz) (g ga : G) (disp : BitVec 30) (s : State) : Out :=
  access h 3 { srcs := [ga, g] } false (fun v s =>
    let a := dispAddr (arg v 0) disp
    (abfAt s a (szBytes sz) true false (abfFault s.myTask a.toNat (szBytes sz))).map fun p =>
      (stAcc sz (arg v 1) a p.1 s.now, p.2)) s

/-- A poisoned word of spill memory takes cause 0x10 (R334). -/
def execSpld (h : Header) (g : G) (off : BitVec 30) (s : State) : Out :=
  guarded h 3 s fun s1 =>
    if s1.chipPoison s1.myCore 5 (s1.cur % 8) off.toNat 8 then
      raise (chipCheck s1 s1.myCore 5 (s1.cur % 8) s1.myCtx) (pipeFault s1 0x10)
    else withOperands { dst := some g } s1 fun _ s2 =>
      let st := s2.strmOf s2.cur
      retire h 8 (s2.setMe (setG st s2.now g (mget 0 st.spill (off.toNat / 8)) 1 false))

/-- A store to spill memory overwrites a word whole, which clears its poison (R334). -/
def clearSpill (s : State) (w : Nat) : State :=
  s.setObj { s.obj with poison := s.obj.poison.filter (· != (s.myCore, 5, s.cur % 8, w)) }

def execSpst (h : Header) (g : G) (off : BitVec 30) (s : State) : Out :=
  guarded h 3 s fun s1 => withOperands { srcs := [g] } s1 fun v s2 =>
    let st := s2.strmOf s2.cur
    retire h 8 ((clearSpill s2 (off.toNat / 8)).setMe { st with spill := mput 0 st.spill (off.toNat / 8) (arg v 0) })

/-- LSMARK (R118): it enters its marker even where a queue is full. -/
def execLsmark (h : Header) (s : State) : Out :=
  guarded h 3 s fun s1 =>
    let st := s1.strmOf s1.cur
    retire h 8 (s1.setMe { st with
      mq := trimMarks false (st.mq ++ [{ kind := .mark, place := .mem ⟨.host, 0⟩, size := 0 }]) })

/-- Whether a counter meets a limit; 63 bounds nothing (R119). -/
def within (n : BitVec 10) (lim : BitVec 6) : Bool := lim == 63 || n.toNat ≤ lim.toNat

def execWaitc (h : Header) (l sl c t : BitVec 6) (s : State) : Out :=
  guarded h 3 s fun s1 =>
    let st := s1.strmOf s1.cur
    if within st.cntL l && within st.cntS sl && within st.cntC c && within st.cntT t then retire h 8 s1
    else stallU (s1.setMe { st with wtc := some st.pc })

/-- The condition of a fence (R120). Performance is at every scope at once (R252). -/
def fenceOk (s : State) (sc : Scope) (k : FKind) : Bool :=
  let st := s.strmOf s.cur
  match k with
  | .full => sc == .strm || st.mq.all (·.isMark)
  | .st => sc == .strm || st.mq.all fun a => a.isMark || a.isLd
  | .ld => sc == .strm || (st.mq.all (fun a => !a.loads) && st.arr.all fun a => !a.load)
  | .eng => st.mq.all (·.isMark) && drained s s.cur

def execFence (h : Header) (sc : Scope) (kind : FKind) (s : State) : Out :=
  guarded h 3 s fun s1 => if fenceOk s1 sc kind then retire h 8 s1 else stallU s1

/-- Bytes of an atomic. -/
def amoBytes (w64 : Bool) : Nat := if w64 then 8 else 4

/-- An atomic in memory, with the restriction of host memory (R123). -/
def memAtomic (s : State) (a : Word) (n : Nat) (hostOk : Bool) : Except Refused (Place × State) :=
  match memAt s a n .rw with
  | .error e => .error e
  | .ok (p, s1) => match p with
    | .mem ⟨.host, _⟩ => if hostOk then .ok (p, s1) else .error (pipeFault s 0x0B none a true, s)
    | _ => .ok (p, s1)

/-- Cycles of an ABF atomic: the core's own frames, or another core's of the gang (R124). -/
def abfLat (s : State) (a : Word) : Nat := if abfGC a.toNat = s.myTask.grank then latFrame else latGang

def execAmo (h : Header) (op : AmoOp) (w64 : Bool) (sc : Scope) (ord : Ord) (gd ga gb : G) (s : State) : Out :=
  access h 4 { srcs := [ga, gb], dst := some gd, var := true } true (fun v s =>
    (memAtomic s (arg v 0) (amoBytes w64) (op == .add || op == .xchg)).map fun p =>
      ({ kind := .amo op, place := p.1, size := amoBytes w64, reg := gd.toNat, val := arg v 1, scope := sc, ord := ord
         va := arg v 0, due := s.now + latMem }, p.2)) s

def execCas (h : Header) (w64 : Bool) (sc : Scope) (ord : Ord) (gd ga gb : G) (s : State) : Out :=
  access h 4 { srcs := [ga, gb, gd], dst := some gd, var := true } true (fun v s =>
    (memAtomic s (arg v 0) (amoBytes w64) true).map fun p =>
      ({ kind := .cas, place := p.1, size := amoBytes w64, reg := gd.toNat, val := arg v 1, cmp := arg v 2, scope := sc
         ord := ord, va := arg v 0, due := s.now + latMem }, p.2)) s

def execAmoa (h : Header) (op : AmoOp) (w64 : Bool) (sc : Scope) (ord : Ord) (gd ga gb : G) (s : State) : Out :=
  access h 4 { srcs := [ga, gb], dst := some gd, var := true } true (fun v s =>
    let n := amoBytes w64
    (abfAt s (arg v 0) n true true (abfAtomFault s.myTask sc (arg v 0).toNat n)).map fun p =>
      ({ kind := .amo op, place := p.1, size := n, reg := gd.toNat, val := arg v 1, scope := sc, ord := ord
         va := arg v 0, due := s.now + abfLat s (arg v 0) }, p.2)) s

def execCasa (h : Header) (w64 : Bool) (sc : Scope) (ord : Ord) (gd ga gb : G) (s : State) : Out :=
  access h 4 { srcs := [ga, gb, gd], dst := some gd, var := true } true (fun v s =>
    let n := amoBytes w64
    (abfAt s (arg v 0) n true true (abfAtomFault s.myTask sc (arg v 0).toNat n)).map fun p =>
      ({ kind := .cas, place := p.1, size := n, reg := gd.toNat, val := arg v 1, cmp := arg v 2, scope := sc, ord := ord
         va := arg v 0, due := s.now + abfLat s (arg v 0) }, p.2)) s

/-! ### Their steps -/

/-- PENDING_VALUE_ARRIVAL (R42, R89): the value is written, and its register is no longer pending. -/
def execPendingValueArrival (c n k : Nat) (s : State) : Out :=
  let sk := 8 * c + n
  let st := s.strmOf sk
  match st.arr[k]? with
  | none => .next s
  | some a =>
    if !s.coreRuns c then .next s
    else
      let s1 := s.upTo a.due
      .next (s1.setStrm sk { st with
        arr := st.arr.eraseIdx k, g := if a.reg = 0 then st.g else mput 0 st.g a.reg a.val
        pend := st.pend &&& ~~~((1 : BitVec 32) <<< a.reg), cntL := if a.load then st.cntL - 1 else st.cntL }).wake

/-- Whether another stream's atomic on the same location waits at its home (R345). -/
def atomRival (s : State) (sk : Nat) (a : Acc) : Bool :=
  s.strm.any fun e => e.1 != sk && (match e.2.mq with
    | b :: _ => b.isAtom && b.meets a
    | [] => false)

/-- The unit that a location's home is, as the order log names it: its stack, or the core of a frame. -/
def Place.unit : Place → Nat
  | .mem l => bits (Config.hbmLoc (memKey l)).toNat 32 3
  | .frm c _ _ => c

/-- ACCESS_PERFORMED (R252 to R256). -/
def execAccessPerformed (c n k : Nat) (s : State) : Out :=
  let sk := 8 * c + n
  match (s.strmOf sk).mq[k]? with
  | none => .next s
  | some a =>
    if !mayPerform s sk k || (s.coreOf c).frz.isSome then .next s
    else
      let u := a.place.unit
      let ctx := (s.taskAt sk).ctx
      let several := a.isAtom && atomRival s sk a
      if several && !mayChoose s ctx 3 u u sk then .next (replayWait s ctx 3 u u (s.taskAt sk).wlim)
      else .next (performAt (if several then logChoice s ctx 3 u u sk else s) sk k).wake

end Sys2Proof.Machine
end

