-- ==== Sys2Proof/Machine/VecVal.lean ====
section
/-!
DEFINITION. What the vector engine computes (R138 to R186, R202 to R204): lanes and spans, the lane
functions of majors 0x7 to 0x9, and the values that loads, stores, drains and fills move. A value of a
store is its image as a number, byte 0 lowest.
-/
namespace Sys2Proof.Machine

/-! ### FPC (R93) -/

/-- The rounding mode that FPC.RM names. -/
def fpcRM (c : BitVec 32) : RM :=
  match bits c.toNat 0 2 with
  | 0 => .rne
  | 1 => .rz
  | 2 => .ru
  | _ => .rd
def fpcSR (c : BitVec 32) : Bool := bitN c.toNat 2
def fpcFZ (c : BitVec 32) : Bool := bitN c.toNat 3
def fpcDAZ (c : BitVec 32) : Bool := bitN c.toNat 4
def fpcSAT (c : BitVec 32) : Bool := bitN c.toNat 13
/-- The environment of lane arithmetic (R145). -/
def fpcEnv (c : BitVec 32) : REnv := ⟨fpcRM c, fpcFZ c⟩

/-! ### Lanes (R138, R139) -/

/-- Whether a type is signed. -/
def Ty.signed (t : Ty) : Bool :=
  match t with
  | .s8 | .s16 | .s32 | .s4 | .s64 => true
  | _ => false

/-- The elements of a register span, in order. -/
def lanesOf (t : Ty) : List Nat → List Nat
  | [] => []
  | [r] => if t = .e3m2 || t = .e2m3 then (unpack 8 512 r).map (· % 64) else unpack (Ty.w t) t.lpr r
  | r :: o :: rs =>
    if t = .s64 then
      List.zipWith (fun a b => a + 2^32 * b) (unpack 32 128 r) (unpack 32 128 o) ++ lanesOf t rs
    else if t = .e3m2 || t = .e2m3 then (unpack 8 512 r).map (· % 64) ++ lanesOf t (o :: rs)
    else unpack (Ty.w t) t.lpr r ++ lanesOf t (o :: rs)

/-- The registers that hold elements in order, `n` spans of one register (or one pair). -/
def regsOf (t : Ty) : Nat → List Nat → List Nat
  | 0, _ => []
  | n + 1, els =>
    let a := els.take t.lpr
    (if t = .s64 then [pack 32 a, pack 32 (a.map (· / 2^32))] else [pack (Ty.w t) a])
      ++ regsOf t n (els.drop t.lpr)

/-- The registers that `n` elements fill. -/
def toRegs (t : Ty) (els : List Nat) : List Nat := regsOf t (ceilDiv els.length t.lpr) els

/-- What an operation writes and raises: the values of its destinations in order, each as byte offset,
bytes and value; its flags; and the rounding states after it, where it advances them. -/
structure VRes where
  dst   : List (List (Nat × Nat × Nat)) := []
  fl    : Nat := 0
  lanes : Option (BitVec 4096) := none
  deriving DecidableEq, Repr

/-- A result of whole tile registers. -/
def VRes.regs (rs : List Nat) (fl : Nat) : VRes := { dst := rs.map fun r => [(0, 512, r)], fl := fl }

/-- Elements and the flags of all of them. -/
def gather (l : List (Nat × Nat)) : List Nat × Nat := (l.map (·.1), l.foldl (fun a x => a ||| x.2) 0)

/-- Apply a function of two elements lane by lane. -/
def lane2 (t : Ty) (f : Nat → Nat → Nat × Nat) (a b : List Nat) : VRes :=
  let r := gather (List.zipWith f (lanesOf t a) (lanesOf t b))
  VRes.regs (toRegs t r.1) r.2

/-- Apply a function bit by bit to whole registers: the same for every type (R148, R150), also where R138 has bits that a lane
does not use (DEDUCED, assumption 59). -/
def bitwise (f : Nat → Nat → Nat) (a b : List Nat) : VRes := VRes.regs (List.zipWith f a b) 0

/-- Apply a function of one element lane by lane. -/
def lane1 (t : Ty) (f : Nat → Nat × Nat) (a : List Nat) : VRes :=
  let r := gather ((lanesOf t a).map f)
  VRes.regs (toRegs t r.1) r.2

/-! ### Lane functions of major 0x7 -/

/-- A two-source floating-point lane under FPC (R145). -/
def fl2 (t : Ty) (c : BitVec 32) (f : Fmt → REnv → FV → FV → Nat × Nat) (x y : Nat) : Nat × Nat :=
  f (fmtOf t) (fpcEnv c) (fdec (fmtOf t) (fpcDAZ c) x) (fdec (fmtOf t) (fpcDAZ c) y)

/-- An element as an integer by its type. -/
def ival (t : Ty) (x : Nat) : Int := if Ty.signed t then sgn x (Ty.w t) else (x % 2^(Ty.w t) : Nat)

def laneAdd (t : Ty) (c : BitVec 32) (x y : Nat) : Nat × Nat :=
  if t.isF then fl2 t c fadd x y else ((x + y) % 2^(Ty.w t), 0)
def laneSub (t : Ty) (c : BitVec 32) (x y : Nat) : Nat × Nat :=
  if t.isF then fl2 t c fsub x y else (uns ((x : Int) - y) (Ty.w t), 0)
def laneMul (t : Ty) (c : BitVec 32) (x y : Nat) : Nat × Nat :=
  if t.isF then fl2 t c fmul x y else (x * y % 2^(Ty.w t), 0)
def laneMinMax (t : Ty) (mx : Bool) (c : BitVec 32) (x y : Nat) : Nat × Nat :=
  if t.isF then fminmax (fmtOf t) (fpcDAZ c) mx x y
  else if mx then (if ival t x < ival t y then y else x, 0)
  else (if ival t y < ival t x then y else x, 0)
def laneFma (t : Ty) (c : BitVec 32) (x y z : Nat) : Nat × Nat :=
  let d := fdec (fmtOf t) (fpcDAZ c)
  ffma (fmtOf t) (fpcEnv c) (d x) (d y) (d z)
def laneShl (t : Ty) (x y : Nat) : Nat × Nat := (x * 2^(y % Ty.w t) % 2^(Ty.w t), 0)
def laneShr (t : Ty) (x y : Nat) : Nat × Nat := (x / 2^(y % Ty.w t), 0)
def laneSra (t : Ty) (x y : Nat) : Nat × Nat :=
  (uns (sgn x (Ty.w t) / (2^(y % Ty.w t) : Nat)) (Ty.w t), 0)
/-- VABS (R150). -/
def laneAbs (t : Ty) (x : Nat) : Nat × Nat :=
  if t.isF then (x % 2^(Ty.w t - 1), 0) else (uns (ival t x).natAbs (Ty.w t), 0)
/-- VNEG (R150). -/
def laneNeg (t : Ty) (x : Nat) : Nat × Nat :=
  if t.isF then (x ^^^ 2^(Ty.w t - 1), 0) else (uns (-(x : Int)) (Ty.w t), 0)

/-- Whether a condition holds of two operands, with its flags (R151). -/
def laneCond (cond : Cond) (t : Ty) (c : BitVec 32) (x y : Nat) : Bool × Nat :=
  if t.isF then
    let a := fdec (fmtOf t) (fpcDAZ c) x
    let b := fdec (fmtOf t) (fpcDAZ c) y
    let nan := a.isNaN || b.isNaN
    let less := a.lt b && !a.eqv b
    let more := b.lt a && !a.eqv b
    match cond with
    | .eq => (!nan && a.eqv b, flagIf (a.isSig || b.isSig) fINV)
    | .ne => (nan || !a.eqv b, flagIf (a.isSig || b.isSig) fINV)
    | .lt => (!nan && less, flagIf nan fINV)
    | .le => (!nan && !more, flagIf nan fINV)
    | .gt => (!nan && more, flagIf nan fINV)
    | .ge => (!nan && !less, flagIf nan fINV)
  else
    let a := ival t x
    let b := ival t y
    (match cond with
      | .eq => a = b
      | .ne => a ≠ b
      | .lt => a < b
      | .le => a ≤ b
      | .gt => b < a
      | .ge => b ≤ a, 0)

/-- VCMP's lane (R151). -/
def laneCmp (cond : Cond) (t : Ty) (c : BitVec 32) (x y : Nat) : Nat × Nat :=
  let r := laneCond cond t c x y
  (if r.1 then 2^(Ty.w t) - 1 else 0, r.2)

/-- Three-source lanes. -/
def lane3 (t : Ty) (f : Nat → Nat → Nat → Nat × Nat) (a b d : List Nat) : VRes :=
  let r := gather (List.zipWith (fun (p : Nat × Nat) z => f p.1 p.2 z)
    (List.zip (lanesOf t a) (lanesOf t b)) (lanesOf t d))
  VRes.regs (toRegs t r.1) r.2

/-- VIOTA's lane number in a type (R153). -/
def iota (t : Ty) (i : Nat) : Nat :=
  if t.isF then (ffin (fmtOf t) {} false i 0 false).1 else i % 2^(Ty.w t)

/-- The wider type of VWMUL and VWADD (R156). -/
def wider : Ty → Ty
  | .bf16 | .f16 => .f32
  | .s8 => .s16
  | .n8 => .n16
  | .s16 => .s32
  | .n16 => .n32
  | _ => .s64

/-- VWMUL and VWADD's lane: in f32 by R145, exact otherwise. -/
def laneWide (t : Ty) (mul : Bool) (c : BitVec 32) (x y : Nat) : Nat × Nat :=
  if t.isF then
    let a := fdec (fmtOf t) (fpcDAZ c) x
    let b := fdec (fmtOf t) (fpcDAZ c) y
    if mul then fmul f32F (fpcEnv c) a b else fadd f32F (fpcEnv c) a b
  else
    (uns (if mul then ival t x * ival t y else ival t x + ival t y) (Ty.w (wider t)), 0)

/-- VWMUL and VWADD: the pair of the wider type, in block order. -/
def wide2 (t : Ty) (mul : Bool) (c : BitVec 32) (a b : List Nat) : VRes :=
  let r := gather (List.zipWith (laneWide t mul c) (lanesOf t a) (lanesOf t b))
  VRes.regs (toRegs (wider t) r.1) r.2

/-- VRCP's lane (R157, R158). -/
def laneRcp (c : BitVec 32) (x : Nat) : Nat × Nat :=
  fdiv f32F (fpcEnv c) (.num false 1 0) (fdec f32F (fpcDAZ c) x)

/-- VPERM (R155). -/
def permLanes (a ix : List Nat) : List Nat := ix.map fun j => if j < 128 then a.getD j 0 else 0

/-! ### Conversions (R159 to R166) -/

/-- One step of a lane's rounding state (R243). -/
def srStep (s : Nat) : Nat :=
  let s1 := s ^^^ (s * 2^13 % 2^32)
  let s2 := s1 ^^^ (s1 / 2^17)
  s2 ^^^ (s2 * 2^5 % 2^32)

/-- The draws of `n` passes over the 128 states, in element order, and the states after them (R161). -/
def srDraws : Nat → List Nat → List Nat × List Nat
  | 0, ls => ([], ls)
  | n + 1, ls =>
    let l1 := ls.map srStep
    let r := srDraws n l1
    (l1.map (· / 2^16) ++ r.1, r.2)

/-- A conversion into a floating-point type of a decoded value (R162). -/
def cvtF (toT : Ty) (rm : RM) (fz sat : Bool) (x : FV) : Nat × Nat :=
  let f := fmtOf toT
  let small := f.nan.isNone
  match x with
  | .nan s => if small then (0, fINV) else (f.qnan, flagIf s fINV)
  | .inf neg =>
    if small then (f.enc neg f.maxM, fSAT)
    else if f.inf.isNone then (if sat then (f.enc neg f.maxM, fSAT) else (f.qnan, 0))
    else (f.enc neg (f.inf.getD 0), 0)
  | .num neg m e =>
    let (mag, inx, tiny) := roundMag f rm neg m e false
    if f.maxM < mag then
      if small || sat then (f.enc neg f.maxM, fOVF ||| fINX ||| fSAT)
      else if f.inf.isNone then (f.qnan, fOVF ||| fINX)
      else (f.enc neg (ovfMag f rm neg), fOVF ||| fINX)
    else if fz && tiny then (f.enc neg 0, fUNF ||| fINX)
    else (f.enc neg mag, flagIf inx fINX ||| flagIf (tiny && inx) fUNF)

/-- The least and greatest integer of a type. -/
def Ty.range (t : Ty) : Int × Int :=
  if Ty.signed t then (-(2^(Ty.w t - 1) : Nat), (2^(Ty.w t - 1) : Nat) - 1) else (0, (2^(Ty.w t) : Nat) - 1)

/-- A floating-point value to an integer type (R163). -/
def cvtFI (toT : Ty) (rm : RM) (x : FV) : Nat × Nat :=
  let lo := (Ty.range toT).1
  let hi := (Ty.range toT).2
  match x with
  | .nan _ => (0, fINV)
  | .inf neg => (uns (if neg then lo else hi) (Ty.w toT), fINV ||| fSAT)
  | .num neg m e =>
    let (k, rem, sh) := quanta m e 0
    let k1 := k + (roundsUp rm neg k rem sh false).toNat
    let v : Int := if neg then -(k1 : Int) else k1
    if v < lo then (uns lo (Ty.w toT), fINV ||| fSAT)
    else if hi < v then (uns hi (Ty.w toT), fINV ||| fSAT)
    else (uns v (Ty.w toT), flagIf (rem != 0) fINX)

/-- One element from a type to another (R159, R162, R163). -/
def cvtElem (toT fr : Ty) (rm : RM) (c : BitVec 32) (x : Nat) : Nat × Nat :=
  if toT = fr then (x, 0)
  else if fr.isFloat then
    let v := fdec (fmtOf fr) (fpcDAZ c) x
    if toT.isFloat then cvtF toT rm (fpcFZ c) (fpcSAT c) v else cvtFI toT rm v
  else
    let v := ival fr x
    if toT.isFloat then cvtF toT rm (fpcFZ c) (fpcSAT c) (.num (v < 0) v.natAbs 0)
    else if Ty.w fr < Ty.w toT then (uns v (Ty.w toT), 0)
    else if fpcSAT c then
      if v < (Ty.range toT).1 then (uns (Ty.range toT).1 (Ty.w toT), fSAT)
      else if (Ty.range toT).2 < v then (uns (Ty.range toT).2 (Ty.w toT), fSAT)
      else (uns v (Ty.w toT), 0)
    else (uns v (Ty.w toT), 0)

/-- The mode that a rounding code names (R160); none for stochastic. -/
def rndMode (rnd : Nat) (sr : Bool) (c : BitVec 32) : Option RM :=
  match rnd with
  | 0 => if sr && fpcSR c then none else some (fpcRM c)
  | 1 => some .rne
  | 2 => some .rz
  | 3 => some .ru
  | 4 => some .rd
  | _ => none

/-- Convert the elements of a span, with the stream's rounding states (R159 to R163). -/
def cvtSpan (toT fr : Ty) (rnd : Nat) (c : BitVec 32) (ls : BitVec 4096) (els : List Nat) : VRes :=
  match rndMode rnd (Ty.narrows fr toT) c with
  | some rm =>
    let r := gather (els.map (cvtElem toT fr rm c))
    VRes.regs (toRegs toT r.1) r.2
  | none =>
    let d := srDraws (els.length / 128) (unpack 32 128 ls.toNat)
    let r := gather (List.zipWith (fun x q => cvtElem toT fr (.sr q) c x) els d.1)
    { VRes.regs (toRegs toT r.1) r.2 with lanes := some (BitVec.ofNat 4096 (pack 32 d.2)) }

/-- emax of MXBlock (R164). -/
def mxEmax : Ty → Int
  | .e4m3 => 8
  | .e5m2 => 15
  | .e3m2 => 4
  | .e2m3 => 2
  | .e2m1 => 2
  | _ => 0

/-- An element of an MX block from its scaled exact value (R164). -/
def mxElem (t : Ty) (neg : Bool) (m : Nat) (e : Int) : Nat × Nat :=
  if t = .s8 then
    let (k, rem, sh) := quanta m (e + 6) 0
    let k1 := k + (roundsUp .rne neg k rem sh false).toNat
    if 127 < k1 then (uns (if neg then -127 else 127) 8, fOVF ||| fINX ||| fSAT)
    else (uns (if neg then -(k1 : Int) else k1) 8, flagIf (rem != 0) fINX)
  else
    let f := fmtOf t
    let (mag, inx, tiny) := roundMag f .rne neg m e false
    if f.maxM < mag then (f.enc neg f.maxM, fOVF ||| fINX ||| fSAT)
    else (f.enc neg mag, flagIf inx fINX ||| flagIf (tiny && inx) fUNF)

/-- Floor(Log2) of a decoded finite value's magnitude. -/
def FV.top : FV → Option Int
  | .num _ m e => if m = 0 then none else some ((Nat.log2 m : Int) + e)
  | _ => none

/-- MXBlock (R164): 32 elements with their flags, and the scale. -/
def mxBlock (t : Ty) (xs : List FV) : List (Nat × Nat) × Nat :=
  if xs.any fun x => match x with
    | .num _ _ _ => false
    | _ => true
  then (xs.map fun _ => (0, fINV), 0xFF)
  else
    let e : Int := match xs.filterMap FV.top with
      | [] => -127
      | a :: as =>
        let p := as.foldl (fun x y => if x < y then y else x) a - mxEmax t
        if p < -127 then -127 else if 127 < p then 127 else p
    (xs.map fun x => match x with
      | .num neg m ex => if m = 0 then mxElem t neg 0 0 else mxElem t neg m (ex - e)
      | _ => (0, 0), (e + 127).toNat)

/-- Cut a list into runs of 32. -/
def runs32 : Nat → List α → List (List α)
  | 0, _ => []
  | n + 1, l => l.take 32 :: runs32 n (l.drop 32)

/-- Quantise elements into blocks: the element registers, the scale register, the flags. -/
def mxQuant (t : Ty) (xs : List FV) : List Nat × Nat × Nat :=
  let bs := (runs32 (xs.length / 32) xs).map (mxBlock t)
  let r := gather (bs.flatMap (·.1))
  (toRegs t r.1, pack 8 (bs.map (·.2)), r.2)

/-- VDEQ's element (R166). -/
def deqElem (t toT : Ty) (c : BitVec 32) (x scale : Nat) : Nat × Nat :=
  if scale = 0xFF then ((fmtOf toT).qnan, 0)
  else
    let v := if t = .s8 then
        (let k := sgn x 8; FV.num (k < 0) k.natAbs (-6))
      else fdec (fmtOf t) false x
    cvtF toT (fpcRM c) (fpcFZ c) (fpcSAT c) (match v with
      | .num n m e => .num n m (e + scale - 127)
      | y => y)

/-! ### Statistics, reductions and attention of major 0x9 -/

/-- The triples of three registers. -/
def triples (rs : List Nat) : List Triple :=
  List.zipWith (fun (p : Nat × Nat) z => ⟨p.1, p.2, z⟩)
    (List.zip (unpack 32 128 (rs.getD 0 0)) (unpack 32 128 (rs.getD 1 0))) (unpack 32 128 (rs.getD 2 0))

/-- The three registers of triples. -/
def triRegs (ts : List Triple) : List Nat := [pack 32 (ts.map (·.w)), pack 32 (ts.map (·.mu)), pack 32 (ts.map (·.m2))]

/-- Update a triple with samples in order (R170). -/
def statRun : Triple → List (Nat × Nat) → FM Triple
  | t, [] => FM.ret t
  | t, (x, w) :: r => FM.andThen (statUpdate t x w) fun t' => statRun t' r

/-- Apply a flag-gathering function along a list. -/
def mapFM (f : α → FM β) : List α → FM (List β)
  | [] => FM.ret []
  | x :: xs => FM.andThen (f x) fun y => FM.andThen (mapFM f xs) fun ys => FM.ret (y :: ys)

/-- VSTAT and VSTATW (R170). -/
def statVal (lg : Nat) (ts : List Nat) (x w : Nat) : VRes :=
  let s := 2^lg
  let sm := List.zip (unpack 32 128 x) (unpack 32 128 w)
  let r := mapFM (fun (p : Nat × Triple) =>
    if p.1 < 128 / s then statRun p.2 ((sm.drop (p.1 * s)).take s) else FM.ret p.2)
    (List.zip (List.range 128) (triples ts)) 0
  VRes.regs (triRegs r.1) r.2

/-- A drain of one triple other than norm (R172). -/
def drainOne (opt : Nat) (fill : Nat) (t : Triple) (eps : Nat) : FM Nat :=
  if isZ32 t.w then FM.of (if opt = 1 || opt = 2 then 0 else fill, fEMP)
  else match opt with
    | 0 => FM.ret (if (fdec f32F false t.mu).isNaN then qNaN else t.mu)
    | 1 => rDiv t.m2 t.w
    | 2 => FM.andThen (rSub t.w 0x3F800000) fun w1 =>
        if isZ32 w1 || (bitN w1 31 && !(fdec f32F false w1).isNaN) then FM.of (qNaN, fINV) else rDiv t.m2 w1
    | 3 => FM.andThen (rDiv t.m2 t.w) fun v => FM.andThen (rAdd v eps) rRsq
    | _ => rMul t.w t.mu

/-- A lane of the norm drain (R173). -/
def drainNorm (fill : Nat) (t : Triple) (eps : Nat) (x : Nat) (aff : Option (Nat × Nat)) : FM Nat :=
  if isZ32 t.w then FM.of (fill, fEMP)
  else
    FM.andThen (rDiv t.m2 t.w) fun var =>
    FM.andThen (rAdd var eps) fun ve =>
    FM.andThen (rRsq ve) fun rs =>
    FM.andThen (rSub x t.mu) fun d =>
    FM.andThen (rMul d rs) fun z =>
    match aff with
    | none => FM.ret z
    | some (ga, be) => rFma z ga be

/-- VREDMAX and VREDMIN (R174). -/
def redVal (t : Ty) (mx : Bool) (rs : List Nat) : VRes :=
  let els := lanesOf t rs
  match els with
  | [] => {}
  | x :: xs =>
    let r := xs.foldl (fun (acc : Nat × Nat) y =>
      if t.isF then
        let q := fminmax (fmtOf t) false mx acc.1 y
        (q.1, acc.2 ||| q.2)
      else (laneMinMax t mx 0 acc.1 y).1 |> fun v => (v, acc.2)) (x, 0)
    let sig := t.isF && els.any fun y => (fdec (fmtOf t) false y).isSig
    let top := if t.isF && (fdec (fmtOf t) false r.1).isNaN then (fmtOf t).qnan else r.1
    VRes.regs (toRegs t (els.map fun _ => top)) (r.2 ||| flagIf sig fINV)

/-- The flag of bin indices that are inactive without being all ones (R175). -/
def binFlag (ix : List Nat) : Nat := flagIf (ix.any fun v => 256 ≤ v && v != 0xFFFFFFFF) fINV

/-- VHIST (R175). -/
def histVal (tc : List Nat) (ti : Nat) : VRes :=
  let ix := unpack 32 128 ti
  let old := lanesOf .n32 tc
  let new := (List.zip (List.range 256) old).map fun p => (p.2 + ix.countP (· == p.1)) % 2^32
  VRes.regs (toRegs .n32 new) (binFlag ix)

/-- VRANK's lanes: each index with those before it. -/
def rankGo (base : List Nat) : List Nat → List Nat → List Nat
  | _, [] => []
  | seen, v :: r =>
    (if v < 256 then (base.getD v 0 + seen.countP (· == v)) % 2^32 else 0xFFFFFFFF) :: rankGo base (v :: seen) r

/-- VRANK (R175). -/
def rankVal (ti : Nat) (tb : List Nat) : VRes :=
  let ix := unpack 32 128 ti
  VRes.regs [pack 32 (rankGo (lanesOf .n32 tb) [] ix)] (binFlag ix)

/-- An attention record (R176): its header lanes and accumulators. -/
structure ARec where
  hdr : List Nat
  acc : List Nat
  deriving DecidableEq, Repr

/-- The record of nine registers. -/
def aRec (rs : List Nat) : ARec := ⟨unpack 32 18 (rs.getD 0 0), lanesOf .n32 (rs.drop 1)⟩
def ARec.status (r : ARec) : Nat := r.hdr.getD 16 0
def ARec.shape (r : ARec) : Nat := r.hdr.getD 17 0
def shapeQ (s : Nat) : Nat := bits s 0 4
def shapeD (s : Nat) : Nat := bits s 4 12
/-- Query q's part of a record. -/
def ARec.part (r : ARec) (d q : Nat) : Part := ⟨r.hdr.getD q 0, r.hdr.getD (8 + q) 0, (r.acc.drop (q * d)).take d⟩

/-- Whether a shape is one R176 forbids. -/
def shapeBad (s : Nat) : Bool :=
  s != 0 && (shapeQ s = 0 || 8 < shapeQ s || shapeD s = 0 || 1024 < shapeQ s * shapeD s)

/-- Pad or cut a list to a length. -/
def padTo (n : Nat) (l : List Nat) : List Nat := (l ++ List.replicate (n - l.length) 0).take n

/-- The nine registers of a record given query by query (R176). -/
def aRegs (shape status : Nat) (ps : List Part) : List Nat :=
  let ms := (ps.map (·.m)) ++ List.replicate (8 - ps.length) 0xFF800000
  let lls := padTo 8 (ps.map (·.l))
  pack 32 (padTo 128 (ms ++ lls ++ [status, shape])) :: regsOf .n32 8 (padTo 1024 (ps.flatMap (·.acc)))

/-- VAMERGE (R176, R177); none where the shapes take cause 0x12. -/
def amergeVal (ra rb : List Nat) : Option VRes :=
  let a := aRec ra
  let b := aRec rb
  if shapeBad a.shape || shapeBad b.shape || (a.shape = 0 && b.shape = 0)
      || (a.shape != 0 && b.shape != 0 && a.shape != b.shape) then none
  else
    let sh := if a.shape = 0 then b.shape else a.shape
    let d := shapeD sh
    let r := mapFM (fun q => attnMerge (a.part d q) (b.part d q)) (List.range (shapeQ sh)) 0
    let st := if bitN a.status 0 then a.status else b.status
    some (VRes.regs (aRegs sh st r.1) r.2)

/-- VAFIN (R178); none where the shape takes cause 0x12. -/
def afinVal (rh : List Nat) : Option VRes :=
  let a := aRec rh
  if shapeBad a.shape || a.shape = 0 then none
  else
    let d := shapeD a.shape
    let r := mapFM (fun q =>
      let p := a.part d q
      if isZ32 p.l then FM.ret (p.acc.map fun _ => 0) else mapFM (fun x => rDiv x p.l) p.acc)
      (List.range (shapeQ a.shape)) 0
    some (VRes.regs (regsOf .n32 8 (padTo 1024 (r.1.flatMap id)))
      (r.2 ||| flagIf (bitN a.status 0) fINC))

/-! ### Frames and slots (R182 to R186) -/

/-- The element bytes of an indexed access (R184): index width and element width are one. -/
def idxWidth (t : Ty) : Nat := Ty.w t / 8

/-- The indices of a register for VGATH and VSCAT, none for an inactive lane (R184). -/
def indices (t : Ty) (r : Nat) : List (Option Nat) :=
  (unpack (Ty.w t) t.lpr r).map fun x => if x = 2^(Ty.w t) - 1 then none else some x

/-- Whether an active index reaches beyond the frame. -/
def idxBad (t : Ty) (ix : List (Option Nat)) : Bool :=
  ix.any fun o => match o with
    | some x => 4096 < (x + 1) * idxWidth t
    | none => false

/-- VGATH (R184); none where an index takes cause 0x04. -/
def gathVal (t : Ty) (frame ti : Nat) : Option VRes :=
  let ix := indices t ti
  if idxBad t ix then none
  else some (VRes.regs [pack (Ty.w t) (ix.map fun o => match o with
    | some x => lane frame (Ty.w t) x
    | none => 0)] 0)

/-- VSCAT (R184): the active elements in lane order, so that the highest lane is written last. -/
def scatVal (t : Ty) (ti ta : Nat) : Option VRes :=
  let ix := indices t ti
  if idxBad t ix then none
  else some { dst := [(List.zip ix (unpack (Ty.w t) t.lpr ta)).filterMap fun p => match p.1 with
    | some x => some (x * idxWidth t, idxWidth t, p.2)
    | none => none] }

/-- VLDS (R183). -/
def ldsVal (t : Ty) (frame off stride count : Nat) : VRes :=
  let n := if count = 0 then t.lpr else count
  let w := Ty.w t
  let v := (List.range n).map fun e =>
    let x := bits frame (8 * (off + e * stride)) w
    if t = .e3m2 || t = .e2m3 then x % 64 else x
  VRes.regs [pack w v] 0

/-! ### Accumulator drains and fills (R202, R204) -/

/-- RELU on an f32 bit pattern: what is below zero, and -0, becomes +0; NaN stays. -/
def relu32 (x : Nat) : Nat := if bitN x 31 && !(fdec f32F false x).isNaN then 0 else x

/-- ACDRAIN (R202): the elements of band `band` of a bank. -/
def drainVal (t : Ty) (band : Nat) (rnd : Nat) (relu : Bool) (c : BitVec 32) (ls : BitVec 4096) (bank : Nat) : VRes :=
  let els := unpack 32 1024 (bits bank (32768 * band) 32768)
  if t.isFloat then
    let xs := if relu then els.map relu32 else els
    cvtSpan t .f32 (if rnd = 3 then 5 else rnd) c ls xs
  else
    let xs := if relu then els.map (fun x => if bitN x 31 then 0 else x) else els
    let r := gather (xs.map (cvtElem t .s32 .rne c))
    VRes.regs (toRegs t r.1) r.2

end Sys2Proof.Machine
end

