-- ==== Sys2Proof/Machine/VecOp.lean ====
section
/-!
DEFINITION. What each vector-engine instruction computes from the images of its sources (majors 0x7 to 0xA,
ACDRAIN and ACFILL), and the bytes of each source that it reads.
-/
namespace Sys2Proof.Machine

/-- Bits of a lane's value: six for the 6-bit types (R138). -/
def Ty.vw (t : Ty) : Nat := if t = .e3m2 || t = .e2m3 then 6 else Ty.w t

/-- The canonical fill of a drain (R172). -/
def fillOf (nan : Bool) : Nat := if nan then qNaN else 0

/-- VLANE's value (R154). -/
def laneVal (t : Ty) (v : List Nat) (l : Nat) : Word :=
  let x := (lanesOf t v).getD l 0
  if Ty.signed t then sExt x (Ty.w t) else BitVec.ofNat 64 x

/-- The 32 by 32 tile of R165 with rows and columns exchanged. -/
def transpose32 (l : List α) (d : α) : List α := (List.range 1024).map fun i => l.getD (32 * (i % 32) + i / 32) d

/-- The registers of one MX copy: elements, then scales. -/
def mxRegs (q : List Nat × Nat × Nat) : List Nat := q.1 ++ [q.2.1]

/-- VDEQ (R166). -/
def deqVal (t toT : Ty) (c : BitVec 32) (elems scales : Nat) : VRes :=
  let ss := unpack 8 512 scales
  let r := gather ((List.zip (List.range (quantCount t)) (lanesOf t [elems])).map fun p =>
    deqElem t toT c p.2 (ss.getD (p.1 / 32) 0))
  VRes.regs (toRegs toT r.1) r.2

/-- VSDRAIN (R172). -/
def sdrainVal (opt : Nat) (fill : Nat) (ts : List Nat) (eps : Nat) : VRes :=
  let r := mapFM (fun (p : Triple × Nat) => drainOne opt fill p.1 p.2) (List.zip (triples ts) (unpack 32 128 eps)) 0
  VRes.regs [pack 32 r.1] r.2

/-- The norm drain (R173). -/
def snormVal (fill lg : Nat) (ts : List Nat) (x eps : Nat) (aff : Option (Nat × Nat)) : VRes :=
  let tr := triples ts
  let g := (aff.map fun p => unpack 32 128 p.1).getD []
  let b := (aff.map fun p => unpack 32 128 p.2).getD []
  let r := mapFM (fun (p : Nat × Nat) =>
    drainNorm fill (tr.getD (p.1 / 2^lg) ⟨0, 0, 0⟩) eps p.2 (if aff.isSome then some (g.getD p.1 0, b.getD p.1 0) else none))
    (List.zip (List.range 128) (unpack 32 128 x)) 0
  VRes.regs [pack 32 r.1] r.2

/-- An option of a value that takes a cause where there is none. -/
def orCause (c : Nat) : Option VRes → Except Nat VRes
  | some r => .ok r
  | none => .error c

/-- What a vector-engine instruction writes and raises, from its captured FPC, its g operands, the stream's
rounding states and the images of its sources in operand order; or the cause of data it examines at start. -/
def vecVal (i : Instr) (c : BitVec 32) (gv : List Word) (ls : BitVec 4096) (v : List Nat) : Except Nat VRes :=
  let x (k : Nat) := v.getD k 0
  let g := (gv.getD 0 0).toNat
  let two (t : Ty) (f : Nat → Nat → Nat × Nat) : Except Nat VRes := .ok (lane2 t f (v.take (regN t)) (v.drop (regN t)))
  let one (t : Ty) (f : Nat → Nat × Nat) : Except Nat VRes := .ok (lane1 t f v)
  let three (t : Ty) (f : Nat → Nat → Nat → Nat × Nat) : Except Nat VRes :=
    .ok (lane3 t f (v.take (regN t)) ((v.drop (regN t)).take (regN t)) (v.drop (2 * regN t)))
  let f32 := fdec f32F (fpcDAZ c)
  match i with
  | .vadd _ t _ _ _ => two t (laneAdd t c)
  | .vsub _ t _ _ _ => two t (laneSub t c)
  | .vmul _ t _ _ _ => two t (laneMul t c)
  | .vmin _ t _ _ _ => two t (laneMinMax t false c)
  | .vmax _ t _ _ _ => two t (laneMinMax t true c)
  | .vand _ t _ _ _ => .ok (bitwise (· &&& ·) (v.take (regN t)) (v.drop (regN t)))
  | .vor _ t _ _ _ => .ok (bitwise (· ||| ·) (v.take (regN t)) (v.drop (regN t)))
  | .vxor _ t _ _ _ => .ok (bitwise (· ^^^ ·) (v.take (regN t)) (v.drop (regN t)))
  | .vshl _ t _ _ _ => two t (laneShl t)
  | .vshr _ t _ _ _ => two t (laneShr t)
  | .vsra _ t _ _ _ => two t (laneSra t)
  | .vwmul _ t _ _ _ => .ok (wide2 t true c (v.take 1) (v.drop 1))
  | .vwadd _ t _ _ _ => .ok (wide2 t false c (v.take 1) (v.drop 1))
  | .vfma _ t _ _ _ _ => three t (laneFma t c)
  | .vabs _ t _ _ => one t (laneAbs t)
  | .vneg _ t _ _ => one t (laneNeg t)
  | .vnot _ _ _ _ => .ok (bitwise (· ^^^ ·) v (v.map fun _ => 2^4096 - 1))
  | .vcmp _ cond t _ _ _ => two t (laneCmp cond t c)
  | .vsel _ t _ _ _ _ => three t fun a b m => (if m = 0 then b else a, 0)
  | .vbcast _ t _ _ => .ok (VRes.regs (toRegs t (List.replicate t.lpr (g % 2^(Ty.vw t)))) 0)
  | .vperm _ _ _ _ => .ok (VRes.regs [pack 32 (permLanes (unpack 32 128 (x 0)) (unpack 32 128 (x 1)))] 0)
  | .viota _ t _ => .ok (VRes.regs (toRegs t ((List.range t.lpr).map (iota t))) 0)
  | .vexp2 _ _ _ => one .f32 fun a => exp2a (fpcFZ c) (f32 a)
  | .vrcp _ _ _ => one .f32 (laneRcp c)
  | .vrsq _ _ _ => one .f32 fun a => frsq f32F (fpcEnv c) (f32 a)
  | .vsqrt _ _ _ => one .f32 fun a => fsqrt f32F (fpcEnv c) (f32 a)
  | .vcvt _ toT fr rnd _ _ => .ok (if toT = fr then VRes.regs v 0 else cvtSpan toT fr rnd.toNat c ls (lanesOf fr v))
  | .vquant _ t src _ _ =>
    let w := mxWide src
    let q := mxQuant t ((lanesOf w v).map (fdec (fmtOf w) (fpcDAZ c)))
    .ok (VRes.regs (mxRegs q) q.2.2)
  | .vquant2 _ t _ _ _ =>
    let xs := (lanesOf .f32 v).map f32
    let p := mxQuant t xs
    let q := mxQuant t (transpose32 xs (.num false 0 0))
    .ok (VRes.regs (mxRegs p ++ mxRegs q) (p.2.2 ||| q.2.2))
  | .vdeq _ t toT _ _ => .ok (deqVal t (mxWide toT) c (x 0) (x 1))
  | .vsclr _ _ => .ok (VRes.regs [0, 0, 0] 0)
  | .vstat _ lg _ _ _ => .ok (statVal lg.toNat (v.take 3) (x 3) (pack 32 (List.replicate 128 0x3F800000)))
  | .vstatw _ lg _ _ _ _ => .ok (statVal lg.toNat (v.take 3) (x 3) (x 4))
  | .vsmerge _ _ _ _ =>
    let r := mapFM (fun (p : Triple × Triple) => statMerge p.1 p.2) (List.zip (triples (v.take 3)) (triples (v.drop 3))) 0
    .ok (VRes.regs (triRegs r.1) r.2)
  | .vsdrain _ opt fill _ _ _ => .ok (sdrainVal opt.toNat (fillOf fill) (v.take 3) (x 3))
  | .vsdrainNorm _ fill _ _ _ _ eps aff lg =>
    .ok (snormVal (fillOf fill) lg.toNat (v.take 3) (x 3) eps.toNat (if aff then some (x 4, x 5) else none))
  | .vredmax _ t _ _ => .ok (redVal t true v)
  | .vredmin _ t _ _ => .ok (redVal t false v)
  | .vhist _ _ _ _ => .ok (histVal (v.take 2) (x 2))
  | .vrank _ _ _ _ => .ok (rankVal (x 0) (v.drop 1))
  | .vamerge _ _ _ _ => orCause 0x12 (amergeVal (v.take 9) (v.drop 9))
  | .vafin _ _ _ => orCause 0x12 (afinVal v)
  | .vld _ t _ _ _ _ =>
    .ok (VRes.regs (if t = .s64 then [bits (x 0) (8 * g) 4096, bits (x 0) (8 * g + 4096) 4096] else [bits (x 0) (8 * g) 4096]) 0)
  | .vst _ _ _ _ _ => .ok { dst := [[(g, 512, x 0)]] }
  | .vlds _ t _ _ _ _ stride count => .ok (ldsVal t (x 0) g stride.toNat count.toNat)
  | .vgath _ t _ _ _ => orCause 0x04 (gathVal t (x 0) (x 1))
  | .vscat _ t _ _ _ => orCause 0x04 (scatVal t (x 0) (x 1))
  | .vldo _ _ _ row => .ok (VRes.regs [bits (x 0) (4096 * row.toNat) 4096] 0)
  | .vsto _ _ row _ => .ok { dst := [[(512 * row.toNat, 512, x 0)]] }
  | .vqrd _ _ _ => .ok (VRes.regs [x 0] 0)
  | .acdrain _ t band _ rnd relu _ _ => .ok (drainVal t band.toNat rnd.toNat relu c ls (x 0))
  | .acfill _ band _ _ => .ok { dst := [[(4096 * band.toNat, 4096, pack 4096 v)]] }
  | _ => .ok {}

/-- The bytes that an operation reads of each source object: first byte and count. -/
def readRange (o : Op) : Nat × Nat :=
  let g := (o.gv.getD 0 0).toNat
  match o.i with
  | .vld _ t _ _ _ _ => (g, 512 * regN t)
  | .vldo _ _ _ row => (512 * row.toNat, 512)
  | .acdrain _ _ band _ _ _ _ _ => (4096 * band.toNat, 4096)
  | .cpst _ spc _ _ _ band => if spc = .a then (4096 * band.toNat, 4096) else (0, 4096)
  | _ => (0, 16384)

end Sys2Proof.Machine
end

