-- ==== Sys2Proof/Machine/Shape.lean ====
section
/-!
DEFINITION. Copies as geometry (R205 to R209, R213 to R216): the checks of a shape record, the element that
stands at each place of a box, and its address.

A copy carries G(gs) and its coordinates in `gv`, and in `img` its record, then the row indices of CPG and CPS, or
the bytes that CPQ has read and not yet delivered.
-/
namespace Sys2Proof.Machine

/-- Elements that 512 bytes hold, the most of one step (R24). -/
def stepEls (r : Nat) : Nat := 4096 / Ty.w (recTy r)

/-- Whether a copy has row indices. -/
def Op.indexed (o : Op) : Bool :=
  match o.i with
  | .cpg _ _ _ _ | .cps _ _ _ _ => true
  | _ => false

/-- Whether a copy lands in a slot. -/
def Op.toSlot (o : Op) : Bool :=
  match o.i with
  | .cp _ spc _ _ _ _ _ => spc == .o
  | .cpg _ _ _ _ => true
  | _ => false

/-- Bytes of metadata that a copy into a slot brings (R209). -/
def metaBytes (o : Op) : Nat :=
  if o.toSlot && !recMx o.rcd && recSBase o.rcd != 0 then ceilDiv (5 * recBox o.rcd 0 * recBox o.rcd 1) 8 else 0

/-- Bytes of the elements and the MX scale area of a box packed from `off` (R209). -/
def packedEnd (r off : Nat) : Nat :=
  let e := off + tyBytes (recTy r) (recEls r)
  if recMx r then ceilDiv e 512 * 512 + recEls r / 32 else e

/-- Whether a record breaks a rule that every copy checks (R206); `c0` is coordinate 0. -/
def recBad (r : Nat) (c0 : Int) : Bool :=
  let n := recRank r
  let t := recTy r
  n < 1 || 6 < n || bits r 80 48 != 0 || bits r 1344 192 != 0 || bits r 69 3 != 0
    || (List.range 6).any (fun d => n ≤ d && (recDim r d != 0 || recStride r d != 0 || recBox r d != 0))
    || (List.range n).any (fun d => recBox r d == 0)
    || (Ty.nib t && (recStride r 0 != 0 || recBox r 0 % 2 != 0 || c0 % 2 != 0))
    || (recMx r && (recBox r 0 % 32 != 0 || c0 % 32 != 0))
    || (recKH r != 0 && (n != 3 || recBox r 2 != 1 || recKW r == 0 || recWS r == 0 || recDil r == 0))

/-- Whether a copy's record or box takes cause 0x12 when it starts (R206, R209, R213 to R215). -/
def copyBad (o : Op) : Bool :=
  let r := o.rcd
  let slot (first : Nat) := 128 < recRunBytes r || 64 < first + recRuns r || 2560 < metaBytes o
  let rows := recRank r != 2 || recKH r != 0 || 64 < recBox r 1
  recBad r (if o.indexed then 0 else o.coord 0) ||
  (match o.i with
    | .cp _ spc _ _ _ doff _ => if spc = .o then slot doff.toNat else 4096 < packedEnd r (64 * doff.toNat)
    | .cpg _ _ _ _ => rows || slot 0
    | .cps _ _ _ _ => rows || 4096 < packedEnd r 0
    | .cpst _ spc _ _ _ _ =>
      if spc = .a then !(recTy r == .f32 || recTy r == .s32) || 64 < recBox r 0 || 16 < recRuns r else 4096 < packedEnd r 0
    | _ => false)

/-- What a copy moves, as `Op.pos` counts it: its elements, then the bytes of its metadata. -/
def copyEnd (o : Op) : Nat := recEls o.rcd + metaBytes o

/-- Box coordinates of the `e`-th element in packing order, from dimension `d` on. -/
def boxIdx (r : Nat) : Nat → Nat → Nat → List Nat
  | 0, _, _ => []
  | k + 1, d, e => e % recBox r d :: boxIdx r k (d + 1) (e / recBox r d)

/-- Output height and width of a window walk (R208). -/
def winOut (r : Nat) : Int × Int :=
  let one (d p q k : Nat) : Int :=
    ((recDim r d : Int) + recPad r p + recPad r q - (recDil r * (k - 1) : Nat) - 1) / (recWS r : Int) + 1
  (one 1 0 1 (recKH r), one 0 2 3 (recKW r))

/-- Window walking (R208): the element (x, y, ch) of output position p and product index k, if it is inside; none is where the
kernel is larger than the padded image (DESIGN CHOICE, assumption 58). -/
def winIdx (r : Nat) (k p : Int) : Option (List Int) :=
  let (oh, ow) := winOut r
  if k < 0 || p < 0 || oh ≤ 0 || ow ≤ 0 then none
  else
    let kw : Int := recKW r
    let kh : Int := recKH r
    let y := p / ow * recWS r - recPad r 0 + k / kw % kh * recDil r
    let x := p % ow * recWS r - recPad r 2 + k % kw * recDil r
    let ch := k / (kh * kw)
    if oh * ow ≤ p || (recDim r 2 : Int) ≤ ch || y < 0 || (recDim r 1 : Int) ≤ y || x < 0 || (recDim r 0 : Int) ≤ x then none
    else some [x, y, ch]

/-- The indices of the `e`-th element of a copy's box, or none where it lies outside (R207, R208, R215). -/
def elIdx (o : Op) (e : Nat) : Option (List Int) :=
  let r := o.rcd
  let b := boxIdx r (recRank r) 0 e
  let inside (x : List Int) : Option (List Int) :=
    if (List.zip x (List.range 6)).all fun p => 0 ≤ p.1 && p.1 < (recDim r p.2 : Int) then some x else none
  if o.indexed then
    let v := o.img.getD (1 + b.getD 1 0) 0
    if v = 0xFFFFFFFF then none else inside [(b.getD 0 0 : Nat), (v : Nat)]
  else if recKH r != 0 then winIdx r (o.coord 0 + (b.getD 0 0 : Nat)) (o.coord 1 + (b.getD 1 0 : Nat))
  else inside ((List.zip b (List.range 6)).map fun p => o.coord p.2 + (p.1 : Nat))

/-- The sum of indices times strides. -/
def dot (x : List Int) (str : Nat → Int) : Int := (List.zip x (List.range 6)).foldl (fun a p => a + p.1 * str p.2) 0

/-- The address of an element (R207), modulo 2^64. -/
def elAddr (r : Nat) (x : List Int) : Nat :=
  let off := if Ty.nib (recTy r) then x.getD 0 0 / 2 + dot (0 :: x.drop 1) (recStride r) else dot x (recStride r)
  uns ((recBase r : Int) + off) 64

/-- The address of the scale of block `b` of a run, whose other indices are those of an element (R209). -/
def scaleAddr (r b : Nat) (x : List Int) : Nat :=
  uns ((recSBase r : Int) + b * recSStride r 0 + dot (0 :: x.drop 1) (recSStride r)) 64

/-- Bytes of one access to an element. -/
def elBytes (t : Ty) : Nat := max 1 (Ty.w t / 8)

/-- The bits of an element in the byte or bytes at its address. -/
def elTake (t : Ty) (x : List Int) (v : Nat) : Nat :=
  if Ty.nib t then bits v (if x.getD 0 0 % 2 = 0 then 0 else 4) 4 else v

/-- Where the `e`-th element of a copy lands in its destination, in bits from its byte 0 (R209). -/
def elDest (o : Op) (e : Nat) : Nat :=
  let r := o.rcd
  let w := Ty.w (recTy r)
  match o.i with
  | .cp _ .o _ _ _ doff _ => 1024 * (doff.toNat + e / recBox r 0) + w * (e % recBox r 0)
  | .cp _ _ _ _ _ doff _ => 512 * doff.toNat + w * e
  | .cpg _ _ _ _ => 1024 * (e / recBox r 0) + w * (e % recBox r 0)
  | _ => w * e

/-- The byte where the scale of block `j` in packing order lands: of the side array for a slot, of the frame
otherwise (R209). -/
def scaleDest (o : Op) (j : Nat) : Nat :=
  let r := o.rcd
  let per := recBox r 0 / 32
  match o.i with
  | .cp _ .o _ _ _ doff _ => 8 * (doff.toNat + j / per) + j % per
  | .cpg _ _ _ _ => 8 * (j / per) + j % per
  | .cp _ _ _ _ _ doff _ => ceilDiv (64 * doff.toNat + tyBytes (recTy r) (recEls r)) 512 * 512 + j
  | _ => ceilDiv (tyBytes (recTy r) (recEls r)) 512 * 512 + j

/-! ### The sectors of a step (R24, R211, R254, R262) -/

/-- What lies in memory of a copy: an element, with its indices, the scale of a block, or metadata bytes from one of them on. -/
inductive Piece where
  | el (e : Nat) (x : List Int)
  | scale (j : Nat)
  | side (m : Nat)
  deriving DecidableEq, Repr

/-- Something of a copy in memory: its place in the order that `Op.pos` counts, its address and its bytes. -/
structure Item where
  what : Piece
  pos  : Nat
  len  : Nat := 1
  va   : Nat
  n    : Nat
  deriving DecidableEq, Repr

/-- Whether a copy's source is a bank band. -/
def fromBank (o : Op) : Bool :=
  match o.i with
  | .cpst _ .a _ _ _ _ => true
  | _ => false

/-- Whether a copy moves scales. -/
def hasScales (o : Op) : Bool := recMx o.rcd && !fromBank o

/-- The indices of the first element of a block that lies inside (R209), which in a window walk too are those of the block's
scale (DESIGN CHOICE, assumption 58). -/
def blockIdx (o : Op) (j : Nat) : Option (List Int) := (List.range 32).findSome? fun i => elIdx o (32 * j + i)

/-- The place of a block in its run. -/
def blockOf (o : Op) (j : Nat) : Nat := j % (recBox o.rcd 0 / 32)

/-- The blocks of a copy that moves scales. -/
def blocksOf (o : Op) : List Nat := if hasScales o then List.range (recEls o.rcd / 32) else []

/-- The elements of a copy that lie in memory. -/
def elItems (o : Op) : List Item :=
  (List.range (recEls o.rcd)).filterMap fun e => (elIdx o e).map fun x =>
    ⟨.el e x, e, 1, elAddr o.rcd x, elBytes (recTy o.rcd)⟩

/-- The scales of a copy that lie in memory. -/
def scaleItems (o : Op) : List Item :=
  (blocksOf o).filterMap fun j => (blockIdx o j).map fun x => ⟨.scale j, 32 * j, 1, scaleAddr o.rcd (blockOf o j) x, 1⟩

/-- The metadata of a copy, by sectors. -/
def sideItems (o : Op) : List Item :=
  let a := recSBase o.rcd
  (List.range (metaBytes o / 32 + 2)).filterMap fun i =>
    let lo := 32 * i - a % 32
    let hi := min (metaBytes o) (32 * (i + 1) - a % 32)
    if lo < hi then some ⟨.side lo, recEls o.rcd + lo, hi - lo, (a + lo) % 2^64, hi - lo⟩ else none

/-- What a copy reads or writes in memory, in the order in which it does. -/
def items (o : Op) : List Item := elItems o ++ scaleItems o ++ sideItems o

/-- An item's parts in aligned 32-byte sectors: address, bytes, and the first byte's place in the item. -/
def Item.parts (i : Item) : List (Nat × Nat × Nat) :=
  let r := min i.n (32 - i.va % 32)
  (i.va, r, 0) :: (if r < i.n then [((i.va + r) % 2^64, i.n - r, r)] else [])

/-- The sectors in which items lie. -/
def sectors (l : List Item) : List Nat := l.flatMap fun i => i.parts.map (·.1 / 32)

/-- The sectors of each MX block with its scale, which are seen together (R262). -/
def blockSectors (o : Op) : List (List Nat) :=
  let l := elItems o ++ scaleItems o
  (blocksOf o).map fun j => sectors (l.filter fun i => i.pos / 32 == j)

/-- Sectors with those that a chain of blocks joins to them. -/
def joined (bl : List (List Nat)) : Nat → List Nat → List Nat
  | 0, l => l
  | n + 1, l =>
    let new := (bl.filter fun b => b.any l.contains).flatten.filter fun x => !l.contains x
    if new.isEmpty then l else joined bl n (l ++ new)

/-- The sectors that the step of `n` places from place `b` on is the first to reach: it acts on all that the copy has in them,
so that each sector, and each MX block with its scale, is seen whole (R211, R254, R262; DESIGN CHOICE, assumption 58). -/
def stepSectors (o : Op) (b n : Nat) : List Nat :=
  let l := items o
  let bl := blockSectors o
  let upto (p : Item → Bool) := joined bl (bl.length + 1) (sectors (l.filter p))
  let past := upto fun i => i.pos < b
  (upto fun i => i.pos < b + n && b < i.pos + i.len).filter fun x => !past.contains x

/-- What the step of `n` places from place `b` on does in memory, in order: items with a part of theirs. -/
def stepParts (o : Op) (b n : Nat) : List (Item × Nat × Nat × Nat) :=
  let l := stepSectors o b n
  (items o).flatMap fun i => (i.parts.filter fun p => l.contains (p.1 / 32)).map fun p => (i, p)

/-- Places that the step from place `b` on covers: 512 bytes of elements or of metadata, or what is left of them (R24). -/
def stepLen (o : Op) (b : Nat) : Nat :=
  if b < recEls o.rcd then min (stepEls o.rcd) (recEls o.rcd - b) else min 512 (copyEnd o - b)

end Sys2Proof.Machine
end

