-- ==== Sys2Proof/Machine/Ready.lean ====
section
/-!
DEFINITION. When the head of an engine's queue may start (R21 to R30, R34, R35): program order on its objects, its
counted reads and its destination test, what else holds it, and the causes that it takes where it would start.
-/
namespace Sys2Proof.Machine

/-! ### What holds a queue head -/

/-- The operations that write bank data (R191). -/
def bankWriter : Instr → Bool
  | .mma _ _ _ _ _ _ | .mmas _ _ _ _ _ _ | .mgath _ _ _ _ _ _ _ _ _ | .mgroup _ _ _ _ _ _ _ _ | .aczero _ _
  | .acfill _ _ _ _ => true
  | _ => false

/-- Whether an operation in execution writes the data of a bank (R191). -/
def State.bankBusy (s : State) (k u : Nat) : Bool :=
  s.ops.any fun p => p.uid != u && p.ph != .queued && bankWriter p.i && (s.opDsts p).any (·.1 == k)

/-- Whether an operation that names a bank is in execution. -/
def State.bankUsed (s : State) (k u : Nat) : Bool :=
  s.ops.any fun p => p.uid != u && p.ph != .queued && ((s.opDsts p).any (·.1 == k) || (s.opSrcs p).any (·.1 == k))

/-- Whether a bank name of an operation's task is marked as allocating (R199, assumption 24): the image of an ACALLOC holds
the first name and the count of its run. -/
def State.allocating (s : State) (o : Op) (name : Nat) : Bool :=
  s.ops.any fun p => p.tk == o.tk && p.uid < o.uid && (match p.i with
    | .acalloc _ _ _ => p.img.getD 0 0 + p.step ≤ name && name < p.img.getD 0 0 + p.img.getD 1 0
    | _ => false)

/-- The band that an operation reads or writes, with its bank's name. -/
def bandOf : Instr → Option (Nat × Nat)
  | .acdrain _ _ band _ _ _ _ a => some (a.obj.toNat, band.toNat)
  | .acfill _ band d _ => some (d.obj.toNat, band.toNat)
  | .cpst _ .a _ _ a band => some (a.obj.toNat, band.toNat)
  | _ => none

/-- Whether an operation waits for the bank's writers before it starts (R191, R203, R263). -/
def waitsWriters : Instr → Bool
  | .acdrain _ _ _ now _ _ _ _ => !now
  | .cpst _ .a _ _ _ _ => true
  | i => bankWriter i

/-- The operations whose destination is written through a shadow, so that its test runs at publish (R28). -/
def shadowed (o : Op) : Bool :=
  match o.eng with
  | .cpy | .near => true
  | _ => (match o.i with
    | .vsto _ _ _ _ => true
    | _ => false)

/-- The keys of the objects that an operation names (R25). -/
def State.opNames (s : State) (o : Op) : List Nat :=
  (s.opSrcs o).map (·.1) ++ (s.opDsts o).map (·.1) ++ o.alsoNames.map fun x => s.opKey o x.1 x.2

/-- Whether program order on an object holds an operation (R25). The copies of one fill share their publish, those issued
behind a CPPUB of that fill among them (R212), and a CPPUB waits for its own (R217). -/
def State.blocked (s : State) (o : Op) (k : Nat) : Bool :=
  s.ops.any fun p => p.sk == o.sk && p.uid < o.uid && s.holdsView p k
    && !(o.fills && (s.opDsts o).any (·.1 == k) && s.inFill p k o.fill)

/-- A stream's own accesses before an operation that are still to be performed. -/
def State.before (s : State) (o : Op) : List Acc := (s.strmOf o.sk).mq.filter fun a => a.seq ≤ o.uid

/-- Whether the region of a KV map record meets a range of addresses (R222). -/
def inRegion (r va n : Nat) : Bool :=
  va < kvBase r + 2048 * ceilDiv (kvCap r) (kvTpr r) && kvBase r < va + n

/-- Bytes of a token record (R220). -/
def kvBytes (r : Nat) : Nat := 2 * kvD r * kvEsize r
/-- The address of the record of a token (R220). -/
def kvAddr (r p : Nat) : Nat := kvBase r + 2048 * (p / kvTpr r) + p % kvTpr r * kvBytes r

/-- The banks that an operation names. -/
def Op.banks (o : Op) : List Nat :=
  ((o.srcs.filter (·.1 == .a)).map (·.2.1)) ++ ((o.dsts.filter (·.1 == .a)).map (·.2.1)) ++ ((o.alsoNames.filter (·.1 == .a)).map (·.2))

/-- What holds an operation beside its counts, program order and an allocation. -/
def State.holds (s : State) (o : Op) : Bool :=
  let frames := (s.opSrcs o).filter fun x => x.1 / 256 % 4 = 3
  let readsFrame := o.eng == .vec || (match o.i with
    | .cpst _ _ _ _ _ _ => true
    | _ => false)
  (waitsWriters o.i && o.banks.any fun n => s.bankBusy (s.opKey o .a n) o.uid)
    || (readsFrame && (s.before o).any fun a => a.writes && frames.any fun f => (match a.place with
      | .frm c fr _ => okey c .f fr == f.1
      | _ => false))
    || (o.eng == .mat && 2 ≤ s.ops.countP fun p => p.core == o.core && p.eng == .mat && p.ph != .queued && s.opLive p)
    || (o.eng == .near && 64 ≤ s.ops.countP fun p => p.core == o.core && p.eng == .near && p.ph != .queued)
    || (match o.i with
      | .vsto _ d _ _ =>
        let k := s.opKey o .o d.obj.toNat
        (s.fillOf k).opn
          || s.ops.any fun p => p.uid != o.uid && p.ph != .queued && p.isVsto && s.onPart p k && (s.opDsts p).any (·.1 == k)
      | .acfree _ x => s.bankUsed (s.opKey o .a x.toNat) o.uid
      | .cppub _ spc x =>
        let k := s.opKey o spc x.toNat
        s.ops.any fun p => p.sk == o.sk && p.uid < o.uid && p.ph != .tail && (s.opDsts p).any (·.1 == k)
      | .qpost _ _ _ _ _ _ _ =>
        o.guard && ((s.before o).any (fun a => a.writes && inRegion o.rcd a.va.toNat a.size)
          || s.ops.any fun p => p.sk == o.sk && p.uid < o.uid && p.guard && (match p.i with
            | .kvapp _ _ _ _ => inRegion o.rcd (kvAddr p.rcd (p.gv.getD 1 0).toNat) (kvBytes p.rcd)
            | _ => false))
      | .tsend _ _ _ =>
        let d := bits (o.gv.getD 0 0).toNat 0 10
        o.guard && (!(s.before o).all (·.isMark) || (d != s.self && !portRoom s (pathPort s o.core o.strm d))
          || s.ops.any fun p => p.sk == o.sk && p.uid < o.uid && !p.uncnt)
      | _ => false)

/-- Whether a stream register holds what a VQRD needs (R186). -/
def State.vqOk (s : State) (o : Op) : Bool :=
  match o.i with
  | .vqrd _ _ q => !o.guard || 64 ≤ (mget [] (s.strmOf o.sk).q q.toNat).length
  | _ => true

/-- Whether a destination may be written by an operation, its own consuming reads taken as made (R28). -/
def State.dstOpen (s : State) (o : Op) (k : Nat) : Bool :=
  let c := s.cntOf k
  let own := (s.opSrcs o).countP fun x => x.1 == k && x.2 != 63
  !c.h && c.l.toNat ≤ own && c.rif == 0

/-- The images of an operation's sources, in operand order. -/
def State.images (s : State) (o : Op) : List Nat :=
  match o.i with
  | .vqrd _ _ q => [pack 64 (((mget [] (s.strmOf o.sk).q q.toNat).take 64).map (·.toNat))]
  | _ => (s.opSrcs o).map fun x => objVal s x.1

/-- What a vector operation computes now. -/
def State.vecRes (s : State) (o : Op) : Except Nat VRes := vecVal o.i o.fpc o.gv (s.strmOf o.sk).lanes (s.images o)

/-- A side array of a slot (R188). -/
def sideVal (s : State) (k : Nat) : Nat := (mget 0 s.obj.sideF k).toNat

/-- Metadata index of a kept value (R193). -/
def metaIdx (side ka i v : Nat) : Nat := bits side (8 * 512 + 5 * (i * ka + v)) 5

/-- Whether a row's indices rise strictly within each block (R193). -/
def metaRow (side ka kept i : Nat) : Bool :=
  (List.range ka).all fun v => v % kept == 0 || metaIdx side ka i (v - 1) < metaIdx side ka i v

/-- M of an MGROUP (R197): the 8-byte word at byte off9 * 8 of the frame. -/
def groupM (s : State) (o : Op) : Nat :=
  match o.i with
  | .mgroup _ _ _ _ _ fx off _ => bytesAt (mget 0 s.obj.frmF (s.opKey o .f fx.obj.toNat)) (8 * off.toNat) 8
  | _ => 0

/-- The rows of an MGATH (R196): pool row and bank row of each active pair of lanes. -/
def gathRows (m : Nat) (ti tj : Nat) : List (Nat × Nat) :=
  (List.zip ((unpack 32 128 ti).take m) ((unpack 32 128 tj).take m)).filter fun p => p.2 != 0xFFFFFFFF

/-- Whether the indices of an MGATH take cause 0x12. -/
def gathBad (pool m : Nat) (ti tj : Nat) : Bool :=
  let xs := ((unpack 32 128 ti).take m).filter (· != 0xFFFFFFFF)
  let ys := (gathRows m ti tj).map (·.2)
  xs.any (fun x => 64 * pool ≤ x) || ys.any (64 ≤ ·) || ys.eraseDups.length != ys.length

/-- Whether a matrix operation's data take cause 0x12 when it starts. -/
def matBad (s : State) (o : Op) : Bool :=
  match o.i with
  | .mmas _ _ _ a _ p =>
    let side := sideVal s (s.opKey o .o a.obj.toNat)
    !((List.range (mmaM p)).all (metaRow side (mmaKa p) (mmaKept p)))
  | .mgath _ _ _ _ _ ti tj p pm1 =>
    gathBad (pm1.toNat + 1) (mmaM p) (objVal s (s.opKey o .t ti.obj.toNat)) (objVal s (s.opKey o .t tj.obj.toNat))
  | .mgroup _ _ _ _ _ _ _ _ => 64 < groupM s o
  | _ => false

/-- The bank that an accumulating matrix operation reads. -/
def State.accBank (s : State) (o : Op) : List Nat :=
  match mmaOpt o.i with
  | some (_, p) => if p.acc then (s.opDsts o).map (·.1) else []
  | none => []

/-- The first poisoned source of an operation: store and index (R334). -/
def State.poisonSrc (s : State) (o : Op) : Option (Nat × Nat) :=
  let r := readRange o
  let side := (match o.i with
    | .mmas _ _ _ _ _ _ => true
    | _ => false) || (match mmaOpt o.i with
    | some (_, p) => p.mx
    | none => false)
  ((s.opSrcs o).find? fun x => s.chipPoison o.core (x.1 / 256 % 4) (x.1 % 256) r.1 r.2).map (fun x => (x.1 / 256 % 4, x.1 % 256))
    |>.or (((s.accBank o).find? fun k => s.chipPoison o.core 2 (k % 256) 0 16384).map fun k => (2, k % 256))
    |>.or (if side then ((s.opSrcs o).find? fun x => x.1 / 256 % 4 == 1 && s.chipPoison o.core 4 (x.1 % 256) 0 3072).map
      (fun x => (4, x.1 % 256)) else none)

/-- The first of the 64 KiB pages that a range of a region touches that fails: a cause, its walk code and its address. A page
without ATTN breaks the record of a QPOST (R219), and is cause 0x0B for a KVAPP (R226). -/
def regionBad (s : State) (o : Op) (wr : Bool) : Nat → Nat → Nat → Option (Nat × Nat × Nat)
  | 0, _, _ => none
  | fuel + 1, va, n =>
    if n = 0 then none
    else match translate s o.core o.ctx va (if wr then .w else .r) with
      | .walkFault c => some (if wr then 0x0A else 0x09, c, va)
      | .attr => some (0x0B, 0, va)
      | .ok _ e _ => if !pteAttn e then some (if wr then (0x0B, 0, va) else (0x12, 0, 0))
        else let r := runLen va n; regionBad s o wr fuel (va + r) (n - r)

/-- The causes of a region (R219, R222, R226). -/
def regionCause (s : State) (o : Op) : Option (Nat × Nat × Nat) :=
  match o.i with
  | .qpost _ _ _ _ _ _ _ =>
    let n := 2048 * ceilDiv (o.gv.getD 1 0).toNat (kvTpr o.rcd)
    regionBad s o false (n / 65536 + 2) (kvBase o.rcd) n
  | .kvapp _ _ _ _ => regionBad s o true 3 (kvAddr o.rcd (o.gv.getD 1 0).toNat) (kvBytes o.rcd)
  | _ => none

/-- The cause that an operation under a true guard takes where it would start, with the state it is taken in. -/
def startCause (s : State) (o : Op) : Option (FaultRec × State) :=
  let t := s.taskOf o.tk
  let notOwned := match bandOf o.i with
    | some (n, b) => !bitN (bits (mget 0 t.bmask n).toNat (8 * b) 8) o.tnum
    | none => false
  let data : Bool := match o.eng with
    | .mat => matBad s o
    | .cpy => (match o.i with
      | .cppub _ _ _ | .rfence _ => false
      | _ => copyBad o)
    | _ => false
  let vec : Option Nat := if o.eng == .vec then (match s.vecRes o with
    | .error c => some c
    | .ok _ => none) else none
  if notOwned then some (opFault s o 0x08 ((bandOf o.i).map fun x => (Spc.a.code, BitVec.ofNat 8 x.1)), s)
  else match s.poisonSrc o with
    | some (st, i) => some (opFault s o 0x10, chipCheck s o.core st i o.ctx)
    | none => match vec with
      | some c => some (opFault s o c, s)
      | none =>
        if data then some (opFault s o 0x12, s)
        else (regionCause s o).map fun x => (opFault s o x.1 none (BitVec.ofNat 64 x.2.2) (match o.i with
          | .kvapp _ _ _ _ => true
          | _ => false) x.2.1, s)

/-- What becomes of a queue head. -/
inductive Verdict where
  | ready
  | held                                       -- not eligible; no counted wait
  | waits (obj : Option (BitVec 2 × BitVec 8))    -- a counted wait (R34)
  | faults (f : FaultRec) (s : State)
  deriving DecidableEq, Repr

/-- Judge a queue head (R25, R26, R28, R35): one that names a bank being allocated is not READY, whatever its counts (R199). -/
def judge (s : State) (o : Op) : Verdict :=
  if !s.opLive o || o.banks.any (s.allocating o) then .held
  else
    let free := o.srcs.filter fun x => !s.blocked o (s.opKey o x.1 x.2.1)
    let test (x : Spc × Nat × BitVec 6) := countedRead (s.cntOf (s.opKey o x.1 x.2.1)) o.tnum x.2.2
    let name (spc : Spc) (i : Nat) : Option (BitVec 2 × BitVec 8) := some (spc.code, BitVec.ofNat 8 i)
    match free.find? fun x => test x == .stale with
    | some x => .faults (opFault s o 0x05 (name x.1 x.2.1)) s
    | none => match free.find? fun x => test x == .wait with
      | some x => .waits (name x.1 x.2.1)
      | none =>
        let dst := (if shadowed o then [] else o.dsts.map fun x => (x.1, x.2.1)) ++ (match o.i with
          | .acfree _ x => if o.guard then [(Spc.a, x.toNat)] else []
          | _ => [])
        match dst.find? fun x => !s.blocked o (s.opKey o x.1 x.2) && !s.dstOpen o (s.opKey o x.1 x.2) with
        | some x => .waits (name x.1 x.2)
        | none =>
          let order := match o.i with
            | .cppub _ _ _ => false
            | _ => (s.opNames o).any (s.blocked o)
          if order || s.holds o then .held
          else if !s.vqOk o then .waits none
          else if !o.guard then .ready
          else match startCause s o with
            | some (f, s1) => .faults f s1
            | none => .ready

/-- The head of an engine's queue of a stream: its oldest operation that has not started (R20). -/
def State.headOf (s : State) (sk : Nat) (e : Eng) : Option Op :=
  s.ops.find? fun o => o.sk == sk && o.eng == e && o.ph == .queued

/-- The heads of an engine of a core. -/
def State.heads (s : State) (c : Nat) (e : Eng) : List Op := (List.range 8).filterMap fun n => s.headOf (8 * c + n) e

/-- Make the tracked reads of an operation start (R26): every expected count is taken before any read. -/
def startReads (s : State) (o : Op) : State :=
  let es := (s.opSrcs o).filterMap fun x => if x.2 = 63 then none else some (x.1, (s.cntOf x.1).expect o.tnum x.2)
  es.foldl (fun s x => s.setCnt x.1 (readStart (s.cntOf x.1) o.tnum x.2)) s

/-- The keys of the tracked sources. -/
def State.tracked (s : State) (o : Op) : List Nat := ((s.opSrcs o).filter (·.2 != 63)).map (·.1)

end Sys2Proof.Machine
end

