-- ==== Sys2Proof/Machine/Engine.lean ====
section
/-!
DEFINITION. The steps of the vector and matrix engines: starts (R21, R22), reads that retire, K-steps (R193 to
R197), commits (R29, R36), and waits that exceed their limit (R34, R292).
-/
namespace Sys2Proof.Machine

/-! ### Matrix arithmetic (R187, R192 to R197) -/

/-- B's type. -/
def mmaTyb (t : Ty) (p : MmaOpt) : Ty := if p.tyb = 0 then t else Ty.of p.tyb

/-- An element of a matrix row of a slot's image, decoded; with MX an s8 element is MXINT8 (R187, R239). -/
def matEl (t : Ty) (mx : Bool) (slot row k : Nat) : FV :=
  let w := Ty.w t
  let x := bits slot (1024 * row + w * k) w
  if t = .s8 then .num (bitN x 7) (sgn x 8).natAbs (if mx then -6 else 0)
  else fdec (fmtOf t) false (if t = .e3m2 || t = .e2m3 then x % 64 else x)

/-- A row of A as the sum takes it: its slot's and side array's images and its row there; none for a row of zeros. -/
structure ARow where
  slot : Nat
  side : Nat
  row  : Nat
  deriving DecidableEq, Repr

/-- The A value for logical k of a row (R193): none where sparsity or a row of zeros puts a 0 there. -/
def aVal (i : Instr) (t : Ty) (p : MmaOpt) (r : Option ARow) (k : Nat) : Option FV :=
  match r with
  | none => none
  | some a =>
    if isMmas i then
      let kept := mmaKept p
      ((List.range kept).find? fun x => metaIdx a.side (mmaKa p) a.row (kept * (k / 32) + x) == k % 32).map fun x =>
        matEl t p.mx a.slot a.row (kept * (k / 32) + x)
    else some (matEl t p.mx a.slot a.row k)

/-- The E8M0 scale of the block of k in a row (R188). -/
def scaleOf (side row k : Nat) : Nat := bits side (8 * (8 * row + k / 32)) 8

/-- The product for one k (R193). A zero from sparsity or a row of zeros has no effect, whatever B holds (R244). -/
def mmaProd (i : Instr) (t : Ty) (p : MmaOpt) (a : Option ARow) (b bSide col k : Nat) : Prod :=
  let y := matEl (mmaTyb t p) p.mx b col k
  match aVal i t p a k, a with
  | some x, some r =>
    if p.mx then
      let sb := scaleOf bSide col k
      let sa := scaleOf r.side r.row k
      if sa = 255 || sb = 255 then .nan else prodOf x y ((sa : Int) + sb - 254)
    else prodOf x y 0
  | _, _ => .num 0 0

/-- C after group `g` (R193): integer products add modulo 2^32; others by `GroupSum` and `Accumulate`. -/
def mmaGroup (i : Instr) (t : Ty) (p : MmaOpt) (fz : Bool) (g c : Nat) (a : Option ARow) (b bSide col : Nat) : Nat × Nat :=
  let gs := (mmaClass t).1
  let ks := (List.range (min gs (mmaK p - g * gs))).map (g * gs + ·)
  let ps := ks.map (mmaProd i t p a b bSide col)
  if t = .s8 && !p.mx then
    (uns (ps.foldl (fun acc x => match x with
      | .num v _ => acc + v
      | _ => acc) (c : Int)) 32, 0)
  else accumulate fz c (groupSum ps)

/-- The rows that a started operation computes: its bank row, and its row of A. -/
def mmaRows (s : State) (o : Op) (p : MmaOpt) : List (Nat × Option ARow) :=
  let slot (k : Nat) (row : Nat) : Option ARow := some ⟨objVal s k, sideVal s k, row⟩
  match o.i with
  | .mgath _ _ _ a _ _ _ _ _ =>
    (gathRows (mmaM p) (o.img.getD 0 0) (o.img.getD 1 0)).map fun r =>
      (r.2, if r.1 = 0xFFFFFFFF then none else slot (s.opKey o .o (a.obj.toNat + r.1 / 64)) (r.1 % 64))
  | .mma _ _ _ a _ _ | .mmas _ _ _ a _ _ => (List.range (mmaM p)).map fun r => (r, slot (s.opKey o .o a.obj.toNat) r)
  | .mgroup _ _ _ a _ _ _ _ => (List.range (o.img.getD 0 0)).map fun r => (r, slot (s.opKey o .o a.obj.toNat) r)
  | _ => []

/-- The B operand of a matrix operation. -/
def mmaB : Instr → Src
  | .mma _ _ _ _ b _ | .mmas _ _ _ _ b _ | .mgath _ _ _ _ b _ _ _ _ | .mgroup _ _ _ _ b _ _ _ => b
  | _ => ⟨0, 63⟩

/-- What group `g` writes to the bank, and its flags. -/
def mmaResult (s : State) (o : Op) (t : Ty) (p : MmaOpt) (g bank : Nat) : List (Nat × Nat × Nat) × Nat :=
  let bk := s.opKey o .o (mmaB o.i).obj.toNat
  let b := objVal s bk
  let bs := sideVal s bk
  let fz := fpcFZ o.fpc
  let l := (mmaRows s o p).flatMap fun r => (List.range (mmaN p)).map fun j =>
    let at' := 4 * (64 * r.1 + j)
    let c := if g = 0 && !p.acc then 0 else bits bank (8 * at') 32
    let v := mmaGroup o.i t p fz g c r.2 b bs j
    (at', v.1, v.2)
  (l.map fun x => (x.1, 4, x.2.1), l.foldl (fun a x => a ||| x.2.2) 0)

/-! ### The matrix engine -/

/-- The sequencer takes the operation that waits for it (R22, R195). -/
def matNext (s : State) (c : Nat) : State :=
  match s.matRun c with
  | some o => if o.due = 0 then s.setOp { o with due := s.now + (if o.ph = .run then stepTime o else 0) } else s
  | none => s

/-- No operation that names the banks starts before a cycle (R191, R199). -/
def bankFrom (s : State) (tk t : Nat) (names : List Nat) : State :=
  s.setTask tk { s.taskOf tk with bankC := names.foldl (fun m n => mput 0 m n t) (s.taskOf tk).bankC }

/-- A bank becomes allocated in the queue's order (R39, R199). -/
def zeroBank (s : State) (o : Op) (name : Nat) : State :=
  let k := s.opKey o .a name
  let t := s.taskOf o.tk
  let s1 := bankFrom ((s.setCnt k {}).setTask o.tk { t with bmask := mput 0 t.bmask name 0xFFFFFFFF }) o.tk (s.now + 1) [name]
  unpoison (s1.setObj { s1.obj with banks := mput 0 s1.obj.banks k 0 }) k

/-- ACBAND (R200). -/
def setBands (m : BitVec 32) (bands : BitVec 4) (strms : BitVec 8) : BitVec 32 :=
  (List.range 4).foldl (fun m b => if bitN bands.toNat b then BitVec.ofNat 32 (setBits m.toNat (8 * b) 8 strms.toNat) else m) m

/-- A matrix operation starts in cycle `t`: indices and M are read now (R196, R197); a void one has no steps. -/
def startMat (s : State) (o : Op) (t : Nat) : State :=
  let s1 := startReads s o
  let early := (s.tracked o).filter fun k => k / 256 % 4 != 1
  let s2 := early.foldl (fun s k => retireRead s 2 k) s1
  let slots := (s.tracked o).filter fun k => k / 256 % 4 == 1
  let o1 : Op := { o with ph := .run, at0 := t, due := 0, rds := slots }
  let go (x : Op) : State := matNext (s2.setOp x) o.core
  let tk := s2.taskOf o.tk
  match o.i with
  | .acalloc _ _ _ =>
    if o.img.getD 1 0 = 0 then finishOp s2 o1
    else
      let s3 := bankFrom s2 o.tk (t + 1) ((List.range (o.img.getD 1 0)).map (o.img.getD 0 0 + ·))
      matNext (s3.setOp o1) o.core
  | .acfree _ x => finishOp (bankFrom s2 o.tk (t + 1) [x.toNat]) o1
  | .acband _ x bands strms =>
    finishOp (if o.guard then s2.setTask o.tk { tk with
      bmask := mput 0 tk.bmask x.toNat (setBands (mget 0 tk.bmask x.toNat) bands strms) } else s2) o1
  | .aczero _ _ => go { o1 with ph := if o.guard then .run else .tail, res := [[(0, 16384, 0)]] }
  | .mgath _ _ _ _ _ ti tj _ _ =>
    go { o1 with
      ph := if o.guard then .run else .tail
      img := [objVal s (s.opKey o .t ti.obj.toNat), objVal s (s.opKey o .t tj.obj.toNat)] }
  | .mgroup _ _ _ _ _ _ _ _ => go { o1 with ph := if o.guard && groupM s o != 0 then .run else .tail, img := [groupM s o] }
  | _ => go { o1 with ph := if o.guard then .run else .tail }

/-- One step of the operation that holds the sequencer. -/
def matStep (s : State) (o : Op) : State :=
  match mmaOpt o.i, o.dsts.head? with
  | some (t, p), some d =>
    let (per, all, kt) := mmaSteps o.i t p
    let n := o.step + 1
    let k := s.opKey o d.1 d.2.1
    let ends := n % per == 0 || n == all
    let r := if ends then mmaResult s o t p (o.step / per) (objVal s k) else ([], 0)
    let s1 := objPut s k r.1
    (if r.1.length = 4096 then unpoison s1 k else s1).setOp { o with
      step := n, flags := o.flags ||| BitVec.ofNat 8 r.2
      ph := if n = all then .tail else .run
      due := if n = all then s.now + ceilDiv ((mmaRows s o p).length * mmaN p) 128 else s.now + kt }
  | none, some _ => s.setOp { o with ph := .tail, due := s.now }
  | _, _ =>
    let s1 := zeroBank s o (o.img.getD 0 0 + o.step)
    if o.step + 1 = o.img.getD 1 0 then matNext (finishOp s1 o) o.core
    else s1.setOp { o with step := o.step + 1, due := s.now + 32 }

/-- A stopped task's operation ends the step that it was in; after its last step it commits, if its destination is ready (R24). -/
def lastStep (s : State) (o : Op) : State :=
  let s1 := matStep s o
  match s1.opOf o.uid with
  | none => s1
  | some p =>
    let s2 := retireReads s1 p
    if p.ph == .tail && dstsReady s2 p && !drainReads s1 p then finishOp (writeDsts s2 p) p else s1

/-- K_STEP (R24, R193 to R195): the sequencer's operation makes one step, or, where none was begun, begins one. -/
def execKStep (c : Nat) (s : State) : Out :=
  match s.matRun c with
  | none => .next s
  | some o =>
    if o.ph != .run then .next s
    else if o.due = 0 then .next (matNext s c).wake
    else
      let s1 := s.upTo o.due
      if s.stepGoes o then .next (matNext (lastStep s1 o) c).wake else .next (matStep s1 o).wake

/-! ### The vector engine -/

/-- The cycle from which the vector engine of a core may start another operation (R147). -/
def State.vecFree (s : State) (c : Nat) : Nat :=
  s.ops.foldl (fun m o => if o.core == c && o.eng == .vec && o.ph != .queued then max m (o.at0 + (tileOf o.i).occ) else m) 0

/-- The band that a drain reads, whole bank otherwise, as its 1,024 elements. -/
def drainEls (o : Op) (bank : Nat) : List Nat :=
  match bandOf o.i with
  | some (_, b) => unpack 32 1024 (bits bank (32768 * b) 32768)
  | none => []

/-- A vector operation starts in cycle `t`: it reads its sources, the rounding states advance, and what it will write
is settled, but for a `.now` drain. -/
def startVec (s : State) (o : Op) (t : Nat) : State :=
  let s1 := startReads s o
  let x := tileOf o.i
  let r : VRes := if o.guard then (match s.vecRes o with
    | .ok r => r
    | .error _ => {}) else {}
  let st := s1.strmOf o.sk
  let q := match o.i with
    | .vqrd _ _ q => if o.guard then mput [] st.q q.toNat ((mget [] st.q q.toNat).drop 64) else st.q
    | _ => st.q
  let s2 := s1.setStrm o.sk { st with lanes := r.lanes.getD st.lanes, q := q }
  let now := { o with ph := OpPh.run }.nowDrain
  let img : List Nat := match o.i with
    | .vlane _ ty _ _ _ _ => [(laneVal ty (s.images o) (o.gv.getD 0 0).toNat).toNat]
    | _ => if now then [(s.images o).getD 0 0, st.lanes.toNat] else []
  let o1 : Op := { o with
    ph := .run, at0 := t, due := t + x.lat, rdue := t + x.occ - 1, rds := s.tracked o, step := if now then 0 else 1
    img := img, res := r.dst, flags := BitVec.ofNat 8 r.fl }
  let s3 := s2.setOp o1
  match o.i with
  | .vsto _ _ _ _ =>
    if o.guard then (s.opDsts o).foldl (fun s x => shadowPut (shadowOpen s x.1) x.1 (r.dst.getD 0 [])) s3 else s3
  | _ => s3

/-- A vector operation has read its sources: a `.now` drain's elements are settled, and its reads retire (R26, R203). -/
def finishRead (s : State) (o : Op) : State :=
  if o.nowDrain then
    let was := drainEls o (o.img.getD 0 0)
    let is := drainEls o ((s.images o).getD 0 0)
    let els := (List.range 1024).map fun e => if Config.drainPick s.free e then is.getD e 0 else was.getD e 0
    match o.i with
    | .acdrain _ t _ _ rnd relu _ _ =>
      let r := drainVal t 0 rnd.toNat relu o.fpc (BitVec.ofNat 4096 (o.img.getD 1 0)) (pack 32 els)
      retireReads { s with free := s.free + 1 } { o with step := 1, res := r.dst, flags := BitVec.ofNat 8 r.fl }
    | _ => s
  else retireReads s { o with step := 1 }

/-- READ_RETIRE (R26): an operation has read the last byte it needs of its sources. -/
def execReadRetire (u : Nat) (s : State) : Out :=
  match s.opOf u with
  | none => .next s
  | some o =>
    if !s.coreRuns o.core || (o.rds.isEmpty && !o.nowDrain) then .next s
    else match o.eng with
      | .vec => if o.ph = .run then .next (finishRead (s.upTo o.rdue) o).wake else .next s
      | .mat => if o.ph = .tail then .next (retireReads s o).wake else .next s
      | _ => .next s

/-! ### Commit (R28, R29) -/

/-- An operation that finds a destination not ready starts to wait for it (R34). -/
def noteWait (s : State) (o : Op) : State := s.setOp { o with wait := some (o.wait.getD s.now) }

/-- OPERATION_COMMIT (R22, R29, R36): an operation's counted writes take effect once its destinations are ready (DEDUCED,
assumption 22), one write to an object in a cycle and in the order of R29; the row of a VSTO stands in the shadow, and its
publish is left (R185, assumption 28). -/
def execOperationCommit (u : Nat) (s : State) : Out :=
  match s.opOf u with
  | none => .next s
  | some o =>
    let ks := (s.opDsts o).map (·.1)
    let s0 := s.upTo (s.writeAt (max s.now o.due) ks)
    match o.eng with
    | .vec =>
      if o.ph != .run || !vecFirst s o || !s.vecGoes o then .next s
      else
        let own (s2 : State) : Op := (s2.opOf u).getD o
        let s2 := finishRead s0 o
        if o.isVsto then .next (s2.setOp { own s2 with ph := .tail }).wake
        else if !dstsReady s2 (own s2) then .next (noteWait s0 o)
        else writeAs s s0 o ks fun s1 => let s3 := finishRead s1 o; .next (commitVec s3 (own s3))
    | .mat =>
      if s.matRun o.core != some o || o.ph != .tail || drainReads s o then .next s
      else if !dstsReady (retireReads s0 o) o then .next (noteWait s0 o)
      else writeAs s s0 o ks fun s1 => .next (matNext (finishOp (writeDsts (retireReads s1 o) o) o) o.core).wake
    | _ => .next s

end Sys2Proof.Machine
end

