-- ==== Sys2Proof/Machine/Copy.lean ====
section
/-!
DEFINITION. The copy engine (R205 to R218): the issue of its instructions, fills, element steps, and publishes.
-/
namespace Sys2Proof.Machine

/-! ### Memory as the engines reach it -/

/-- Why an element step does not happen now: a fault, or a wait. -/
abbrev Stop := Option Refused

/-- Translate for a step of an operation; a missing right or a failed walk is its fault (R211, R308). -/
def stepAddr (s : State) (o : Op) (va : Nat) (wr : Bool) : Except Stop (Loc × State) :=
  match translate s o.core o.ctx va (if wr then .w else .r) with
  | .walkFault c => .error (some (opFault s o (if wr then 0x0A else 0x09) none (BitVec.ofNat 64 va) wr c, s))
  | .attr => .error (some (opFault s o 0x0B none (BitVec.ofNat 64 va) wr, s))
  | .ok l _ s1 =>
    if !reachable s o.ctx l then .error (some (opFault s o 0x0B none (BitVec.ofNat 64 va) wr, s))
    else if toPeer l && (healthyPorts s).isEmpty then .error none
    else .ok (l, s1)

/-- Whether an earlier store of the operation's stream to these bytes is still to be performed (R211). -/
def storesAhead (s : State) (o : Op) (k n : Nat) : Bool :=
  (s.before o).any fun a => a.writes && a.place.key < k + n && k < a.place.key + a.size

/-- Read `n` bytes at an address for a step, in the leaves they lie in. -/
def stepRead (o : Op) : Nat → State → Nat → Nat → Except Stop (Nat × State)
  | 0, s, _, _ => .ok (0, s)
  | fuel + 1, s, va, n =>
    if n = 0 then .ok (0, s)
    else
      let r := runLen va n
      match stepAddr s o va false with
      | .error e => .error e
      | .ok (l, s1) =>
        let k := memKey l
        if storesAhead s o k r then .error none
        else if s1.poisoned k r then .error (some (opFault s o 0x10 none (BitVec.ofNat 64 va), hbmCheck s o.ctx k))
        else match stepRead o fuel (s1.reach o.ctx l r none) ((va + r) % 2^64) (n - r) with
          | .error e => .error e
          | .ok (v, s2) => .ok (readN s1.mem k r + 2^(8 * r) * v, s2)

/-- A write that a step is to make: bytes by memory key, or the four bits from bit `nib` of one byte. -/
structure Wr where
  key : Nat
  n   : Nat
  v   : Nat
  nib : Option Nat := none
  va  : Nat
  deriving DecidableEq, Repr

/-- The writes of `n` bytes at an address, in the leaves they lie in. -/
def stepWrite (o : Op) (nib : Option Nat) : Nat → State → Nat → Nat → Nat → Except Stop (List Wr × State)
  | 0, s, _, _, _ => .ok ([], s)
  | fuel + 1, s, va, n, v =>
    if n = 0 then .ok ([], s)
    else
      let r := runLen va n
      match stepAddr s o va true with
      | .error e => .error e
      | .ok (l, s1) =>
        match stepWrite o nib fuel (s1.reach o.ctx l r (some (v % 2^(8 * r)))) ((va + r) % 2^64) (n - r) (v / 2^(8 * r)) with
        | .error e => .error e
        | .ok (ws, s2) => .ok (⟨memKey l, r, v % 2^(8 * r), nib, va⟩ :: ws, s2)

/-- The poisoned sectors that writes touch, with the address of the first write that does. -/
def poisonHit (s : State) (ws : List Wr) : List (Nat × Nat) :=
  s.mpois.filterMap fun p => (ws.find? fun w => w.key / 32 ≤ p && p ≤ (w.key + w.n - 1) / 32).map fun w => (p, w.va)

/-- Whether writes cover a whole sector. -/
def coversSector (ws : List Wr) (p : Nat) : Bool :=
  (List.range 32).all fun i => ws.any fun w => w.nib.isNone && w.key ≤ 32 * p + i && 32 * p + i < w.key + w.n

/-- Make the writes of a step (R211, R335, R343): poison that they do not cover faults, and a block that an epoch
still copies holds them. -/
def doWrites (s : State) (o : Op) (ws : List Wr) : Except Stop State :=
  match (poisonHit s ws).find? fun p => !coversSector ws p.1 with
  | some (p, va) => .error (some (opFault s o 0x10 none (BitVec.ofNat 64 va) true, hbmCheck s o.ctx (32 * p)))
  | none =>
    if ws.any fun w => s.ckHold w.key then .error none
    else
      let s1 := { s with mpois := s.mpois.filter fun p => !coversSector ws p }
      .ok (ws.foldl (fun s w => match w.nib with
        | none => s.store w.key w.n w.v
        | some b => s.store w.key 1 (setBits (readN s.mem w.key 1) b 4 w.v)) s1)

/-! ### Element steps (R207 to R209) -/

/-- Thread the state through a list. -/
def eachEl (f : State → α → Except Stop (β × State)) : State → List α → Except Stop (List β × State)
  | s, [] => .ok ([], s)
  | s, x :: xs =>
    match f s x with
    | .error e => .error e
    | .ok (y, s1) => match eachEl f s1 xs with
      | .error e => .error e
      | .ok (ys, s2) => .ok (y :: ys, s2)

/-- The step of a copy that is due: what it does in memory. -/
def Op.parts (o : Op) : List (Item × Nat × Nat × Nat) := stepParts o o.pos (stepLen o o.pos)

/-- The places of a copy's step that are among the first `n`. -/
def stepRange (o : Op) (n : Nat) : List Nat := ((List.range (stepLen o o.pos)).map (o.pos + ·)).filter (· < n)

/-- The elements of a step that lie outside, which a copy reads as FILL (R207). -/
def fillEls (o : Op) : List Nat := (stepRange o (recEls o.rcd)).filter fun e => (elIdx o e).isNone

/-- The blocks of a step all of whose elements lie outside, whose scale is 127 (R209). -/
def fillBlocks (o : Op) : List Nat :=
  (((stepRange o (32 * (blocksOf o).length)).filter (· % 32 == 0)).map (· / 32)).filter fun j => (blockIdx o j).isNone

/-- What a copy's step reads: of each element, bits from one of its bits on; of scales and metadata, bytes. -/
structure Got where
  els  : List (Nat × Nat × Nat × Nat) := []     -- element, first bit, bits, value
  scs  : List (Nat × Nat) := []                 -- block, scale
  side : List (Nat × Nat × Nat) := []           -- metadata byte, bytes, value
  deriving DecidableEq, Repr

/-- Add what has been read of an item. -/
def gotMore (t : Ty) (g : Got) (x : (Item × Nat × Nat × Nat) × Nat) : Got :=
  match x.1.1.what with
  | .el e i => { g with els := g.els ++ [if Ty.nib t then (e, 0, 4, elTake t i x.2) else (e, 8 * x.1.2.2.2, 8 * x.1.2.2.1, x.2)] }
  | .scale j => { g with scs := g.scs ++ [(j, x.2)] }
  | .side m => { g with side := g.side ++ [(m + x.1.2.2.2, x.1.2.2.1, x.2)] }

/-- Read what a copy's step reads, with FILL for what lies outside. -/
def readParts (o : Op) (s : State) : Except Stop (Got × State) := do
  let t := recTy o.rcd
  let (vs, s1) ← eachEl (fun s p => stepRead o 2 s p.2.1 p.2.2.1) s o.parts
  let g := (List.zip o.parts vs).foldl (gotMore t) {}
  .ok ({ g with els := g.els ++ (fillEls o).map fun e => (e, 0, Ty.w t, recFill o.rcd)
                scs := g.scs ++ (fillBlocks o).map fun j => (j, 127) }, s1)

/-- A step of CP or CPG: elements, in MX their scales, and metadata, into the shadow (R209, R262). -/
def readStep (o : Op) (k : Nat) (s : State) : Except Stop State := do
  let r := o.rcd
  let (g, s1) ← readParts o s
  let s2 := shadowBits s1 k (g.els.map fun x => (elDest o x.1 + x.2.1, x.2.2))
  let sc := g.scs.map fun x => (scaleDest o x.1, 1, x.2)
  if o.toSlot then .ok (sidePut s2 k (sc ++ g.side.map fun x => (512 + x.1, x.2)))
  else
    let last := elDest o 0 / 8 + tyBytes (recTy r) (recEls r)
    let pad := if hasScales o && (stepRange o (recEls r)).contains (recEls r - 1)
      then [(last, ceilDiv last 512 * 512 - last, 0)] else []
    .ok (shadowPut s2 k (pad ++ sc))

/-- The bits of an element of a copy's source: a frame's packed elements, or a bank band (R214, R215). -/
def srcEl (s : State) (o : Op) (e : Nat) : Nat :=
  let w := Ty.w (recTy o.rcd)
  match o.i with
  | .cpst _ .a _ _ a band =>
    bits (objVal s (s.opKey o .a a.obj.toNat)) (32 * (64 * (16 * band.toNat + e / recBox o.rcd 0) + e % recBox o.rcd 0)) 32
  | .cpst _ _ _ _ a _ => bits (objVal s (s.opKey o .f a.obj.toNat)) (w * e) w
  | .cps _ _ a _ => bits (objVal s (s.opKey o .f a.obj.toNat)) (w * e) w
  | _ => 0

/-- The byte of a frame that holds a block's scale. -/
def srcScale (s : State) (o : Op) (j : Nat) : Nat :=
  match o.i with
  | .cpst _ _ _ _ a _ => bytesAt (BitVec.ofNat 32768 (objVal s (s.opKey o .f a.obj.toNat))) (scaleDest o j) 1
  | .cps _ _ a _ => bytesAt (BitVec.ofNat 32768 (objVal s (s.opKey o .f a.obj.toNat))) (scaleDest o j) 1
  | _ => 0

/-- The writes of a part of an element or scale by CPST or CPS; an element outside is skipped (R207), and a block's scale is
written where an element of the block is (R209). -/
def writePart (o : Op) (s : State) (p : Item × Nat × Nat × Nat) : Except Stop (List Wr × State) :=
  match p.1.what with
  | .el e x =>
    let nib := if Ty.nib (recTy o.rcd) then some (if x.getD 0 0 % 2 = 0 then 0 else 4) else none
    stepWrite o nib 2 s p.2.1 p.2.2.1 (srcEl s o e / 2^(8 * p.2.2.2))
  | .scale j => stepWrite o none 2 s p.2.1 p.2.2.1 (srcScale s o j)
  | .side _ => .ok ([], s)

/-- A step of CPST or CPS. -/
def writeStep (o : Op) (s : State) : Except Stop State := do
  let (ws, s1) ← eachEl (writePart o) s o.parts
  doWrites s1 o ws.flatten

/-! ### CPQ (R216): the image holds the record, the elements read, the scales read, and the bytes delivered -/

/-- The bytes that a CPQ delivers, once all of it has been read. -/
def cpqTotal (o : Op) : Nat := packedEnd o.rcd 0

/-- 8-byte elements of a CPQ that may be delivered now, in all. -/
def cpqAvail (o : Op) : Nat :=
  if copyEnd o ≤ o.pos then ceilDiv (cpqTotal o) 8 else tyBytes (recTy o.rcd) o.pos / 8

/-- The byte string of a CPQ. -/
def cpqBytes (o : Op) : Nat :=
  o.img.getD 1 0 + o.img.getD 2 0 * 2^(8 * (ceilDiv (tyBytes (recTy o.rcd) (recEls o.rcd)) 512 * 512))

/-- Read the next step of a CPQ. -/
def cpqRead (o : Op) (s : State) : Except Stop (Op × State) := do
  let w := Ty.w (recTy o.rcd)
  let (g, s1) ← readParts o s
  let e := g.els.foldl (fun v x => setBits v (w * x.1 + x.2.1) x.2.2.1 x.2.2.2) (o.img.getD 1 0)
  let c := g.scs.foldl (fun v x => setBits v (8 * x.1) 8 x.2) (o.img.getD 2 0)
  .ok ({ o with step := o.step + 1, pos := o.pos + stepLen o o.pos, img := [o.rcd, e, c, o.img.getD 3 0] }, s1)

/-- Deliver what the port takes (R11, R216). -/
def cpqDeliver (o : Op) (q : Nat) (s : State) : Op × State :=
  let st := s.strmOf o.sk
  let l := mget [] st.q q
  let done := o.img.getD 3 0
  let n := min (cpqAvail o - done) (64 - l.length)
  let new := (List.range n).map fun i => BitVec.ofNat 64 (bits (cpqBytes o) (64 * (done + i)) 64)
  ({ o with img := [o.rcd, o.img.getD 1 0, o.img.getD 2 0, done + n] }, s.setStrm o.sk { st with q := mput [] st.q q (l ++ new) })

/-! ### Fills (R212) -/

/-- Enter a copy into a slot or frame: it joins a fill, and opens it where the object has none (R212). -/
def enterFill (s : State) (o : Op) : State :=
  match (s.opDsts o).head? with
  | none => enqueue s o
  | some d =>
    let f := s.fillOf d.1
    let g := joinGen s d.1
    let s1 := enqueue s { o with fill := g }
    if !f.opn && g == f.gen && !vstoAhead s d.1 o.sk s.fresh then openFill s1 d.1 else s1

/-- Enter a CPPUB. -/
def enterPub (s : State) (o : Op) : State :=
  match o.alsoNames.head? with
  | none => enqueue s o
  | some x => let k := s.opKey o x.1 x.2
    enqueue s { o with fill := joinGen s k }

/-! ### Issue (R205, R210, R213 to R218) -/

/-- Read `n` bytes at an address for an instruction at issue: translation, then a missing right, then poison. -/
def issueRead : Nat → State → Nat → Nat → Except Refused (Nat × State)
  | 0, s, _, _ => .ok (0, s)
  | fuel + 1, s, va, n =>
    if n = 0 then .ok (0, s)
    else
      let r := runLen va n
      let a := BitVec.ofNat 64 va
      match translate s s.myCore s.myCtx va .r with
      | .walkFault c => .error (pipeFault s 0x09 none a false 0 false c, s)
      | .attr => .error (pipeFault s 0x0B none a, s)
      | .ok l _ s1 =>
        let k := memKey l
        if !reachable s s.myCtx l then .error (pipeFault s 0x0B none a, s)
        else if s1.poisoned k r then .error (pipeFault s 0x10 none a, hbmCheck s s.myCtx k)
        else match issueRead fuel s1 (va + r) (n - r) with
          | .error e => .error e
          | .ok (v, s2) => .ok (readN s1.mem k r + 2^(8 * r) * v, s2)

/-- Read a shape record through the core's record cache (R205, R210). -/
def readRec (s : State) (a : Word) : Except Refused (Nat × State) :=
  let c := s.coreOf s.myCore
  let slot := (s.strmOf s.cur).slot
  if a.toNat % 64 != 0 then .error (pipeFault s 0x0C none a, s)
  else match c.recs.find? fun r => r.slot == slot && r.addr == a with
    | some r => .ok (r.img, s)
    | none => (issueRead 2 s a.toNat 192).map fun x =>
      let c1 := x.2.coreOf s.myCore
      (x.1, x.2.setCore s.myCore { c1 with recs := (⟨slot, a, x.1⟩ :: c1.recs).take 64 })

/-- The coordinates in gc to gc + n - 1, or none where one is pending (R213). -/
def coords (st : Stream) (gc n : Nat) : Option (List Word) :=
  if (List.range n).any fun d => bitN st.pend.toNat (gc + d) then none
  else some ((List.range n).map fun d => if gc + d = 0 then 0 else mget 0 st.g (gc + d))

/-- A copy at issue: its record, then its coordinates. -/
def preCopy (gc : Option G) (v : List Word) (o : Op) (s : State) : Pre :=
  match readRec s (v.getD 0 0) with
  | .error e => .error (some e)
  | .ok (r, s1) =>
    match gc with
    | none => .ok ({ o with gv := v, img := [r] }, s1)
    | some g =>
      if 31 < g.toNat + recRank r - 1 then preFault s (pipeFault s 0x02)
      else match coords (s1.strmOf s1.cur) g.toNat (recRank r) with
        | none => .error none
        | some cs => .ok ({ o with gv := v ++ cs, img := [r] }, s1)

def execCp (h : Header) (spc : Spc) (d : Dst) (gs gc : G) (doff : BitVec 7) (part : Bool) (s : State) : Out :=
  issueOp h 12 8 (.cp h spc d gs gc doff part) none (preCopy (some gc)) enterFill s

def execCpst (h : Header) (spc : Spc) (gs gc : G) (a : Src) (band : BitVec 2) (s : State) : Out :=
  issueOp h 12 8 (.cpst h spc gs gc a band) none (preCopy (some gc)) enqueue s

def execCpg (h : Header) (d : Dst) (gs : G) (c : Src) (s : State) : Out :=
  issueOp h 12 16 (.cpg h d gs c) none (preCopy none) enterFill s

def execCps (h : Header) (gs : G) (a c : Src) (s : State) : Out :=
  issueOp h 12 16 (.cps h gs a c) none (preCopy none) enqueue s

def execCpq (h : Header) (qn : BitVec 8) (gs gc : G) (s : State) : Out :=
  issueOp h 12 8 (.cpq h qn gs gc) none (preCopy (some gc)) enqueue s

def execCppub (h : Header) (spc : Spc) (obj : BitVec 8) (s : State) : Out :=
  issueOp h 12 8 (.cppub h spc obj) none noPre enterPub s

/-- RFENCE at issue (R218): the stream's earlier stores have been performed, and the record cache is empty for what issues
afterwards (DEDUCED, assumption 10). -/
def preRfence (_ : List Word) (o : Op) (s : State) : Pre :=
  if (s.strmOf s.cur).mq.all (fun a => a.isLd || a.isMark) then
    .ok (o, s.setCore s.myCore { s.coreOf s.myCore with recs := [] })
  else .error none

def execRfence (h : Header) (s : State) : Out := issueOp h 12 8 (.rfence h) none preRfence enqueue s

/-! ### Start, steps and publishes -/

/-- A copy starts in cycle `t` (R21, R26): index registers are read now. -/
def startCopy (s : State) (o : Op) (t : Nat) : State :=
  let s1 := startReads s o
  let early := (s.tracked o).filter fun k => k / 256 % 4 = 0
  let late := (s.tracked o).filter fun k => k / 256 % 4 != 0
  let s2 := early.foldl (fun s k => retireRead s 3 k) s1
  let o1 : Op := { o with ph := .run, at0 := t, due := t + 1, rds := late }
  let idx (c : Src) := (unpack 32 128 (objVal s (s.opKey o .t c.obj.toNat))).take 64
  match o.i with
  | .cpg _ _ _ c => s2.setOp { o1 with img := o.rcd :: (if o.guard then idx c else []) }
  | .cps _ _ _ c =>
    if o.guard then s2.setOp { o1 with img := o.rcd :: idx c } else finishOp (retireReads s2 o1) o1
  | .cpst _ _ _ _ _ _ => if o.guard then s2.setOp o1 else finishOp (retireReads s2 o1) o1
  | .cpq _ _ _ _ => if o.guard then s2.setOp o1 else finishOp s2 o1
  | .cppub _ spc x =>
    let k := s.opKey o spc x.toNat
    let f := s2.fillOf k
    if o.guard && f.opn then (s2.setOp { o1 with ph := .tail, fill := f.gen }).setFill k { f with closed := true }
    else finishOp s2 o1
  | .rfence _ => finishOp s2 o1
  | _ => s2.setOp o1

/-- A copy into a slot or frame has finished its element steps (R12, R212). -/
def fillDone (s : State) (o : Op) (k : Nat) : State :=
  if o.closes then (s.setOp { o with ph := .tail }).setFill k { s.fillOf k with closed := true }
  else completeOp (s.setOp { o with ph := .tail, uncnt := true }) o

/-- What a step's attempt comes to: a fault stops the copy at its boundary; a wait leaves everything. -/
def stepOut (s : State) (o : Op) (r : Except Stop State) : Out :=
  match r with
  | .ok s1 => .next s1.wake
  | .error none => .next s
  | .error (some (f, s1)) => .next (engineFault s1 o f)

/-- COPY_ELEMENT_STEP (R24, R207 to R216). -/
def execCopyElementStep (u : Nat) (s : State) : Out :=
  match s.opOf u with
  | none => .next s
  | some o =>
    if o.eng != .cpy || o.ph != .run || !s.opLive o then .next s
    else
      let s0 := s.upTo o.due
      let o1 := { o with step := o.step + 1, pos := o.pos + stepLen o o.pos, due := s0.now + 1 }
      match o.i, (s.opDsts o).head? with
      | .cpq _ q _ _, _ =>
        let ahead := s.ops.any fun p => p.sk == o.sk && p.uid < o.uid && (match p.i with
          | .cpq _ q2 _ _ => q2 == q
          | _ => false)
        if ahead then .next s
        else
          let l := (mget [] (s.strmOf o.sk).q q.toNat).length
          if o.img.getD 3 0 < cpqAvail o && 64 ≤ l then .next s
          else stepOut s0 o (do
            let (o2, s1) ← if o.img.getD 3 0 < cpqAvail o then .ok (o, s0) else cpqRead o s0
            let (o3, s2) := cpqDeliver o2 q.toNat s1
            let s3 := s2.setOp { o3 with due := s0.now + 1 }
            .ok (if copyEnd o3 ≤ o3.pos && cpqAvail o3 ≤ o3.img.getD 3 0 then finishOp s3 o3 else s3))
      | _, some d =>
        let f := s.fillOf d.1
        if !f.opn || f.gen != o.fill then .next s
        else if !o.guard then .next (fillDone s0 o d.1).wake
        else
          stepOut s0 o (do
            let s1 ← readStep o d.1 s0
            .ok (if o1.pos < copyEnd o then s1.setOp o1 else fillDone s1 o1 d.1))
      | _, none =>
        stepOut s0 o (do
          let s1 ← writeStep o s0
          .ok (if o1.pos < copyEnd o then s1.setOp o1 else finishOp (retireReads s1 o1) o1))

/-- SHADOW_PUBLISH (R28, R29, R37, R212): in the order of R29, the publish of a fill stands as the write of its copy issued
last, whose count it declares. -/
def execShadowPublish (c : Nat) (spc : Spc) (idx : Nat) (s : State) : Out :=
  let k := okey c spc idx
  let l := publishers s k
  match pubOp l with
  | none => .next s
  | some o =>
    if (spc != .o && spc != .f) || !l.all (fun p => if p.isVsto then s.vecGoes p else s.opLive p) || matReads s k then .next s
    else if !writeReady (s.cntOf k) then .next ((l.filter fun p => p.isVsto || p.closes).foldl noteWait s)
    else
      let s0 := s.upTo (s.writeAt s.now [k])
      writeAs s s0 o [k] fun s1 => .next (publish s1 k l).wake

end Sys2Proof.Machine
end

