-- ==== Sys2Proof/Machine/Near.lean ====
section
/-!
DEFINITION. The near-memory port (R219 to R226, R247, R264, R316): QPOST and KVAPP, the scans of the stacks and
their answer.

The image of an issued QPOST holds its record, then the packed query; its `res` holds each stack's partial until it
lands, and `step` the stacks whose partials have landed, by bits. The image of a KVAPP holds its record, then the token
record.
-/
namespace Sys2Proof.Machine

/-! ### Issue -/

/-- The KV map record of a near-memory instruction at issue (R219). -/
def readKv (s : State) (a : Word) : Except Refused (Nat × State) :=
  if a.toNat % 64 != 0 then .error (pipeFault s 0x0C none a, s)
  else match issueRead 2 s a.toNat 64 with
    | .error e => .error e
    | .ok (r, s1) => if kvBad r then .error (pipeFault s 0x12, s) else .ok (r, s1)

/-- The names of the registers that a near-memory instruction reads, known only with its record (R222, R226). -/
def groupFault (s : State) (o : Op) : Option FaultRec :=
  match dataGroup o with
  | some (x, n) => (namesFault s.myTask ((List.range n).map fun i => (.t, x.obj.toNat + i))).map fun f =>
      pipeFault s f.1 (some (f.2.1.code, BitVec.ofNat 8 f.2.2))
  | none => none

/-- Whether a valid leaf below a table that maps a part of a range of addresses has a property. -/
def anyLeaf (s : State) (o lo hi : Nat) (p : Nat → Bool) : Nat → Nat → Nat → Bool
  | 0, _, _ => false
  | lvl + 1, tbl, va => (List.range 1024).any fun i =>
    let n := 2^(lvlBits lvl)
    let a := va + i * n
    a < hi && lo < a + n && (
      let e := readN s.mem (memKey ⟨.dev o, tbl + 8 * i⟩) 8
      pteV e && !pteBad lvl e && if pteLeaf e then p e else anyLeaf s o lo hi p lvl (ptePA e) a)

/-- Bytes of the region of a KV map record: the rows that CAP covers (R222). -/
def kvRegion (r : Nat) : Nat := 2048 * ceilDiv (kvCap r) (kvTpr r)

/-- Whether a range of addresses has a page that is mapped without ATTN. -/
def lacksAttn (s : State) (ctx lo hi : Nat) : Bool :=
  let root := (s.ctxOf ctx).root.toNat
  bitN root 0 && anyLeaf s (s.ownerC ctx) lo hi (fun e => !pteAttn e) 4 (bits root 13 39 * 2^13) 0

/-- Whether the region of a record has a page that is mapped without ATTN (R219), where none from `lo` to `hi - 1` is. -/
def attnBad (s : State) (ctx r lo hi : Nat) : Bool :=
  lacksAttn s ctx (kvBase r) (kvBase r + kvRegion r) && !lacksAttn s ctx lo hi

/-- QPOST at issue (R219, R222): the record and L, then the bounds, and ATTN of the pages of the region. -/
def preQpost (qn : BitVec 4) (v : List Word) (o : Op) (s : State) : Pre :=
  match readKv s (v.getD 0 0) with
  | .error e => .error (some e)
  | .ok (r, s1) =>
    let q := qn.toNat
    if 1024 < q * kvD r || q = 0 || 8 < q || kvCap r < (v.getD 1 0).toNat || attnBad s s.myCtx r 0 0 then
      preFault s (pipeFault s 0x12)
    else
      let o1 := { o with img := [r] }
      match groupFault s o1 with
      | some f => preFault s f
      | none => .ok (o1, s1)

def execQpost (h : Header) (d : Dst) (c : Src) (gk gl : G) (qn : BitVec 4) (sigma : BitVec 32) (s : State) : Out :=
  issueOp h 13 16 (.qpost h d c gk gl qn sigma) none (preQpost qn) enqueue s

/-- KVAPP at issue (R219, R226): the record, then the position, and ATTN of the region's pages; where its token's own lacks it, cause
0x0B comes when the token is written (DEDUCED, assumption 30). -/
def preKvapp (v : List Word) (o : Op) (s : State) : Pre :=
  match readKv s (v.getD 0 0) with
  | .error e => .error (some e)
  | .ok (r, s1) =>
    let a := kvAddr r (v.getD 1 0).toNat
    if kvCap r ≤ (v.getD 1 0).toNat || attnBad s s.myCtx r a (a + kvBytes r) then preFault s (pipeFault s 0x12)
    else
      let o1 := { o with img := [r] }
      match groupFault s o1 with
      | some f => preFault s f
      | none => .ok (o1, s1)

def execKvapp (h : Header) (gk gp : G) (a : Src) (s : State) : Out :=
  issueOp h 13 8 (.kvapp h gk gp a) none preKvapp enqueue s

/-! ### Scans (R220, R223, R247, R316) -/

/-- A row of a region at a stack: its number, and its place there. -/
structure KvRow where
  row  : Nat
  die  : Nat
  bank : Nat
  rib  : Nat                    -- row in bank
  deriving DecidableEq, Repr

/-- The place of a row, with n stacks (R220, R316). -/
def kvPlace (n row : Nat) : KvRow :=
  let j := row / n
  ⟨row, j % 12, ((j / 12) ^^^ (j / 1536)) % 128, j / 1536⟩

/-- The order of a scan: die, then bank, then row in bank. -/
def KvRow.lt (a b : KvRow) : Bool :=
  a.die < b.die || (a.die == b.die && (a.bank < b.bank || (a.bank == b.bank && a.rib < b.rib)))

/-- The rows below L that partition stack `k` of `n` holds, in scan order. -/
def kvRows (r l n k : Nat) : List KvRow :=
  let rows := ceilDiv l (kvTpr r)
  sortBy KvRow.lt (((List.range (ceilDiv rows n)).map fun i => n * i + k).filter (· < rows) |>.map (kvPlace n))

/-- The bytes of a row, or none where it is poisoned or cannot be read (R223, R335). -/
def kvRead (s : State) (ctx r row : Nat) : Option Nat :=
  match peek s ctx (kvBase r + 2048 * row) with
  | .ok (l, e) => if pteR e && !s.poisoned (memKey l) 2048 then some (readN s.mem (memKey l) 2048) else none
  | .error _ => none

/-- Key type of a record, and its group size (R223, R244). -/
def kvTy (r : Nat) : Ty := Ty.of (BitVec.ofNat 4 (kvType r))
def kvGroup (r : Nat) : Nat := if kvType r = 1 then 64 else 128

/-- q·k, accumulated group by group from +0 (R223). -/
def dotGo (gs : Nat) : Nat → Nat → List FV → List FV → Nat
  | 0, c, _, _ => c
  | fuel + 1, c, q, k =>
    if k.isEmpty then c
    else
      let g := groupSum (List.zipWith (fun a b => prodOf a b 0) (q.take gs) (k.take gs))
      dotGo gs fuel (accumulate false c g).1 (q.drop gs) (k.drop gs)

/-- The token partial of a query (R247): `tok` is the token record, `q` the query's elements. A NaN score makes the
whole partial NaN. -/
def tokenPart (r : Nat) (sigma : Nat) (tok : Nat) (q : List FV) : Part :=
  let d := kvD r
  let t := kvTy r
  let w := Ty.w t
  let k := (unpack w d tok).map (fdec (fmtOf t) false)
  let v := (unpack w d (tok / 2^(w * d))).map fun x => (cvtElem .f32 t .rne 0 x).1
  let g := dotGo (kvGroup r) 4 0 q k
  let m := (rMul sigma g 0).1
  if (fdec f32F false m).isNaN then ⟨qNaN, qNaN, v.map fun _ => qNaN⟩ else ⟨m, 0x3F800000, v⟩

/-- Fold the tokens of a row below L into the partials of the queries. -/
def rowParts (r sigma l : Nat) (qs : List (List FV)) (row img : Nat) (ps : List Part) : List Part :=
  (List.range (kvTpr r)).foldl (fun ps i =>
    if kvTpr r * row + i < l then
      let tok := bits img (8 * (i * kvBytes r)) (8 * kvBytes r)
      List.zipWith (fun p q => (attnMerge p (tokenPart r sigma tok q) 0).1) ps qs
    else ps) ps

/-- Merge the partials of one bank, then of the banks in order (R223, R248): `cur` is the bank's running partial. -/
def scanGo (s : State) (ctx r sigma l : Nat) (qs : List (List FV)) :
    List KvRow → Option (Nat × Nat) → List Part → List Part → List Part
  | [], _, tot, cur => List.zipWith (fun a b => (attnMerge a b 0).1) tot cur
  | x :: xs, at', tot, cur =>
    let same := at' == some (x.die, x.bank)
    let tot1 := if same then tot else List.zipWith (fun a b => (attnMerge a b 0).1) tot cur
    let cur1 := if same then cur else qs.map fun _ => {}
    match kvRead s ctx r x.row with
    | some img => scanGo s ctx r sigma l qs xs (some (x.die, x.bank)) tot1 (rowParts r sigma l qs x.row img cur1)
    | none => scanGo s ctx r sigma l qs xs (some (x.die, x.bank)) tot1 cur1

/-- The status word of a stack that leaves rows out (R224). -/
def kvStatus (bad : List KvRow) : Nat :=
  match bad with
  | [] => 0
  | x :: _ => 1 + 2 * min bad.length 63 + 2^7 * x.die + 2^11 * x.bank + 2^18 * (x.rib % 2^14)

/-- The two frames of a stack's partial (R224). -/
def partFrames (r q status : Nat) (ps : List Part) : Nat × Nat :=
  let d := kvD r
  let get (i : Nat) : Part := ps.getD i {}
  let m := pack 32 ((List.range 8).map fun i => if i < q then (get i).m else 0xFF800000)
  let l := pack 32 ((List.range 8).map fun i => if i < q then (get i).l else 0)
  let acc := pack 32 ((List.range q).flatMap fun i => (List.range d).map fun e => (get i).acc.getD e 0)
  (m + 2^256 * l + 2^512 * status + 2^544 * (q + 16 * d), acc)

/-- The queries of a started QPOST. -/
def queries (o : Op) (q : Nat) : List (List FV) :=
  let d := kvD o.rcd
  (List.range q).map fun i => (unpack 16 d (o.img.getD 1 0 / 2^(16 * d * i))).map (fdec (fmtOf .bf16) false)

/-- Whether a near-memory command that has been sent goes on (R297, R330): its task stands on its core, or a trigger launched
it. -/
def State.nearLive (s : State) (o : Op) : Bool :=
  160 ≤ o.core || s.coreRuns o.core && o.ph != .queued && (match (s.taskOf o.tk).stat with
    | .empty | .ended => false
    | _ => true)

/-- Whether an answer may land in its task's frames: while they are scanned out it is held at the port (R297). -/
def State.landsOk (s : State) (o : Op) : Bool := !bitN (s.taskOf o.tk).out.toNat 5

/-- The stacks of an operation's partition, ascending. -/
def opStacks (s : State) (o : Op) : List Nat := s.stacksOf (s.ownerC o.ctx)

/-- The reads of a scan: they set A in the leaves of the rows' pages (R309), and count (R350). -/
def seeRows (s : State) (ctx r : Nat) (rows : List KvRow) : State :=
  rows.foldl (fun s x =>
    let a := kvBase r + 2048 * x.row
    match peek s ctx a with
    | .ok (l, e) => if pteR e then (s.touch ctx a false).forward (memKey l) 2048 2 else s
    | .error _ => s) s

/-- STACK_SCAN (R223, R316, R335): partition stack `k` of a QPOST scans. -/
def execStackScan (u k : Nat) (s : State) : Out :=
  match s.opOf u with
  | none => .next s
  | some o =>
    let st := opStacks s o
    match o.i with
    | .qpost _ _ _ _ _ qn sigma =>
      if !s.nearLive o || o.ph != .run || st.length ≤ k || !(o.res.getD k []).isEmpty then .next s
      else
        let r := o.rcd
        let q := qn.toNat
        let l := (o.gv.getD 1 0).toNat
        let rows := kvRows r l st.length k
        let bad := rows.filter fun x => (kvRead s o.ctx r x.row).isNone
        let qs := queries o q
        let none' := qs.map fun _ => ({} : Part)
        let ps := scanGo s o.ctx r sigma.toNat l qs rows none none' none'
        let status := kvStatus bad
        let f := partFrames r q status ps
        let s0 := seeRows s o.ctx r rows
        let s1 := if bad.isEmpty then s0
          else machineCheck s0 3 (st.getD k 0 / 2) 1 o.ctx
            (BitVec.ofNat 64 (status / 2^7 * 2^7 + 2^32 * st.getD k 0)) (BitVec.ofNat 64 status)
        let res := (List.range 8).map fun i => if i = k then [(0, 4096, f.1), (1, 4096, f.2)] else o.res.getD i []
        .next (s1.setOp { o with res := res }).wake
    | _ => .next s

/-- Write a whole frame and publish it, without a counted write (R225): an open fill keeps its shadow. -/
def landFrame (s : State) (k v : Nat) : State :=
  let s1 := if (s.fillOf k).opn then objPut s k [(0, 4096, v)] else swapShadow (shadowPut s k [(0, 4096, v)]) k
  unpoison s1 k

/-- STACK_PARTIAL_RETURN (R224, R225, R274, R316): a partial lands and its two frames publish; a stack beyond the
partition's gives the empty one. -/
def execStackPartialReturn (u k : Nat) (s : State) : Out :=
  match s.opOf u with
  | none => .next s
  | some o =>
    match o.i, (s.opDsts o).head? with
    | .qpost _ _ _ _ _ qn _, some d =>
      let n := (opStacks s o).length
      let own := o.res.getD k []
      if !s.nearLive o || !s.landsOk o || o.ph != .run || 8 ≤ k || bitN o.step k || (own.isEmpty && k < n) then .next s
      else if k = 0 && !writeReady (s.cntOf d.1) then .next (noteWait s o)
      else
        let empty := partFrames o.rcd qn.toNat 0 []
        let f := match own with
          | [a, b] => (a.2.2, b.2.2)
          | _ => empty
        let s1 := landFrame (landFrame s (d.1 + 2 * k) f.1) (d.1 + 2 * k + 1) f.2
        .next (s1.setOp { o with step := o.step + 2^k, wait := if k = 0 then none else o.wait }).wake
    | _, _ => .next s

/-- QPOST_ANSWER_COMPLETE (R36, R225): fx takes its one counted write; a void QPOST has only this. -/
def execQpostAnswerComplete (u : Nat) (s : State) : Out :=
  match s.opOf u with
  | none => .next s
  | some o =>
    match o.i, (s.opDsts o).head? with
    | .qpost _ _ _ _ _ _ _, some d =>
      if !s.nearLive o || !s.landsOk o || (o.guard && o.step != 255) then .next s
      else if !writeReady (s.cntOf d.1) then .next (noteWait s o)
      else
        let s0 := s.upTo (s.writeAt s.now [d.1])
        writeAs s s0 o [d.1] fun s1 => .next (finishOp (bump s1 d.1 o.tnum d.2 4) o).wake
    | _, _ => .next s

/-- KVAPP_PERFORMED (R221, R226): the whole token record is written at once. -/
def execKvappPerformed (u : Nat) (s : State) : Out :=
  match s.opOf u with
  | none => .next s
  | some o =>
    match o.i with
    | .kvapp _ _ _ _ =>
      if !s.nearLive o || o.ph != .run then .next s
      else stepOut s o (do
        let (ws, s1) ← stepWrite o none 3 s (kvAddr o.rcd (o.gv.getD 1 0).toNat) (kvBytes o.rcd) (o.img.getD 1 0)
        let s2 ← doWrites s1 o ws
        .ok (finishOp s2 o))
    | _ => .next s

end Sys2Proof.Machine
end

