-- ==== Sys2Proof/Machine/Coll.lean ====
section
/-!
DEFINITION. Collectives and triggers (R227 to R230, R266, R369 to R372).

The image of an issued COLL holds its parameter block, NRANK, MYRANK, its algorithm and the members' device numbers; once it has
started, `res` holds the words of each element that this member works on, as its own contribution or as the steps have made
it, and `got` how many partials and finished values have come in for it. What the other members send is an operand of the
steps that bring it. A collective that a trigger launched stands as an operation of core 160 + its stack.
-/
namespace Sys2Proof.Machine

/-- Fields of a parameter block (R227). -/
def collOp (b : Nat) : Nat := fld b 0 1
def collRed (b : Nat) : Nat := fld b 1 1
def collTy (b : Nat) : Ty := Ty.of (BitVec.ofNat 4 (fld b 2 1))
def collGroup (b : Nat) : Nat := fld b 4 2
def collRoot (b : Nat) : Nat := fld b 6 2
def collCount (b : Nat) : Nat := fld b 8 8
def collSend (b : Nat) : Nat := fld b 16 8
def collRecv (b : Nat) : Nat := fld b 24 8
def collD (b : Nat) : Nat := fld b 32 2
/-- Whether the operation reduces. -/
def collReduces (b : Nat) : Bool := collOp b < 3

/-- f32 words of one element as it travels (R227, R228); two for a 64-bit type. -/
def collWords (b : Nat) : Nat :=
  if collReduces b && collRed b = 3 then 3
  else if collReduces b && collRed b = 4 then 2 + collD b
  else if collTy b = .s64 then 2 else 1

/-- Whether an element is STAT or ATTN, held as f32 words. -/
def collParts (b : Nat) : Bool := collReduces b && 3 ≤ collRed b

/-- Bytes of `n` elements of a buffer. -/
def collBytes (b n : Nat) : Nat := if collParts b then 4 * collWords b * n else tyBytes (collTy b) n

/-- Whether a block breaks the table of R227 (cause 0x12). -/
def collBad (b : Nat) : Bool :=
  5 < collOp b || (collReduces b && 4 < collRed b) || 15 < fld b 2 1 || 3 < fld b 3 1 || fld b 34 94 != 0
    || (collReduces b && collRed b = 3 && collTy b != .f32) || (collReduces b && collRed b = 4 && (collD b = 0 || 1024 < collD b))
    || (collReduces b && collRed b < 3 && !(collTy b).isFloat)

/-- Whether a group breaks R369 for a block. -/
def groupBad (s : State) (b nrank myrank : Nat) (list : List Nat) : Bool :=
  nrank < 2 || 576 < nrank || nrank ≤ myrank || list.any (fun d => !s.inDomain d) || list.eraseDups.length != list.length
    || list.getD myrank 0 != bits s.dev.pf0.domain.toNat 0 10 || (fld b 3 1 = 3 && 2^(Nat.log2 nrank) != nrank)
    || ((collOp b = 1 || collOp b = 4) && nrank ≤ collRoot b)

/-! ### The steps of a collective (R248, R370) -/

/-- A collective as a member sees it: block, NRANK, MYRANK, algorithm (1 ring, 2 tree, 3 halving-doubling), the members'
device numbers, and its re-formed merge tree, with the elements that were under way when it was formed. -/
structure Coll where
  b    : Nat
  n    : Nat
  me   : Nat
  alg  : Nat
  list : List Nat
  tree : Option (Nat × List Nat) := none

/-- The collective of an operation. -/
def Op.coll (o : Op) : Coll := ⟨o.img.getD 0 0, o.img.getD 1 0, o.img.getD 2 0, o.img.getD 3 0, o.img.drop 4, o.tree⟩

/-- Whether each rank has COUNT elements of its own in the data worked on. -/
def Coll.perRank (c : Coll) : Bool := collOp c.b == 2 || collOp c.b == 3 || collOp c.b == 5

/-- Elements that the members work on. -/
def Coll.els (c : Coll) : Nat := if c.perRank then c.n * collCount c.b else collCount c.b

/-- The chunk of an element, which the rank of that number owns: as R370 cuts the data, or as the operation gives it
(DESIGN CHOICE, assumption 63). -/
def Coll.chunk (c : Coll) (i : Nat) : Nat := if c.perRank then i / collCount c.b else i / ceilDiv (collCount c.b) c.n

/-- The rank at which a tree is rooted (R370). -/
def Coll.root (c : Coll) : Nat := if collOp c.b = 1 || collOp c.b = 4 then collRoot c.b else 0

/-- A rank counted from the root. -/
def Coll.rel (c : Coll) (r : Nat) : Nat := (r + c.n - c.root) % c.n
/-- The rank that counts so from the root. -/
def Coll.abs (c : Coll) (v : Nat) : Nat := (v + c.root) % c.n
/-- The next rank of the ring, and the one before. -/
def Coll.next (c : Coll) : Nat := (c.me + 1) % c.n
def Coll.prev (c : Coll) : Nat := (c.me + c.n - 1) % c.n

/-- The levels at which this member of the binomial tree has a child. -/
def Coll.kids (c : Coll) : List Nat := (List.range 10).filter fun l => c.rel c.me % 2^(l + 1) == 0 && c.rel c.me + 2^l < c.n

/-- Its level below its parent, if it is not the root. -/
def Coll.rank (c : Coll) : Option Nat := (List.range 10).find? fun l => c.rel c.me % 2^(l + 1) != 0
/-- Its parent. -/
def Coll.parent (c : Coll) : Nat := c.abs (c.rel c.me - 2^(c.rank.getD 0))

/-- The distances of recursive halving, the first round first. -/
def Coll.masks (c : Coll) : List Nat := ((List.range (Nat.log2 c.n)).map (2^·)).reverse

/-- The highest distance at which this member and a rank part. -/
def Coll.parts (c : Coll) (r : Nat) : Nat := 2^(Nat.log2 (c.me ^^^ r))

/-- The free value of the re-formed merge tree by which an element goes, if it was under way then (R371). -/
def Coll.reformed (c : Coll) (i : Nat) : Option Nat := (c.tree.filter fun x => x.2.contains i).map (·.1)

/-- The ranks whose partials of an element this member merges, in order (R248, R370). -/
def Coll.from' (c : Coll) (i : Nat) : List Nat :=
  if !collReduces c.b then []
  else match c.reformed i, c.alg with
  | some x, _ => Config.treeFrom x i
  | none, a => match a with
    | 1 => if c.me = (c.chunk i + 1) % c.n then [] else [c.prev]
    | 2 => c.kids.map fun l => c.abs (c.rel c.me + 2^l)
    | _ => (c.masks.filter fun m => c.chunk i / m == c.me / m).map (c.me ^^^ ·)

/-- Whether the finished value of an element comes in from another member. -/
def Coll.fin (c : Coll) (i : Nat) : Bool :=
  let k := c.chunk i
  match c.reformed i with
  | some x => Config.treeFin x i
  | none => match collOp c.b with
  | 0 => if c.alg = 2 then c.rank.isSome else k != c.me
  | 1 => c.alg != 2 && c.me == c.root && k != c.me
  | 2 => c.alg == 2 && (match c.rank with
      | some l => c.rel c.me ≤ c.rel k && c.rel k < c.rel c.me + 2^l
      | none => false)
  | 4 => c.me != c.root
  | _ => k != c.me

/-- The ranks to which this member passes its partial of an element, once it has merged those that come in. -/
def Coll.ups (c : Coll) (i : Nat) : List Nat :=
  if !collReduces c.b then []
  else match c.reformed i with
  | some x => Config.treeUps x i
  | none => match c.alg with
    | 1 => if c.chunk i = c.me then [] else [c.next]
    | 2 => if c.rank.isSome then [c.parent] else []
    | _ => if c.chunk i = c.me then [] else [c.me ^^^ c.parts (c.chunk i)]

/-- The ranks to which it passes the finished value of an element (DESIGN CHOICE where R370 gives no path, assumption 63). -/
def Coll.downs (c : Coll) (i : Nat) : List Nat :=
  let k := c.chunk i
  let ring := if c.next = k then [] else [c.next]
  let tree := c.kids.map fun l => c.abs (c.rel c.me + 2^l)
  let others := (List.range c.n).filter (· != c.me)
  match c.reformed i with
  | some x => Config.treeDowns x i
  | none => match collOp c.b, c.alg with
  | 0, 1 => ring
  | 0, 2 => tree
  | 0, _ => (c.masks.filter fun m => k / m == c.me / m).map (c.me ^^^ ·)
  | 1, a => if a != 2 && k = c.me && k != c.root then [c.root] else []
  | 2, 2 => (c.kids.filter fun l => c.rel c.me + 2^l ≤ c.rel k && c.rel k < c.rel c.me + 2^(l + 1)).map fun l =>
      c.abs (c.rel c.me + 2^l)
  | 2, _ => []
  | 3, 1 => ring
  | 4, 1 => if c.next = c.root then [] else [c.next]
  | 4, 2 => tree
  | 4, _ => if c.me = c.root then others else []
  | 5, _ => []
  | _, _ => if k = c.me then others else []

/-- Elements delivered to RECV here. -/
def Coll.outs (c : Coll) : List Nat :=
  match collOp c.b with
  | 1 => if c.me = collRoot c.b then List.range c.els else []
  | 2 => (List.range (collCount c.b)).map (c.me * collCount c.b + ·)
  | _ => List.range c.els

/-- The element of SEND that is the local contribution to element `i`, if there is one. -/
def Coll.local' (c : Coll) (i : Nat) : Option Nat :=
  match collOp c.b with
  | 3 => if c.chunk i = c.me then some (i % collCount c.b) else none
  | 4 => if c.me = collRoot c.b then some i else none
  | 5 => if c.chunk i = c.me then some i else none
  | _ => some i

/-- Bytes of SEND that a block reads. -/
def Coll.sendBytes (c : Coll) : Nat :=
  collBytes c.b (if collOp c.b = 2 || collOp c.b = 5 then c.n * collCount c.b else collCount c.b)

/-- Whether everything has come in for an element. -/
def Coll.whole (c : Coll) (got : List Nat) (i : Nat) : Bool := got.getD i 0 == (c.from' i).length + (c.fin i).toNat

/-- A collective step to a rank (R363, R370): words of an element, a partial or, `fin`, its finished value (the fields are
assumption 62). -/
def collSend' (s : State) (ctx : Nat) (c : Coll) (r : Nat) (fin : Bool) (i : Nat) (words : List Nat) : State :=
  spreadData s { flitTo s (c.list.getD r 0) (s.ownerC ctx) 6 0 i with op := BitVec.ofNat 8 fin.toNat } (4 * words.length) (pack 32 words)

/-- The flits that pass an element on, after something has come in for it: its partial where all of them are merged and it goes
up, its finished value where it is finished here. -/
def collPass (s : State) (ctx : Nat) (c : Coll) (got : List Nat) (words : List Nat) (i : Nat) : State :=
  let g := got.getD i 0
  let up := if g = (c.from' i).length then c.ups i else []
  let own := (c.from' i).length == g && c.ups i == [] && !c.fin i && (collReduces c.b || (c.local' i).isSome)
  let down := if own || (c.fin i && c.whole got i) then c.downs i else []
  let s1 := up.foldl (fun s r => collSend' s ctx c r false i words) s
  down.foldl (fun s r => collSend' s ctx c r true i words) s1

/-! ### Issue and start -/

/-- The algorithm of a block's collective; the device chooses where ALG is 0 (R248). -/
def collAlg (s : State) (b n : Nat) : Nat :=
  match fld b 3 1 with
  | 0 =>
    let a := Config.collAlg s.free % 3 + 1
    if a = 3 && 2^(Nat.log2 n) != n then 1 else a
  | a => a

/-- COLL at issue (R227, R318, R369). -/
def preColl (v : List Word) (o : Op) (s : State) : Pre :=
  let a := v.getD 0 0
  let grp := (s.ctxOf s.myCtx).grptab.toNat
  if a.toNat % 128 != 0 then preFault s (pipeFault s 0x0C none a)
  else match issueRead 2 s a.toNat 128 with
    | .error e => .error (some e)
    | .ok (b, s1) =>
      if collBad b || bits grp 0 12 ≤ collGroup b then preFault s (pipeFault s 0x12)
      else match issueRead 2 s1 (bits grp 12 52 * 2^12 + 16 * collGroup b) 16 with
        | .error e => .error (some e)
        | .ok (e, s2) =>
          let n := fld e 0 2
          if 576 < n || fld e 4 4 != 0 then preFault s (pipeFault s 0x12)
          else match issueRead 3 s2 (fld e 8 8) (2 * n) with
            | .error e => .error (some e)
            | .ok (l, s3) =>
              if groupBad s b n (fld e 2 2) (unpack 16 n l) then preFault s (pipeFault s 0x12)
              else if (s.funOf (s.ownerC s.myCtx)).balOut.isNone then preFault s (pipeFault s 0x0B none a)
              else .ok ({ o with img := [b, n, fld e 2 2, collAlg s3 b n] ++ unpack 16 n l }, { s3 with free := s3.free + 1 })

def execColl (h : Header) (d : Dst) (gb : G) (s : State) : Out := issueOp h 13 8 (.coll h d gb) none preColl enqueue s

/-- An element of a buffer as it travels: FP32, f32 words, or its own bits (R228, R370). The conversion raises no flag (DESIGN
CHOICE, assumption 71). -/
def collEnter (b v : Nat) : List Nat :=
  if collParts b then unpack 32 (collWords b) v
  else if (collTy b).isFloat then [(cvtElem .f32 (collTy b) .rne 0 v).1]
  else unpack 32 (collWords b) v

/-- The merge of two partials, A and then B (R228, R245, R248). -/
def collMerge (b : Nat) (a x : List Nat) : List Nat × Nat :=
  let g (l : List Nat) (i : Nat) := l.getD i 0
  match collRed b with
  | 0 => let r := rAdd (g a 0) (g x 0) 0
    ([r.1], r.2)
  | 1 => let r := fminmax f32F false true (g a 0) (g x 0)
    ([r.1], r.2)
  | 2 => let r := fminmax f32F false false (g a 0) (g x 0)
    ([r.1], r.2)
  | 3 => let r := statMerge ⟨g a 0, g a 1, g a 2⟩ ⟨g x 0, g x 1, g x 2⟩ 0
    ([r.1.w, r.1.mu, r.1.m2], r.2)
  | _ => let r := attnMerge ⟨g a 0, g a 1, a.drop 2⟩ ⟨g x 0, g x 1, x.drop 2⟩ 0
    (r.1.m :: r.1.l :: r.1.acc, r.2)

/-- Final delivery of an element: its bits in RECV, and the flags of its conversion (R162, R228). -/
def collLeave (b : Nat) (sat : Bool) (w : List Nat) : Nat × Nat :=
  if collParts b then (pack 32 w, 0)
  else if (collTy b).isFloat && collTy b != .f32 then cvtF (collTy b) .rne false sat (fdec f32F false (w.getD 0 0))
  else (pack 32 w % 2^(Ty.w (collTy b)), 0)

/-- The element at a place of a packed buffer. -/
def collAt (b buf i : Nat) : Nat :=
  let w := if collParts b then 32 * collWords b else Ty.w (collTy b)
  bits buf (w * i) w

/-- A collective has read SEND: its own contributions, and the flits that carry those that start a path. -/
def collOpen (s : State) (o : Op) (buf : Nat) : State :=
  let c := o.coll
  let own (i : Nat) : List (Nat × Nat × Nat) :=
    match c.local' i with
    | some j => (collEnter c.b (collAt c.b buf j)).map fun w => (0, 4, w)
    | none => []
  let s1 := s.setOp { o with res := (List.range c.els).map own, got := List.replicate c.els 0 }
  let away := if collOp c.b = 5 then (List.range c.els).filter fun i => c.chunk i != c.me else []
  let s2 := away.foldl (fun s i => collSend' s o.ctx c (c.chunk i) true i (collEnter c.b (collAt c.b buf i))) s1
  (List.range c.els).foldl (fun s i => collPass s o.ctx c (List.replicate c.els 0) ((own i).map (·.2.2)) i) s2

/-- A COLL starts (R228): its local contributions are read. -/
def startColl (s : State) (o : Op) (t : Nat) : State :=
  let o1 : Op := { o with ph := .run, at0 := t, due := t + 1 }
  if !o.guard then s.setOp { o1 with ph := .tail }
  else
    let len := o.coll.sendBytes
    match stepRead o (len / 65536 + 2) s (collSend o.coll.b) len with
    | .error none => s
    | .error (some (f, s1)) => engineFault s1 o f
    | .ok (buf, s1) => collOpen s1 o1 buf

/-! ### Receive-reduce steps and the end -/

/-- Whether the partial received is operand A of a merge: in a ring always, in the other algorithms where it is the lower
rank's; after a reroute as the merge tree then used has it (R228, R248). -/
def collFirst (s : State) (o : Op) (src : Nat) : Bool :=
  if o.rer then Config.rerouteFirst s.free else o.coll.alg == 1 || src < o.coll.me

/-- COLL_RECEIVE_REDUCE_STEP (R228, R248, R370): the next partial of element `i` meets the local one; a number from the count
of elements up brings the finished value of an element. What is due to go on goes on. -/
def execCollReceiveReduceStep (u i : Nat) (part : List (BitVec 32)) (s : State) : Out :=
  match s.opOf u with
  | none => .next s
  | some o =>
    match o.i with
    | .coll _ _ _ =>
      let c := o.coll
      let w := part.map (·.toNat)
      if !s.nearLive o || o.ph != .run || part.length != collWords c.b || (healthyPorts s).isEmpty then .next s
      else if i < c.els then
        match (c.from' i)[o.got.getD i 0]? with
        | none => .next s
        | some src =>
          let own := (o.res.getD i []).map (·.2.2)
          let r := if collFirst s o src then collMerge c.b w own else collMerge c.b own w
          let got := o.got.set i (o.got.getD i 0 + 1)
          .next (collPass ({ s with free := s.free + 1 }.setOp { o with
            res := o.res.set i (r.1.map fun x => (0, 4, x)), got := got, flags := o.flags ||| BitVec.ofNat 8 r.2 }) o.ctx c got r.1 i).wake
      else
        let j := i - c.els
        if c.els ≤ j || !c.fin j || o.got.getD j 0 != (c.from' j).length then .next s
        else
          let got := o.got.set j (o.got.getD j 0 + 1)
          .next (collPass (s.setOp { o with res := o.res.set j (w.map fun x => (0, 4, x)), got := got }) o.ctx c got w j).wake
    | _ => .next s

/-- OVERFLOW and INVALID of a record (R228). -/
def collRaised (fl : Nat) : Nat := (if fl &&& fOVF != 0 then 2 else 0) + (if fl &&& fINV != 0 then 4 else 0)

/-- The completion record (R228). -/
def collRecord (status flags bytes cycles : Nat) : Nat := status + 2^32 * flags + 2^64 * (bytes % 2^64) + 2^128 * (cycles % 2^64)

/-- A collective ends: RECV is written, then the record is published and fx takes its counted write (R36, R228). One that a
trigger launched has no record. -/
def collEnd (s : State) (o : Op) (status flags bytes : Nat) (recv : Option Nat) : Out :=
  let b := o.coll.b
  let len := match recv with
    | some _ => collBytes b o.coll.outs.length
    | none => 0
  if 160 ≤ o.core then .next ((vwrite s o.ctx false (len / 65536 + 2) (collRecv b) len (recv.getD 0)).2.2.dropOp o.uid).wake
  else match (s.opDsts o).head? with
    | none => .next s
    | some (k, rc) =>
      if !s.landsOk o then .next s
      else if !writeReady (s.cntOf k) then .next (noteWait s o)
      else
        let s0 := s.upTo (s.writeAt s.now [k])
        writeAs s s0 o [k] fun s0 => stepOut s0 o (do
          let (ws, s1) ← stepWrite o none (len / 65536 + 2) s0 (collRecv b) len (recv.getD 0)
          let s2 ← doWrites s1 o ws
          let img := collRecord status flags bytes (s0.now - o.cyc)
          .ok (finishOp (bump (landFrame s2 k img) k o.tnum rc 4) o))

/-- COLL_COMPLETE (R228, R370): everything has come in for every element, or a member's block disagreed; a void COLL has only
its counted write. -/
def execCollComplete (u : Nat) (e : CollEnd) (s : State) : Out :=
  match s.opOf u with
  | none => .next s
  | some o =>
    match o.i, (s.opDsts o).head? with
    | .coll _ _ _, some d =>
      let c := o.coll
      if !s.nearLive o then .next s
      else if !o.guard then
        if !s.landsOk o then .next s
        else if !writeReady (s.cntOf d.1) then .next (noteWait s o)
        else
          let s0 := s.upTo (s.writeAt s.now [d.1])
          writeAs s s0 o [d.1] fun s1 => .next (finishOp (bump s1 d.1 o.tnum d.2 4) o).wake
      else match e with
        | .mismatch => collEnd s { o with flags := 0 } 1 (o.rer.toNat + 16) 0 none
        | .ok rer ovf inv =>
          if o.ph != .run || !(List.range c.els).all (c.whole o.got) then .next s
          else
            let sat := fpcSAT o.fpc
            let out := c.outs.map fun i => collLeave c.b sat ((o.res.getD i []).map (·.2.2))
            let fl := out.foldl (fun a x => a ||| x.2)
              (o.flags.toNat ||| (if ovf then fOVF else 0) ||| (if inv then fINV else 0))
            let w := if collParts c.b then 32 * collWords c.b else Ty.w (collTy c.b)
            collEnd s { o with flags := BitVec.ofNat 8 fl } 0 ((rer || o.rer).toNat + collRaised fl)
              (collBytes c.b c.outs.length) (some (pack w (out.map (·.1))))
    | _, _ => .next s

/-- COLL_MEMBER_TIMEOUT (R371): the contents of RECV are undefined, and INCOMPLETE, BYTES and what other members report for the
record unstated. -/
def execCollMemberTimeout (u : Nat) (s : State) : Out :=
  match s.opOf u with
  | none => .next s
  | some o =>
    match o.i with
    | .coll _ _ _ =>
      if !s.nearLive o || !o.guard || o.ph != .run then .next s
      else
        let s1 := s.upTo (o.at0 + 270000000)
        let n := collBytes o.coll.b o.coll.outs.length
        let v := pack 8 ((List.range n).map fun i => (Config.recvByte (s.free + i)).toNat)
        let f := (Config.timeoutFlags s.free).toNat
        collEnd { s1 with free := s1.free + n + 1 } o 1 ((if o.rer then 1 else f % 2) + 8 * (f / 2) + collRaised o.flags.toNat)
          (Config.timeoutBytes s.free).toNat (some v)
    | _ => .next s

/-! ### Triggers (R229, R230, R372) -/

/-- The stack and entry that a value names, or cause 0x02 (R229). -/
def trigName (v : Word) : Option (Nat × Nat) := if v.toNat / 2^11 != 0 then none else some (bits v.toNat 8 3, bits v.toNat 0 8)

/-- Whether a command breaks the table of R229. -/
def cmdBad (c : Nat) : Bool :=
  let k := fld c 0 1
  k < 1 || 4 < k || fld c 1 1 = 0 || fld c 2 6 != 0 || fld c 32 32 != 0
    || (k = 3 && fld c 8 8 / 2^21 != 0) || (k != 1 && fld c 24 8 != 0) || ((k = 2 || k = 3) && fld c 16 8 != 0)

/-- The causes of an entry's name (R229). -/
def trigFault (s : State) (v : Word) : Option FaultRec :=
  match trigName v with
  | none => some (pipeFault s 0x02)
  | some (st, _) => if (s.stacksOf (s.ownerC s.myCtx)).contains st then none else some (pipeFault s 0x0B)

/-- TRIGARM at issue: the entry, then the command (R229). -/
def preArm (v : List Word) (o : Op) (s : State) : Pre :=
  let a := v.getD 1 0
  match trigFault s (v.getD 0 0) with
  | some f => preFault s f
  | none =>
    if a.toNat % 64 != 0 then preFault s (pipeFault s 0x0C none a)
    else match issueRead 2 s a.toNat 64 with
      | .error e => .error (some e)
      | .ok (c, s1) => if cmdBad c then preFault s (pipeFault s 0x12) else .ok ({ o with img := [c] }, s1)

def execTrigarm (h : Header) (gi gb : G) (s : State) : Out := issueOp h 13 8 (.trigarm h gi gb) none preArm enqueue s

/-- TRIGCLR at issue. -/
def preClr (v : List Word) (o : Op) (s : State) : Pre :=
  match trigFault s (v.getD 0 0) with
  | some f => preFault s f
  | none => .ok (o, s)

def execTrigclr (h : Header) (gi : G) (s : State) : Out := issueOp h 13 8 (.trigclr h gi) none preClr enqueue s

/-- TSEND at issue (R230): the entry's name has its form, and on this device its stack is the partition's (R229, R316); the
device lies in the domain, and the partition has a key for it (R318). -/
def preSend (v : List Word) (o : Op) (s : State) : Pre :=
  let d := bits (v.getD 0 0).toNat 0 10
  if (trigName (v.getD 1 0)).isNone then preFault s (pipeFault s 0x02)
  else if !s.inDomain d || (d != s.self && (s.funOf (s.ownerC s.myCtx)).balOut.isNone) then preFault s (pipeFault s 0x0B)
  else match if d = s.self then trigFault s (v.getD 1 0) else none with
    | some f => preFault s f
    | none => .ok (o, s)

def execTsend (h : Header) (gdev gi : G) (s : State) : Out := issueOp h 13 8 (.tsend h gdev gi) none preSend enqueue s

/-- A packet reaches an entry (R230): an armed one counts down and launches at 0; otherwise it is a miss. -/
def packetAt (s : State) (stack entry : Nat) : State :=
  let k := s.stackOf stack
  let t := mget {} k.trig entry
  if !t.armed then s.setStack stack { k with miss := k.miss + 1 }
  else if t.cd ≤ 1 then
    s.setStack stack { k with trig := mput {} k.trig entry { t with armed := false, cd := 0 }, queue := k.queue ++ [⟨t.cmd, t.ctx⟩] }
  else s.setStack stack { k with trig := mput {} k.trig entry { t with cd := t.cd - 1 } }

/-- Send a packet of a context from a core's stream, or from stack `core` - 160: to this device's own entry, of a stack of the
context's partition, or out through the path's port, where it stands until it is acknowledged end to end (R230, R316,
R366). A partition without a key sends none (R318). Whether the device is in the domain TSEND alone
tests (DESIGN CHOICE, assumption 70). -/
def sendPacket (s : State) (ctx core strm dev entry : Nat) : State :=
  let own := s.ownerC ctx
  if dev = s.self then (if (s.stacksOf own).contains (entry / 256) then packetAt s (entry / 256) (entry % 256) else s)
  else if (s.funOf own).balOut.isNone then s
  else pathSend s core strm (flitTo s dev own 7 0 entry)

/-- TRIGARM, TRIGCLR and a TSEND to this device act as they start, and complete; a TSEND to another device is sent, and
completes when it is acknowledged end to end (R12, R230, R366). -/
def startTrig (s : State) (o : Op) : State :=
  let v := o.gv.getD 0 0
  let st := bits v.toNat 8 3
  let e := bits v.toNat 0 8
  let k := s.stackOf st
  if !o.guard then finishOp s o
  else match o.i with
    | .trigarm _ _ _ =>
      let c := o.img.getD 0 0
      finishOp (s.setStack st { k with trig := mput {} k.trig e ⟨BitVec.ofNat 512 c, o.ctx, fld c 1 1, true⟩ }) o
    | .trigclr _ _ => finishOp (s.setStack st { k with trig := mput {} k.trig e { mget {} k.trig e with armed := false } }) o
    | .tsend _ _ _ =>
      let d := bits v.toNat 0 10
      let s1 := sendPacket s o.ctx o.core o.strm d (o.gv.getD 1 0).toNat
      if d = s.self then finishOp s1 o else s1.setOp { o with img := [s.fresh % 2^32] }
    | _ => finishOp s o

/-- A near-memory command starts in cycle `t`: its tile registers are read now. -/
def startNear (s : State) (o : Op) (t : Nat) : State :=
  let s1 := (s.tracked o).foldl (fun s k => retireRead s 4 k) (startReads s o)
  let o1 : Op := { o with ph := .run, at0 := t, due := t + 1 }
  let data (w : Nat) := pack w (s.images o)
  match o.i with
  | .qpost _ _ _ _ _ _ _ =>
    s1.setOp (if o.guard then { o1 with img := [o.rcd, data 4096], step := 0 } else { o1 with ph := .tail })
  | .kvapp _ _ _ _ => if o.guard then s1.setOp { o1 with img := [o.rcd, data 4096 % 2^(8 * kvBytes o.rcd)] } else finishOp s1 o1
  | .coll _ _ _ => startColl s1 o t
  | _ => startTrig s1 o1

/-- TRIGGER_PACKET_ARRIVAL (R230). -/
def execTriggerPacketArrival (stack entry : Nat) (s : State) : Out :=
  if 8 ≤ stack || 256 ≤ entry then .next s else .next (packetAt s stack entry)

/-! ### Triggered commands (R229, R372) -/

/-- A triggered collective begins (R227, R229, R369), as an operation of its stack; a block or a group that breaks a rule, or
that cannot be read, makes none (DESIGN CHOICE, assumption 41). It has no stream, so that its FPC is 0 (DESIGN CHOICE, assumption
70). -/
def trigColl (s : State) (stack : Nat) (c : Cmd) : State :=
  let g := (s.ctxOf c.ctx).grptab.toNat
  let start (s : State) (b e l : Nat) : State :=
    let n := fld e 0 2
    let o : Op := { uid := s.fresh, core := 160 + stack, strm := 0, slot := 0, tnum := 0, ctx := c.ctx, eng := .near
                    i := .coll {} ⟨0, 0⟩ 0, pc := 0, cyc := s.now, fpc := 0, guard := true, ph := .run, at0 := s.now
                    img := [b, n, fld e 2 2, collAlg s b n] ++ unpack 16 n l }
    let len := o.coll.sendBytes
    match vread s c.ctx false (len / 65536 + 2) (collSend b) len with
    | .error _ => s
    | .ok buf =>
      let s1 := s.see c.ctx (len / 65536 + 2) (collSend b) len
      collOpen { s1 with ops := s.ops ++ [o], fresh := s.fresh + 1, free := s.free + 1 } o buf
  match vread2 s c.ctx (fld c.cmd.toNat 8 8) 128 with
  | .error _ => s
  | .ok b =>
    if fld c.cmd.toNat 8 8 % 128 != 0 || collBad b || bits g 0 12 ≤ collGroup b then s
    else match vread2 s c.ctx (bits g 12 52 * 2^12 + 16 * collGroup b) 16 with
      | .error _ => s
      | .ok e =>
        if 576 < fld e 0 2 || fld e 4 4 != 0 then s
        else match vread2 s c.ctx (fld e 8 8) (2 * fld e 0 2) with
          | .error _ => s
          | .ok l =>
            if groupBad s b (fld e 0 2) (fld e 2 2) (unpack 16 (fld e 0 2) l) || (s.funOf (s.ownerC c.ctx)).balOut.isNone then s
            else
              let s1 := (s.see2 c.ctx (fld c.cmd.toNat 8 8) 128).see2 c.ctx (bits g 12 52 * 2^12 + 16 * collGroup b) 16
              start (s1.see2 c.ctx (fld e 8 8) (2 * fld e 0 2)) b e l

/-- TRIGGER_COMMAND_START (R372): one at a time, in launch order. -/
def execTriggerCommandStart (stack : Nat) (s : State) : Out :=
  let k := s.stackOf stack
  match k.now, k.queue with
  | none, c :: r =>
    let s1 := s.setStack stack { k with now := some c, queue := r }
    .next (if fld c.cmd.toNat 0 1 = 2 then trigColl s1 stack c else s1)
  | _, _ => .next s

/-- The writes of a triggered copy or atomic add, and the packet of a send (R229). One whose address cannot be reached makes
none (DESIGN CHOICE, assumption 41). -/
def runCmd (s : State) (stack : Nat) (c : Cmd) : State :=
  let v := c.cmd.toNat
  let a0 := fld v 8 8
  let a1 := fld v 16 8
  let n := fld v 24 8
  match fld v 0 1 with
  | 1 => (match vread s c.ctx false (n / 65536 + 2) a0 n with
    | .ok x =>
      let s1 := cmdFlits (cmdFlits s c.ctx (n / 65536 + 2) a0 n none) c.ctx (n / 65536 + 2) a1 n (some x)
      (vwrite (s1.see c.ctx (n / 65536 + 2) a0 n) c.ctx false (n / 65536 + 2) a1 n x).2.2
    | .error _ => s)
  | 3 => sendPacket s c.ctx (160 + stack) 0 (bits a0 0 10) (bits a0 10 11)
  | 4 => (match vread2 s c.ctx a0 8 with
    | .ok x =>
      let s1 := match peek s c.ctx a0 with
        | .ok (⟨.peer d, a⟩, _) => pathSend s (160 + stack) 0 { flitTo s d (s.ownerC c.ctx) 4 0 a with size := 8, data := BitVec.ofNat 1600 a1 }
        | _ => s
      (vwrite s1 c.ctx false 2 a0 8 ((x + a1) % 2^64)).2.2
    | .error _ => s)
  | _ => s

/-- TRIGGER_COMMAND_COMPLETE (R372): its writes are performed; a collective's have been when it has ended. A send waits for room
at its port. -/
def execTriggerCommandComplete (stack : Nat) (s : State) : Out :=
  let k := s.stackOf stack
  match k.now with
  | none => .next s
  | some c =>
    let d := bits (fld c.cmd.toNat 8 8) 0 10
    if (s.ops.any fun o => o.core == 160 + stack)
        || (fld c.cmd.toNat 0 1 = 3 && d != s.self && !portRoom s (pathPort s (160 + stack) 0 d)) then .next s
    else .next (runCmd (s.setStack stack { k with now := none }) stack c).wake

end Sys2Proof.Machine
end

