-- ==== Sys2Proof/Machine/Start.lean ====
section
/-!
DEFINITION. The start of queue heads (R21, R22, R291) and the end of waits that exceed their limit (R34, R292).
-/
namespace Sys2Proof.Machine

/-- The order in which heads eligible in one cycle start: issue cycle, then physical stream (R21). -/
def headLt (a b : Op) : Bool := a.cyc < b.cyc || (a.cyc == b.cyc && a.strm < b.strm)

/-- The first cycle in which an operation's engine sees the counts that its reads and its destination test wait for (R42); a head
that has come to wait only after the bump sees it no earlier (DESIGN CHOICE, assumption 53). -/
def State.seenBy (s : State) (o : Op) : Nat :=
  let u := engUnit o.eng
  let rd := o.srcs.map fun x =>
    let c := s.cntOf (s.opKey o x.1 x.2.1)
    if x.2.2 = 63 then 0 else seenAt c.wc c.wu u
  let wr := (if shadowed o then [] else s.opDsts o).map fun x => let c := s.cntOf x.1; seenAt c.lc c.lu u
  (rd ++ wr).foldl max 0

/-- The first cycle in which the banks that an operation names let it start (R191, R199); those of its own run let an ACALLOC start in
the cycle after a writer's start. -/
def State.banksFrom (s : State) (o : Op) : Nat :=
  let t := s.taskOf o.tk
  let run := match o.i with
    | .acalloc _ _ _ => (List.range (o.img.getD 1 0)).map (o.img.getD 0 0 + ·)
    | _ => []
  let wr := s.ops.filter fun p => p.tk == o.tk && p.ph != .queued && bankWriter p.i && p.dsts.any fun x => x.1 == .a && run.contains x.2.1
  (o.banks.map (mget 0 t.bankC) ++ wr.map (fun (p : Op) => p.at0 + 1)).foldl max 0

/-- The cycle in which an engine of a core could start a head: from its issue on, when it has seen its counts, and when the
engine's start slot is free (R21, R42, R147). -/
def State.startAt (s : State) (c : Nat) (e : Eng) (o : Op) : Nat :=
  let t := max (max (max s.now o.cyc) (s.seenBy o)) (max (mget 0 (s.coreOf c).startC (engUnit e)) (s.banksFrom o))
  match e with
  | .vec => max t (s.vecFree c)
  | _ => t

/-- A head that may start now, or that takes its cause there. -/
def Verdict.acts : Verdict → Bool
  | .ready | .faults _ _ => true
  | _ => false

/-- The head that an engine takes next, if one is eligible (R21). -/
def State.nextHead (s : State) (c : Nat) (e : Eng) : Option Op :=
  let l := (s.heads c e).filter fun o => (judge s o).acts
  let l1 := if 1 < l.length then l.filter fun o => mayChoose s o.ctx 1 (engUnit e) c (strmCyc o) else l
  leastBy (fun a b =>
    let x := s.startAt c e a
    let y := s.startAt c e b
    x < y || (x == y && headLt a b)) l1

/-- Note which heads of an engine are in a counted wait, and since when (R34). -/
def noteHeads (s : State) (c : Nat) (e : Eng) : State :=
  (s.heads c e).foldl (fun s o => match judge s o with
    | .waits _ => noteWait s o
    | _ => if o.wait.isSome then s.setOp { o with wait := none } else s) s

/-- Start an operation in a cycle. -/
def startOp (s : State) (o : Op) (t : Nat) : State :=
  let n := (o.wait.map fun w => t - w).getD 0
  let o1 := { o with wait := none, cw := n }
  let s := if n = 0 then s else s.setCore o.core { s.coreOf o.core with cWait := (s.coreOf o.core).cWait + n }
  match o.eng with
  | .vec => startVec s o1 t
  | .mat => startMat s o1 t
  | .cpy => startCopy s o1 t
  | .near => startNear s o1 t

/-- ENGINE_START (R21, R22, R26, R291): the engine starts the eligible head with the earliest issue cycle, once the issues of
that cycle are over; a stale or faulting head takes its cause. -/
def execEngineStart (c : Nat) (e : Eng) (s : State) : Out :=
  match s.nextHead c e with
  | none => .next (((s.heads c e).filter fun o => (judge s o).acts).foldl (fun s o => replayWait s o.ctx 1 (engUnit e) c (s.taskOf o.tk).wlim) (noteHeads s c e))
  | some o =>
    let t := s.startAt c e o
    let s0 := (noteHeads s c e).upTo t
    let several := 1 < (s.heads c e).countP fun x => (judge s x).acts
    let s1 := if several then logChoice s0 o.ctx 1 (engUnit e) c (strmCyc o) else s0
    match judge s1 o with
    | .ready =>
      let x := s1.coreOf c
      let s2 := s1.setCore c { x with
        endC := t + 1, startC := mput 0 x.startC (engUnit e) (t + 1)
        busy := mput 0 x.busy (engUnit e) (mget 0 x.busy (engUnit e) + max 1 (tileOf o.i).occ) }
      .next (startOp s2 o t).wake
    | .faults f s2 => .next (engineFault s2 o { f with fcyc := t })
    | _ => .next s0

/-- The name of an operation's destination, for its fault frame. -/
def dstName (o : Op) : Option (BitVec 2 × BitVec 8) :=
  ((o.dsts.map fun x => (x.1, x.2.1)) ++ o.alsoNames).head?.map fun x => (x.1.code, BitVec.ofNat 8 x.2)

/-- WAIT_LIMIT_EXPIRY (R34, R292): a wait that still stands has lasted longer than its task's limit; the waiting
instruction or operation takes cause 0x0F. -/
def execWaitLimitExpiry (w : Waiter) (s : State) : Out :=
  match w with
  | .stream c n =>
    let k := 8 * c + n
    let st := s.strmOf k
    let t := s.taskAt k
    match st.wait with
    | none => .next s
    | some x =>
      if !s.stall.contains k || st.run != .run || !(t.stat == .run || (t.stat == .handler && st.mode == .handler)) || !s.coreRuns c then
        .next s
      else
        let s1 := { s.upTo (x.since + t.wlim + 1) with cur := k }
        raise (s1.setMe { st with barW := none }) (pipeFault s1 0x0F x.obj)
  | .op u =>
    match s.opOf u with
    | none => .next s
    | some o =>
      let t := s.taskOf o.tk
      match o.wait with
      | none => .next s
      | some since =>
        if !s.opLive o then .next s
        else
          let s1 := s.upTo (since + t.wlim + 1)
          if o.ph = .queued then
            (match judge s o with
              | .waits obj => if s.headOf o.sk o.eng == some o then .next (engineFault s1 o (opFault s1 o 0x0F obj)) else .next s
              | _ => .next s)
          else if dstsReady (retireReads s o) o && o.alsoNames.all (fun x => writeReady (s.cntOf (s.opKey o x.1 x.2))) then .next s
          else .next (engineFault s1 o (opFault s1 o 0x0F (dstName o)))

end Sys2Proof.Machine
end

