-- ==== Sys2Proof/Machine/Task.lean ====
section
/-!
DEFINITION. Tasks as their streams see them: NEXTIT, DONE, SPAWN and SIGNAL (R231 to R233), the shuttles (R288,
R289), the end of kernels (R283), and the submission queues (R358 to R361).
-/
namespace Sys2Proof.Machine

/-! ### SPAWN and SIGNAL (R233) -/

/-- The node of a SPAWN or SIGNAL as an entry of the store queue: its address is translated as for a load. -/
def nodeAcc (kind : AccKind) (a : Word) (s : State) : Except Refused (Acc × State) :=
  if a.toNat % 64 != 0 then .error (pipeFault s 0x0C none a, s)
  else (memAt s a 8 .r).map fun p => ({ kind := kind, place := p.1, size := 8, va := a }, p.2)

/-- Whether a sequencer's input is full: releases asked for are still to be applied (R233; the spec gives the input no size, DESIGN
CHOICE, assumption 64). -/
def State.seqFull (s : State) : Bool := !s.ctl.rels.isEmpty

def execSpawn (h : Header) (ga : G) (s : State) : Out :=
  if s.seqFull then guarded h 14 s stallU
  else access h 14 { srcs := [ga] } false (fun v s => nodeAcc .spawn (arg v 0) s) s

def execSignal (h : Header) (ga : G) (s : State) : Out :=
  access h 14 { srcs := [ga] } false (fun v s => nodeAcc .signal (arg v 0) s) s

/-! ### DONE (R232) -/

/-- The gang instance of a task whose every stream has stopped ends by DONE. -/
def endByDone (s : State) (token lid : Nat) : State :=
  let s1 := instanceEnded ((s.gangKeys token).foldl clearSlot s) lid false
  s1.setCtl { s1.ctl with grps := mdrop s1.ctl.grps fun k => k / 8 == token }

/-- Whether every stream of a gang instance has executed DONE. -/
def allDone (s : State) (token : Nat) : Bool :=
  (s.gangKeys token).all fun tk => (streamKeys (s.taskOf tk) tk).all fun k => (s.strmOf k).run == .done

def execDone (h : Header) (s : State) : Out := guarded h 14 s fun s1 =>
  let st := s1.strmOf s1.cur
  if st.cntL != 0 || st.cntS != 0 || st.cntC != 0 || st.cntT != 0 then stallU s1
  else
    let s2 := (s1.setMe { st with run := .done, wait := none }).coreIssued
    let t := s1.myTask
    .next (if allDone s2 t.token then endByDone s2 t.token t.lid else s2).wake

/-! ### NEXTIT (R231) -/

/-- The key of the current stream's group. -/
def State.grpKey (s : State) (k : Nat) : Nat := 8 * (s.taskAt k).token + (s.strmOf k).tnum / (s.taskAt k).sper

/-- The launch of a task. -/
def State.launchOf (s : State) (lid : Nat) : Option Launch := s.ctl.lnch.find? (·.lid == lid)

/-- Replace a launch. -/
def State.setLaunch (s : State) (l : Launch) : State :=
  s.setCtl { s.ctl with lnch := s.ctl.lnch.map fun x => if x.lid = l.lid then l else x }

/-- The current stream's group asks for its next assignment, where no member has: the shuttle, or, for a kernel without
a loop-nest record, the core itself, which answers with one iteration and then with none. -/
def askNext (s : State) : State :=
  let k := s.grpKey s.cur
  let g := mget {} s.ctl.grps k
  let st := s.strmOf s.cur
  let t := s.myTask
  if st.nx.taken < g.reqd then s
  else
    let put (g : Group) : State := s.setCtl { s.ctl with grps := mput {} s.ctl.grps k { g with reqd := g.reqd + 1 } }
    match s.launchOf t.lid with
    | some l =>
      if l.nest then
        let s1 := put g
        s1.setLaunch { l with sh := { l.sh with reqs := l.sh.reqs ++ [(s.now, s.myCore, k % 8, st.slot, t.token)] } }
      else put { g with asg := g.asg ++ [(s.now, if g.asg.isEmpty then some ([], 0) else none)] }
    | none => put { g with asg := g.asg ++ [(s.now, if g.asg.isEmpty then some ([], 0) else none)] }

/-- Whether a result is still on its way to one of g24 to g31, or to the predicate that NEXTIT writes (R89 rule 4). -/
def nextBusy (st : Stream) (pd : P) : Bool :=
  bits st.pend.toNat 24 8 != 0 || st.land.any fun l => (24 ≤ l.reg && l.reg < 32) || (pd != 0 && l.reg == 32 + pd.toNat)

/-- Whether a stream waits at a NEXTIT for its assignment. -/
def Stream.atNext (st : Stream) : Bool := st.run == .run && st.mode == .task && st.nx.owed && st.nx.at' == some st.pc

/-- NEXTIT asks once its registers are free, its guard read, and then waits; one that a fault has stopped asks no second time, and
waits again when it executes again. -/
def execNextit (h : Header) (pd : P) (s : State) : Out :=
  if (s.strmOf s.cur).atNext then stallC s none
  else guarded h 14 s fun s1 =>
    if nextBusy (s1.strmOf s1.cur) pd then stallU s1
    else
      let s2 := if (s1.strmOf s1.cur).nx.owed then s1 else askNext s1
      let st := s2.strmOf s2.cur
      stallC ((s2.setMe { st with nx := { st.nx with owed := true, pd := pd, gap := h.gap, sw := h.sw, at' := some st.pc } }).wake) none

/-- The registers that an assignment writes (R231, R289): index registers by REG, the ordinal and the gang rank. -/
def nextRegs (loops : List Loop) (idx : List Nat) (ord rank : Nat) (g : Sparse Word) : Sparse Word :=
  let ix (r : Nat) : Nat := ((List.zip loops idx).find? fun p => p.1.reg == r).map (·.2) |>.getD 0
  let g1 := (List.range 6).foldl (fun g r => mput 0 g (24 + r) (BitVec.ofNat 64 (ix r))) g
  mput 0 (mput 0 g1 30 (BitVec.ofNat 64 ord)) 31 (BitVec.ofNat 64 rank)

/-- NEXTIT_ANSWER (R231): the waiting NEXTIT of a stream receives its assignment, and issues in its turn (R290). -/
def execNextitAnswer (c n : Nat) (s : State) : Out :=
  let k := 8 * c + n
  let st := s.strmOf k
  let t := s.taskAt k
  let g := mget {} s.ctl.grps (s.grpKey k)
  match g.asg[st.nx.taken]? with
  | none => .next s
  | some (at', a) =>
    let s0 := s.upTo at'
    if !st.atNext || !s0.canIssue k || !s0.turn k then .next s
    else
      let s1 := select s0 k
      let loops := match s.launchOf t.lid with
        | some l => l.loops
        | none => []
      let regs := match a with
        | some (idx, ord) => nextRegs loops idx ord t.grank st.g
        | none => st.g
      let st1 := { st with
        g := regs
        p := if st.nx.pd = 0 then st.p else BitVec.ofNat 8 (setBits st.p.toNat st.nx.pd.toNat 1 a.isSome.toNat)
        nx := { st.nx with taken := st.nx.taken + 1, owed := false, at' := none } }
      match retire { gap := st.nx.gap, sw := st.nx.sw } 8 (s1.setMe st1) with
      | .next s2 => .next (afterIssue (wordHere s1) s1 s2)
      | o => o

/-! ### Shuttles (R288, R289) -/

/-- What an attempt to enter loops comes to. -/
inductive Walk where
  | found (idx : List (Nat × Nat)) | fin | bad (code : Nat) | more (idx : List (Nat × Nat))
  deriving DecidableEq, Repr

/-- The next index of the innermost loop entered that has one; the list is innermost first. -/
def bumpIdx : List (Nat × Nat) → Option (List (Nat × Nat))
  | [] => none
  | (i, b) :: r => if i + 1 < b then some ((i + 1, b) :: r) else bumpIdx r

/-- Where a loop's bound is read in the current entry of the loops outside it, if it is. -/
def boundAt (l : Loop) (idx : List (Nat × Nat)) : Option Nat :=
  match l.kind with
  | 0 => none
  | 2 => some ((l.bound + 8 * ((idx.reverse.getD l.outer (0, 0)).1)) % 2^64)
  | _ => some (l.bound % 2^64)

/-- The bound of a loop in the current entry of the loops outside it (R288). -/
def boundOf (s : State) (ctx : Nat) (l : Loop) (idx : List (Nat × Nat)) : Except Nat Nat :=
  match boundAt l idx with
  | none => .ok l.bound
  | some a => match vread2 s ctx a 8 with
    | .error _ => .error 3
    | .ok b => .ok b

/-- Enter loops until an iteration stands, and list where bounds were read; the list of indices is innermost first. -/
def enterLoops (s : State) (ctx : Nat) (loops : List Loop) : Nat → List Nat → List (Nat × Nat) → Walk × List Nat
  | 0, rd, idx => (if idx.length = loops.length then .found idx else .more idx, rd)
  | fuel + 1, rd, idx =>
    match loops[idx.length]? with
    | none => (.found idx, rd)
    | some l =>
      let rd1 := rd ++ (boundAt l idx).toList
      match boundOf s ctx l idx with
      | .error c => (.bad c, rd1)
      | .ok b =>
        if 2^32 ≤ b then (.bad 6, rd1)
        else if b = 0 then (match bumpIdx idx with
          | some i => enterLoops s ctx loops fuel rd1 i
          | none => (.fin, rd1))
        else enterLoops s ctx loops fuel rd1 ((0, b) :: idx)

/-- The next iteration of a shuttle's walk. -/
def nextIter (s : State) (l : Launch) : Walk × List Nat :=
  if l.sh.fin then (.fin, [])
  else if l.sh.idx.length = l.loops.length then (match bumpIdx l.sh.idx with
    | some i => enterLoops s l.ctx l.loops 64 [] i
    | none => (.fin, []))
  else enterLoops s l.ctx l.loops 64 [] l.sh.idx

/-- The order in which a shuttle serves requests: cycle, core, stream group, slot (R289, R298). -/
def reqLt (a b : Nat × Nat × Nat × Nat × Nat) : Bool :=
  let (c1, k1, g1, s1, _) := a
  let (c2, k2, g2, s2, _) := b
  c1 < c2 || (c1 == c2 && (k1 < k2 || (k1 == k2 && (g1 < g2 || (g1 == g2 && s1 < s2)))))

/-- SHUTTLE_ASSIGN (R288, R289): the shuttle of a launch serves one request in a cycle, once the requests of that cycle are all
made. -/
def execShuttleAssign (lid : Nat) (s : State) : Out :=
  match s.launchOf lid with
  | none => .next s
  | some l =>
    let grp (r : Nat × Nat × Nat × Nat × Nat) : Bool := mayChoose s l.ctx 5 0 r.2.1 (l.sh.ord + 2^32 * r.2.2.1)
    match leastBy reqLt (if 1 < l.sh.reqs.length then l.sh.reqs.filter grp else l.sh.reqs) with
    | none => .next (match l.sh.reqs with
        | [] => s
        | r :: _ => replayWait s l.ctx 5 0 r.2.1 l.wlim)
    | some r =>
      let (cy, core, grp, _, token) := r
      let at0 := max cy l.sh.next
      let s0 := s.upTo (at0 + 1)
      let s1 := if 1 < l.sh.reqs.length then logChoice s0 l.ctx 5 0 core (l.sh.ord + 2^32 * grp) else s0
      let at' := at0 + (if l.shOn.getD l.die = dieOf core then 24 else 64)
      let key := 8 * token + grp
      let give (s : State) (sh : Shuttle) (a : Option (List Nat × Nat)) : State :=
        let g := mget {} s.ctl.grps key
        (s.setCtl { s.ctl with grps := mput {} s.ctl.grps key { g with asg := g.asg ++ [(at', a)] } }).setLaunch
          { l with sh := { sh with reqs := l.sh.reqs.erase r, next := at0 + 1 } }
      let (w, rd) := nextIter s1 l
      let s2 := rd.foldl (fun s a => s.see2 l.ctx a 8) s1
      match w with
      | .found idx =>
        .next (give s2 { l.sh with idx := idx, ord := l.sh.ord + 1 }
          (some (idx.reverse.map (·.1), l.sh.ord))).wake
      | .fin => .next (give s2 { l.sh with fin := true } none).wake
      | .bad c => .next (give (graphError s2 l.ctx c l.node) { l.sh with fin := true } none).wake
      | .more idx => .next (s2.setLaunch { l with sh := { l.sh with idx := idx } })

/-! ### Kernels and queues (R282, R283, R358 to R361) -/

/-- KERNEL_COMPLETE (R283, R361): every instance of a kernel node has ended. -/
def execKernelComplete (lid : Nat) (s : State) : Out :=
  match s.launchOf lid with
  | none => .next s
  | some l =>
    if l.ended < l.total || s.ctl.halt then .next s
    else
      let s1 := s.setCtl { s.ctl with lnch := s.ctl.lnch.filter fun x => x.lid != lid }
      if l.term then .next (graphError s1 l.ctx 7 l.node).wake
      else .next (settleGraph (completeNode (releaseAll s1 l.die l.ctx l.prio l.succ) l.node l.cpl)).wake

/-- The fields of SQCTL (R358). -/
def Sq.en (q : Sq) : Bool := bitN q.ctl.toNat 0
def Sq.lsz (q : Sq) : Nat := bits q.ctl.toNat 1 4
def Sq.prio (q : Sq) : Nat := bits q.ctl.toNat 5 3
def Sq.die (q : Sq) : Nat := bits q.ctl.toNat 8 1
def Sq.ctx (q : Sq) : Nat := bits q.ctl.toNat 9 6

/-- The function that owns a queue (R357). -/
def State.sqFun (s : State) (q : Nat) : Nat := bits s.dev.pf0.qmap.toNat (4 * (q / 4)) 4

/-- Whether a function's work is served: its interface is unlocked or runs (R319). -/
def State.served (s : State) (f : Nat) : Bool := (s.funOf f).tdisp == .unlocked || (s.funOf f).tdisp == .run

/-- Whether a queue waits to be served. -/
def State.sqWaits (s : State) (q : Nat) : Bool := (s.sqOf q).en && (s.sqOf q).head != (s.sqOf q).tail

/-- The distance of a number after a round-robin pointer, of `n`. -/
def rrDist (n first x : Nat) : Nat := (x + n - first % n) % n

/-- The key of a queue's round-robin pointer: its owner, die and priority. -/
def State.rrKey (s : State) (q : Nat) : Nat := 16 * s.sqFun q + 8 * (s.sqOf q).die + (s.sqOf q).prio

/-- Whether the sequencer of a die serves one queue before another: partitions in turn (R311), then the higher priority, then
round-robin among equals (R282). -/
def State.sqLt (s : State) (die a b : Nat) : Bool :=
  let po (q : Nat) : Nat := rrDist 8 (mget 0 s.ctl.rrPart die) (s.sqFun q)
  let rq (q : Nat) : Nat := rrDist 64 (mget 0 s.ctl.rr (s.rrKey q)) q
  po a < po b || (po a == po b && ((s.sqOf b).prio < (s.sqOf a).prio || ((s.sqOf a).prio == (s.sqOf b).prio && rq a < rq b)))

/-- The queue that the sequencer of a die serves next. -/
def State.sqNext (s : State) (die : Nat) : Option Nat :=
  leastBy (s.sqLt die) ((List.range 64).filter fun q => s.sqWaits q && (s.sqOf q).die == die && s.served (s.sqFun q))

/-- The sequencer of a die has served a queue: the partition after its own, and the queue after it, are tried first next. -/
def State.sqServed (s : State) (q : Nat) : State :=
  s.setCtl { s.ctl with rr := mput 0 s.ctl.rr (s.rrKey q) ((q + 1) % 64)
                        rrPart := mput 0 s.ctl.rrPart (s.sqOf q).die ((s.sqFun q + 1) % 8) }

/-- SQ_ENTRY_READ (R359, R361): the entry at HEAD is read, HEAD advances, and its node is submitted. -/
def execSqEntryRead (q : Nat) (s : State) : Out :=
  let x := s.sqOf q
  if s.ctl.halt || s.sqNext x.die != some q then .next s
  else
    let at0 := x.base.toNat + 32 * x.head.toNat
    let s0 := (s.sqServed q).setSq q { x with head := BitVec.ofNat 16 ((x.head.toNat + 1) % 2^x.lsz) }
    match vread2 s x.ctx at0 32 with
    | .error _ => .next (graphError s0 x.ctx 3 0).wake
    | .ok e =>
      let s1 := s0.see2 x.ctx at0 32
      let node := BitVec.ofNat 64 (fld e 0 8)
      if fld e 26 6 != 0 || fld e 24 2 < 2 then
        .next (graphError (s1.setSq q { s1.sqOf q with ctl := (s1.sqOf q).ctl ||| 0x8000 }) x.ctx 1 node).wake
      else
        let c : Cpl := ⟨s.sqFun q, x.ctx, BitVec.ofNat 64 (fld e 8 8), BitVec.ofNat 64 (fld e 16 8), fld e 24 2⟩
        .next (settleGraph (submitNode s1 x.die x.ctx x.prio node (some c))).wake

end Sys2Proof.Machine
end

