-- ==== Sys2Proof/Machine/Place.lean ====
section
/-!
DEFINITION. The dispatchers: where an instance fits (R285, R286, R295, R298), the pending list (R287), the placement of
a new instance (R38, R279, R303), victims, yields and gating (R130, R131, R293, R294).
-/
namespace Sys2Proof.Machine

/-! ### Where an instance fits -/

/-- What an instance needs of each core of its gang (R285). -/
structure Want where
  ctx  : Nat
  prio : Nat
  t    : Nat
  o    : Nat
  a    : Nat
  f    : Nat
  b    : Nat
  n    : Nat
  gang : Nat
  deriving DecidableEq, Repr

def Launch.want (l : Launch) : Want :=
  ⟨l.ctx, l.prio, l.wint, l.wino, l.wina, l.winf, l.winb, l.streams, l.gang⟩
def Task.want (t : Task) : Want :=
  ⟨t.ctx, t.prio, (winOf t.win .t).2, (winOf t.win .o).2, (winOf t.win .a).2, (winOf t.win .f).2, (winBar t.win).2,
    t.phys.length, t.gsize⟩

/-- One core's share of a placement: what it gives, and the gated tasks of which it claims parts, each by its slot or, off it,
by 4 + the number of its record, with a mask of the bits of PRESENT (R295, R338); bit 11 stands for the slot. -/
structure Plot where
  core : Nat
  slot : Nat
  phys : List Nat
  win  : BitVec 64
  claims : List (Nat × Nat) := []
  deriving DecidableEq, Repr

/-- Every part of a task, its slot among them. -/
def allParts : Nat := 0xFFF
/-- What leaves a core with a task's streams: their records, spill memory and registers, barriers and queues (R295). -/
def strmParts : Nat := 0x7C1
/-- What leaves with its slot (R295): its streams. -/
def slotParts : Nat := 0x800 + strmParts
/-- The PRESENT bit of a space: registers, slots, banks, frames. -/
def partBit : Spc → Nat
  | .t => 2
  | .o => 3
  | .a => 4
  | .f => 5

/-- The tasks that hold resources of a core, but for some: each by its slot, or, where it has left its slot, by 4 + the number of
its record. -/
def State.tasksOn (s : State) (c : Nat) (gone : List Nat) : List (Nat × Task) :=
  let here := ((List.range 4).map fun i => (i, s.taskOf (4 * c + i))).filter fun x => x.2.stat != .empty
  let away := (s.ctl.saves.filter fun x => x.core == c && x.off && !x.hnd && x.task.out.toNat != allParts).map
    fun x => (4 + x.id, x.task)
  (here ++ away).filter fun x => !gone.contains x.1

/-- The range of a window that a task holds in place: nothing of a part that was scanned out. -/
def Task.range (t : Task) (spc : Spc) : Nat × Nat := if bitN t.out.toNat (partBit spc) then (0, 0) else winOf t.win spc
/-- The barriers that a task holds in place. -/
def Task.barRange (t : Task) : Nat × Nat := if bitN t.out.toNat 7 then (0, 0) else winBar t.win
/-- The streams that a task holds in place. -/
def Task.held (t : Task) : List Nat := if bitN t.out.toNat 0 then [] else t.phys

/-- The streams of a core in firmware mode: they leave it by ERET and HALT alone (R91). -/
def State.fwOn (s : State) (c : Nat) : List Nat :=
  (List.range 8).filter fun n => let st := s.strmOf (8 * c + n); st.run != .absent && st.mode == .firmware

/-- Whether two ranges share an object. -/
def rangesMeet (x y : Nat × Nat) : Bool := x.2 != 0 && y.2 != 0 && x.1 < y.1 + y.2 && y.1 < x.1 + x.2

/-- The lowest base of a range of `size` free of the busy ones (R286). -/
def lowBase (busy : List (Nat × Nat)) (step size cap : Nat) : Option Nat :=
  if size = 0 then some 0
  else ((List.range (cap / step + 1)).map (· * step)).find? fun b => b + size ≤ cap && busy.all fun r => !rangesMeet (b, size) r

/-- The lowest base clear of every task, or else clear of those that cannot be claimed from. -/
def pickBase (fixed soft : List (Nat × Nat)) (step size cap : Nat) : Option Nat :=
  (lowBase (fixed ++ soft) step size cap).or (lowBase fixed step size cap)

/-- The gated tasks whose bank quotas must be claimed, in slot order, for `need` banks to be free. -/
def bankClaims (need : Nat) : List (Nat × Task) → List Nat
  | [] => []
  | (i, t) :: r =>
    let q := (t.range .a).2
    if need = 0 then [] else if q = 0 then bankClaims need r else i :: bankClaims (need - q) r

/-- The numbers below `n` outside a list. -/
def freeOf (n : Nat) (used : List Nat) : List Nat := (List.range n).filter fun i => !used.contains i

/-- How an instance fits on a core (R285, R286, R295, R298), the tasks of some slots set aside. Gated tasks of lower
priority are claimed from where nothing else serves. -/
def fitCore (s : State) (w : Want) (c : Nat) (gone : List Nat) : Option Plot :=
  let ts := s.tasksOn c gone
  let soft := ts.filter fun x => x.2.stat == .gated && x.2.prio < w.prio
  let fixed := ts.filter fun x => !soft.contains x
  let pick (p : Spc) (step size : Nat) := pickBase (fixed.map (·.2.range p)) (soft.map (·.2.range p)) step size (spaceSize p)
  let slots := (freeOf 4 (ts.map (·.1))).head?.or ((soft.map (·.1)).filter (· < 4)).head?
  let held (l : List (Nat × Task)) := l.flatMap (·.2.held)
  let free := freeOf 8 (held ts ++ s.fwOn c)
  let phys := (sortBy (fun a b => a < b) ((free ++ (sortBy (fun a b => a < b) (held soft))).take w.n))
  let quota (l : List (Nat × Task)) := l.foldl (fun n x => n + (x.2.range .a).2) 0
  let short := quota fixed + quota soft + w.a - 64
  match slots, pick .t 8 w.t, pick .o 1 w.o, pick .f 1 w.f,
      pickBase (fixed.map (·.2.barRange)) (soft.map (·.2.barRange)) 1 w.b 64 with
  | some slot, some tb, some ob, some fb, some bb =>
    if phys.length < w.n || 64 < quota fixed + w.a then none
    else
      let bc := bankClaims short soft
      let mask (x : Nat × Task) : Nat :=
        (if x.1 = slot then slotParts else 0) ||| (if x.2.held.any phys.contains then strmParts else 0)
          ||| (if rangesMeet (bb, w.b) x.2.barRange then 0x80 else 0) ||| (if rangesMeet (tb, w.t) (x.2.range .t) then 4 else 0)
          ||| (if rangesMeet (ob, w.o) (x.2.range .o) then 8 else 0) ||| (if bc.contains x.1 then 16 else 0)
          ||| (if rangesMeet (fb, w.f) (x.2.range .f) then 32 else 0)
      some { core := c, slot := slot, phys := phys, win := mkWin tb w.t ob w.o w.a fb w.f bb w.b
             claims := (soft.map fun x => (x.1, mask x)).filter (·.2 != 0) }
  | _, _, _, _, _ => none

/-- Whether the dispatcher may place tasks of a context on a core: its quarter is the partition's, not gated and not being
scrubbed, its interface runs, and the context is not LOST (R314, R319, R341, R374). -/
def State.openCore (s : State) (ctx c : Nat) : Bool :=
  let q := quarterOf c
  s.ownerQ q == s.ownerC ctx && s.ownerC ctx < 7 && !bitN s.dev.pf0.scrub.toNat q && !bitN s.dev.pf0.pwrctl.toNat (8 + q)
    && !(s.ctxOf ctx).lost && s.served (s.ownerC ctx)

/-- How an instance fits on the cores of a place (R286). -/
def fitPlace (s : State) (w : Want) (base : Nat) (gone : Nat → List Nat) : Option (List Plot) :=
  (List.range w.gang).foldr (fun r acc => match acc, fitCore s w (base + r) (gone (base + r)) with
    | some l, some p => if s.openCore w.ctx (base + r) then some (p :: l) else none
    | _, _ => none) (some [])

/-- The places of a gang in some clusters, in the order of first-fit: the core of rank 0 (R286). -/
def places (gang : Nat) (clusters : List Nat) : List Nat :=
  clusters.flatMap fun k => (List.range (9 - gang)).map fun r => 8 * k + r

/-- The first value that a function gives on a list. -/
def firstOf (f : α → Option β) : List α → Option β
  | [] => none
  | x :: r => (f x).or (firstOf f r)

/-- First-fit in some clusters (R286). -/
def firstFit (s : State) (w : Want) (clusters : List Nat) (gone : Nat → List Nat) : Option (List Plot) :=
  firstOf (fun b => fitPlace s w b gone) (places w.gang clusters)

/-! ### The pending list (R287, R296) -/

/-- The parts of a gang instance that is off its cores or gated, with their cores and slots, in rank order. -/
def partsOf (s : State) (token : Nat) : List (Nat × Nat × Task) :=
  let here := (s.gangKeys token).map fun k => (k / 4, k % 4, s.taskOf k)
  let away := (s.ctl.saves.filter fun x => x.task.token == token && x.off && !x.hnd).map fun x => (x.core, x.slot, x.task)
  sortBy (fun a b => a.2.2.grank < b.2.2.grank) (here ++ away)

/-- What a task on a core is known by there, in `State.tasksOn`. -/
def State.idsOf (s : State) (c token : Nat) : List Nat := ((s.tasksOn c []).filter fun x => x.2.token == token).map (·.1)

/-- Whether a part can resume where it was (R296): what is off the core finds its slot, streams and ranges free. -/
def backOk (s : State) (p : Nat × Nat × Task) : Bool :=
  let (c, sl, t) := p
  let gone (i : Nat) : Bool := bitN t.out.toNat i
  let others := s.tasksOn c (s.idsOf c t.token)
  s.openCore t.ctx c
    && (!gone 11 || (s.taskOf (4 * c + sl)).stat == .empty)
    && (!gone 0 || !(s.fwOn c ++ others.flatMap (·.2.held)).any t.phys.contains)
    && (!gone 7 || !others.any fun x => rangesMeet (winBar t.win) x.2.barRange)
    && [Spc.t, .o, .f].all (fun sp => !gone (partBit sp) || !others.any fun x => rangesMeet (winOf t.win sp) (x.2.range sp))
    && (!gone 4 || others.foldl (fun n x => n + (x.2.range .a).2) (winOf t.win .a).2 ≤ 64)

/-- What the placement of an instance comes to: new on some plots, back where it was, or moved to some plots. -/
inductive Plan where
  | new (l : Launch) (ps : List Plot) | back | move (ps : List Plot)
  deriving DecidableEq, Repr

/-- The clusters of a new or gated instance (R278, R286, R296). -/
def clustersFor (s : State) (lid idx die : Nat) : List Nat :=
  match s.launchOf lid with
  | some l => instClusters s l idx die
  | none => []

/-- Shuttles of a die that a partition uses (R285, R311). -/
def State.shuttles (s : State) (die own : Nat) : Nat :=
  s.ctl.lnch.countP fun l => l.shOn == some die && s.ownerC l.ctx == own

/-- How an instance fits now, if it does. -/
def planOf (s : State) (i : Inst) : Option Plan :=
  match i.token with
  | none => (match s.launchOf i.lid with
    | none => none
    | some l =>
      if l.nest && l.shOn.isNone && 8 * l.room s i.die ≤ s.shuttles i.die (s.ownerC l.ctx) then none
      else (firstFit s l.want (clustersFor s i.lid (i.arr - i.lid - 1) i.die) fun _ => []).map (.new l))
  | some token =>
    let ps := partsOf s token
    match ps with
    | [] => none
    | p :: _ =>
      if ps.all (backOk s) then some .back
      else
        (firstFit s p.2.2.want (clustersFor s p.2.2.lid p.2.2.idx i.die) fun c => s.idsOf c token).map .move

/-- The order of a pending list (R285). -/
def instLt (a b : Inst) : Bool := b.prio < a.prio || (a.prio == b.prio && a.arr < b.arr)

/-- The owner of the partition that an instance runs in. -/
def State.instOwner (s : State) (i : Inst) : Nat := ((s.launchOf i.lid).map fun l => s.ownerC l.ctx).getD 7

/-- The pending list of a partition on a die, its head first (R285, R311). -/
def State.pending (s : State) (die own : Nat) : List Inst :=
  sortBy instLt (s.ctl.pendI.filter fun i => i.die == die && s.instOwner i == own)

/-- The claims of a plan that are still to be scanned out: cores, tasks and parts (R295). A task that is to move claims its
own parts that are in place. -/
def toScan (s : State) (i : Inst) : Plan → List (Nat × Nat × Nat)
  | .new _ ps => ps.flatMap fun p => p.claims.map fun x => (p.core, x.1, x.2)
  | .back => []
  | .move ps => (ps.flatMap fun p => p.claims.map fun x => (p.core, x.1, x.2))
      ++ ((partsOf s (i.token.getD 0)).map (·.1)).eraseDups.flatMap fun c =>
        (s.idsOf c (i.token.getD 0)).map fun k => (c, k, allParts)

/-- The instance of a partition that a die's dispatcher takes now, with its plan (R287): the head where it fits; else, while it has
been passed over fewer than 8 times, the first later one that fits with no claim. -/
def State.placeOf (s : State) (die own : Nat) : Option (Inst × Plan) :=
  match s.pending die own with
  | [] => none
  | h :: r =>
    match planOf s h with
    | some p => some (h, p)
    | none =>
      if 8 ≤ h.pass then none
      else firstOf (fun i => match planOf s i with
        | some p => if (toScan s i p).isEmpty then some (i, p) else none
        | none => none) r

/-- The owners in the order in which a dispatcher tries them (R311). -/
def State.ownersFrom (s : State) (die : Nat) : List Nat :=
  let first := mget 0 s.ctl.rrPart (2 + die)
  sortBy (fun a b => rrDist 8 first a < rrDist 8 first b) (List.range 5)

/-- What a die's dispatcher takes now: one action of a partition in turn (R311). -/
def State.nextPlace (s : State) (die : Nat) : Option (Inst × Plan) :=
  if s.ctl.halt || s.dev.pf0.newPP.isSome then none else firstOf (s.placeOf die) (s.ownersFrom die)

/-- A dispatcher places one instance in a cycle (R286): the cycle in which it places next, and its turn after it (R311). -/
def State.placeTurn (s : State) (i : Inst) : State :=
  let s1 := s.upTo (mget 0 s.ctl.placeC i.die)
  s1.setCtl { s1.ctl with placeC := mput 0 s1.ctl.placeC i.die (s1.now + 1)
                          rrPart := mput 0 s1.ctl.rrPart (2 + i.die) ((s.instOwner i + 1) % 8) }

/-! ### Placement (R38, R279, R286, R303) -/

/-- Whether an object's key lies in the windows of a task in a slot of a core. -/
def hasKey (win : BitVec 64) (core slot k : Nat) : Bool :=
  let i := k % 256
  k / 1024 == core && (match k / 256 % 4 with
    | 0 => (winOf win .t).1 ≤ i && i < (winOf win .t).1 + (winOf win .t).2
    | 1 => (winOf win .o).1 ≤ i && i < (winOf win .o).1 + (winOf win .o).2
    | 2 => 64 * slot ≤ i && i < 64 * slot + 64
    | _ => (winOf win .f).1 ≤ i && i < (winOf win .f).1 + (winOf win .f).2)

/-- Whether a physical barrier's key lies in the barrier window. -/
def hasBar (win : BitVec 64) (core k : Nat) : Bool :=
  k / 64 == core && (winBar win).1 ≤ k % 64 && k % 64 < (winBar win).1 + (winBar win).2

/-- Zero what some parts of windows hold: counts and views, fills and barriers, and, where `data` says so, the contents with their
shadows, side arrays and poison (R38, R136, R303). -/
def zeroParts (s : State) (win : BitVec 64) (core slot parts : Nat) (data : Bool) : State :=
  let o := s.obj
  let h (k : Nat) : Bool := bitN parts (2 + k / 256 % 4) && hasKey win core slot k
  let o1 := { o with cnts := mdrop o.cnts h, fills := mdrop o.fills h
                     bars := mdrop o.bars fun k => bitN parts 7 && hasBar win core k }
  s.setObj (if data then
    { o1 with tregs := mdrop o.tregs h, slotF := mdrop o.slotF h, slotS := mdrop o.slotS h, sideF := mdrop o.sideF h
              sideS := mdrop o.sideS h, banks := mdrop o.banks h, frmF := mdrop o.frmF h, frmS := mdrop o.frmS h
              poison := o.poison.filter fun p => !(poisonSpc p.2.1 < 4 && h (p.1 * 1024 + poisonSpc p.2.1 * 256 + p.2.2.1)) }
  else o1)

/-- A placement on a plot overwrites the ranges, and may take the banks, that a clean yield left (R41). -/
def spoil (s : State) (p : Plot) : State :=
  let quota := (s.tasksOn p.core [p.slot]).foldl (fun n x => n + (x.2.range .a).2) (winOf p.win .a).2
  let hit (x : Saved) : Bool := x.core == p.core && !x.hnd && (x.task.phys.any p.phys.contains
    || [Spc.t, .o, .f].any (fun sp => rangesMeet (winOf x.task.win sp) (winOf p.win sp)) || 64 < quota + (winOf x.task.win .a).2)
  s.setCtl { s.ctl with saves := s.ctl.saves.map fun x => if hit x then { x with keep := false } else x }

/-- The record of a task's physical streams and number: its streams in task order. -/
def withNums (l : List Nat) : List (Nat × Nat) := List.zip (List.range l.length) l

/-- Fresh spill memory of a physical stream holds no poison (R303). -/
def unspill (s : State) (c n : Nat) : State :=
  s.setObj { s.obj with poison := s.obj.poison.filter fun p => !(p.1 == c && p.2.1 == 5 && p.2.2.1 == n) }

/-- Place a new instance on its plots (R279): all cores start in one cycle. Spill memory and rounding states are zero
(R303, DEDUCED, assumption 36). -/
def placeNew (s : State) (i : Inst) (l : Launch) (ps : List Plot) : State :=
  let token := s.fresh
  let base := (ps.head?.map (·.core)).getD 0
  let s1 := { s with fresh := s.fresh + 1 }
  let s2 := s1.setLaunch { l with spots := l.spots ++ [(i.arr - i.lid - 1, base)], shOn := if l.nest then l.shOn.or (some i.die) else none }
  (List.zip (List.range ps.length) ps).foldl (fun s (rp : Nat × Plot) =>
    let p := rp.2
    let s3 := zeroParts (spoil s p) p.win p.core p.slot allParts true
    let s4 := s3.setTask (4 * p.core + p.slot)
      { stat := .run, token := token, lid := l.lid, ctx := l.ctx, prio := l.prio, phys := p.phys, win := p.win, grank := rp.1
        gsize := ps.length, gbase := base, gslots := ps.map (·.slot), sper := lvlCount l.lvls 7, evb := (s.ctxOf l.ctx).evb
        wlim := l.wlim, seq := token, idx := i.arr - i.lid - 1 }
    (withNums p.phys).foldl (fun s x => (unspill s p.core x.2).setStrm (8 * p.core + x.2)
      { run := .run, slot := p.slot, tnum := x.1, pc := l.entry, g := mput 0 [] 1 l.arg, nextIss := s.now + 1 }) s4) s2

/-- A stopped stream goes on after its YIELD (R130). -/
def unyield (s : State) (tk : Nat) : State :=
  onStreams s tk fun st => if st.run = .yielded then
      { st with run := .run, pc := st.pc + 8, nextIss := max st.nextIss (s.now + 1) } else st

/-- YIELD_REQUEST_WITHDRAW (R293): the requests that stand on a die for the tasks of a partition. -/
def withdraw (s : State) (die own : Nat) : State :=
  (s.task.filter fun e => e.1 / 320 == die && e.2.yreq.isSome && s.ownerC e.2.ctx == own).foldl (fun s e =>
    unyield (s.setTask e.1 { s.taskOf e.1 with yreq := none }) e.1) s

/-- Take an instance off the pending list; a head that it passed over counts it (R287). -/
def takePending (s : State) (i : Inst) : State :=
  let own := s.instOwner i
  let h := (s.pending i.die own).head?
  let passed (x : Inst) : Inst := if h = some x then { x with pass := x.pass + 1 } else x
  let s1 := s.setCtl { s.ctl with pendI := (s.ctl.pendI.erase i).map passed }
  if h = some i then withdraw s1 i.die own else s1

/-- A choice of a core and slot in a cycle, as the order log holds it (R345). -/
def coreSlotCyc (core slot cyc : Nat) : Nat := core + 2^16 * slot + 2^32 * (cyc % 2^32)

/-- DISPATCH_PLACE (R286, R287): a new instance is placed once what it claims is scanned out. -/
def execDispatchPlace (die : Nat) (s : State) : Out :=
  match s.nextPlace die with
  | some (i, .new l ps) =>
    if (toScan s i (.new l ps)).isEmpty then
      let s0 := s.placeTurn i
      let c0 := (ps.head?.map (·.core)).getD 0
      let ch := coreSlotCyc c0 ((ps.head?.map (·.slot)).getD 0) s0.now
      let several := 1 < (s.pending die (s.instOwner i)).length
      if several && !mayChoose s l.ctx 7 0 c0 ch then .next (replayWait s l.ctx 7 0 c0 l.wlim)
      else
      let s1 := if several then logChoice s0 l.ctx 7 0 c0 ch else s0
      .next (placeNew (takePending s1 i) i l ps).wake
    else .next s
  | _ => .next s

/-! ### Victims, yields and gating (R130, R131, R293, R294) -/

/-- Whether a task that is placed is neither gated nor ended: it runs, or stands stopped for a fault. -/
def TStat.placed : TStat → Bool
  | .run | .stopping | .stopped | .handler | .hostStop => true
  | _ => false

/-- Whether a head could claim a running task as a victim (R293): also one that stands stopped for a fault (DESIGN CHOICE, assumption
55). -/
def victimOk (s : State) (prio : Nat) (t : Task) : Bool :=
  t.stat.placed && t.prio < prio && bitN (s.ctxOf t.ctx).pool.toNat 8

/-- The order in which victims are set aside (R293). -/
def victimLt (a b : Nat × Task) : Bool := a.2.prio < b.2.prio || (a.2.prio == b.2.prio && b.2.seq < a.2.seq)

/-- What the parts of some instances are known by on a core. -/
def goneOn (s : State) (tokens : List Nat) (c : Nat) : List Nat :=
  ((s.tasksOn c []).filter fun x => tokens.contains x.2.token).map (·.1)

/-- Set candidates aside one at a time until the head, whose own parts `own` names, fits at a place. -/
def setAside (s : State) (w : Want) (own : List Nat) (base : Nat) : List Nat → List Nat → Option (List Nat)
  | acc, [] => (fitPlace s w base (goneOn s (own ++ acc))).map fun _ => acc
  | acc, t :: r => match fitPlace s w base (goneOn s (own ++ acc)) with
    | some _ => some acc
    | none => setAside s w own base (acc ++ [t]) r

/-- The victims of a head (R293): what it holds itself is no obstacle to it. -/
def victims (s : State) (w : Want) (own clusters : List Nat) : Option (List Nat) :=
  firstOf (fun base =>
    let cand := (List.range w.gang).flatMap fun r => (s.tasksOn (base + r) []).filter fun x => victimOk s w.prio x.2
    setAside s w own base [] ((sortBy victimLt cand).map (·.2.token)).eraseDups) (places w.gang clusters)

/-- The head of a partition on a die that does not fit, with what it needs, its own token, and where it may stand. -/
def blockedHead (s : State) (die own : Nat) : Option (Want × List Nat × List Nat) :=
  match s.pending die own with
  | [] => none
  | h :: _ =>
    if (planOf s h).isSome || s.ctl.halt then none
    else match h.token with
      | none => (s.launchOf h.lid).map fun l => (l.want, [], clustersFor s h.lid (h.arr - h.lid - 1) die)
      | some tok => ((partsOf s tok).head?).map fun p => (p.2.2.want, [tok], clustersFor s p.2.2.lid p.2.2.idx die)

/-- A yield request to every task of an instance, with its context's deadline (R293): the request stands for that instance, and
not for other tasks of its context (DESIGN CHOICE, assumption 55). -/
def askYield (s : State) (token : Nat) : State :=
  (s.gangKeys token).foldl (fun s k =>
    let t := s.taskOf k
    s.setTask k { t with yreq := t.yreq.or (some (s.now + (s.ctxOf t.ctx).ydl.toNat)) }) s

/-- What a die's dispatcher asks of the tasks of one partition: its head's victims are to yield, and where no head waits the
requests are withdrawn (R293). -/
def askVictims (die : Nat) (s : State) (own : Nat) : State :=
  match blockedHead s die own with
  | none => withdraw s die own
  | some (w, me, cl) => ((victims s w me cl).getD []).foldl askYield s

/-- VICTIM_SELECTION (R293, R311). -/
def execVictimSelection (die : Nat) (s : State) : Out :=
  if s.ctl.halt then .next s else .next ((List.range 5).foldl (askVictims die) s).wake

/-- A gated instance enters the pending list of its die (R296). -/
def requeue (s : State) (token : Nat) (p : Nat × Nat × Task) : State :=
  { s.setCtl { s.ctl with pendI := s.ctl.pendI ++
      [{ die := dieOf p.1, lid := p.2.2.lid, prio := p.2.2.prio, arr := s.fresh, token := some token }] } with
    fresh := s.fresh + 1 }

/-- The barriers of a part of a task on a core, by number: those of its gang with rank 0 (R136). -/
def barsOf (s : State) (t : Task) (core : Nat) : List (Nat × Bar) :=
  (s.obj.bars.filter fun e => hasBar t.win core e.1).map fun e => (e.1 % 64 - (winBar t.win).1, e.2)

/-- The K-step that an operation of a task has begun runs to its end (R24). -/
def endStep (s : State) (tk : Nat) : State :=
  match s.matRun (tk / 4) with
  | some o => if o.tk = tk && o.inStep s.now then lastStep s o else s
  | none => s

/-- Gate one part of an instance (R294): its streams stand at an issue boundary, its engines at a stop point, and what the
vector engine has started commits (R24). A stream stopped at a YIELD will execute it again (R131). One that a fault has stopped, or is
stopping, will stand stopped when it resumes. -/
def gatePart (s : State) (tk : Nat) : State :=
  if !(s.taskOf tk).stat.placed then s
  else
  let s1 := endStep (if (s.taskOf tk).stat = .stopping then faultStop s tk else commitStarted s tk) tk
  let t := s1.taskOf tk
  onStreams (s1.setTask tk { t with stat := .gated, was := t.stat, gate0 := s.now, yreq := none }) tk fun st =>
    { st with run := if st.run = .yielded then .run else st.run, barW := none }

/-- Gate every part of an instance, which re-enters its pending list. -/
def gateGang (s : State) (token : Nat) : State :=
  match gangPart s token with
  | none => s
  | some p => requeue ((s.gangKeys token).foldl gatePart
      (logChoice s p.2.2.ctx 6 0 p.1 (coreSlotCyc p.1 p.2.1 s.now))) token p

/-- What a clean yield keeps of a stream (R41, R130). FINFO is not among it, and is 0 after it (DESIGN CHOICE, assumption 55). -/
def cleanStrm (st : Stream) : Stream :=
  if st.run != .yielded then { st with q := [] }
  else { run := .run, slot := st.slot, tnum := st.tnum, pc := st.pc + 8, spill := st.spill
         g := st.g.filter fun e => bitN st.ymask.toNat e.1, fpc := st.fpc, flg := st.flg, seed := st.seed, lanes := st.lanes
         nx := st.nx, syncArr := false }

/-- The streams of a task, by task-relative number. -/
def strmsOf (s : State) (tk : Nat) : List (Nat × Stream) :=
  (streamKeys (s.taskOf tk) tk).map fun k => ((s.strmOf k).tnum, s.strmOf k)

/-- The streams of a task leave its core, with its operations. -/
def leaveStrms (s : State) (tk : Nat) : State :=
  let s1 := (streamKeys (s.taskOf tk) tk).foldl (fun s k => s.setStrm k {}) s
  s1.setOps (s1.ops.filter fun o => !(o.core == tk / 4 && o.slot == tk % 4))

/-- Take a part off its core, what it left in its ranges standing (R41): the slot and the streams are free. -/
def leaveSlot (s : State) (tk : Nat) : State :=
  let s1 := leaveStrms s tk
  let c := s1.coreOf (tk / 4)
  (s1.setCore (tk / 4) { c with recs := c.recs.filter fun r => r.slot != tk % 4 }).setTask tk {}

/-- Whether a key is of the banks that a task slot's names stand for, and whether a poisoned word is in one. -/
def slotBank (tk k : Nat) : Bool := okey (tk / 4) .a (64 * (tk % 4)) ≤ k && k < okey (tk / 4) .a (64 * (tk % 4)) + 64
def slotBankPois (tk : Nat) (p : Nat × Nat × Nat × Nat) : Bool := p.1 == tk / 4 && p.2.1 == 2 && p.2.2.1 / 64 == tk % 4

/-- A record with the banks of a slot, by name: where a task's slot becomes another's its banks keep their contents, counts and
poison, and hold their quota (R41, R295). -/
def withBanks (s : State) (tk : Nat) (x : Saved) : Saved :=
  let b0 := okey (tk / 4) .a (64 * (tk % 4))
  { x with banks := (s.obj.banks.filter fun e => slotBank tk e.1).map fun e => (e.1 - b0, e.2)
           bcnts := (s.obj.cnts.filter fun e => slotBank tk e.1).map fun e => (e.1 - b0, e.2)
           bpois := (s.obj.poison.filter (slotBankPois tk)).map fun p => (p.2.2.1 % 64, p.2.2.2) }

/-- A slot's banks, put away or not in use: zero, with counts 0 and no poison. -/
def noBanks (s : State) (tk : Nat) : State :=
  s.setObj { s.obj with
    banks := mdrop s.obj.banks (slotBank tk), cnts := mdrop s.obj.cnts (slotBank tk)
    poison := s.obj.poison.filter fun p => !slotBankPois tk p }

/-- The banks of a record stand at the names of a slot. -/
def putBanks (s : State) (tk : Nat) (x : Saved) : State :=
  let s1 := noBanks s tk
  let b0 := okey (tk / 4) .a (64 * (tk % 4))
  s1.setObj { s1.obj with
    banks := x.banks.foldl (fun m e => mput 0 m (b0 + e.1) e.2) s1.obj.banks
    cnts := x.bcnts.foldl (fun m e => mput {} m (b0 + e.1) e.2) s1.obj.cnts
    poison := s1.obj.poison ++ x.bpois.map fun e => (tk / 4, 2, 64 * (tk % 4) + e.1, e.2) }

/-- A part of a cleanly yielding task leaves its core. -/
def cleanPart (s : State) (tk : Nat) : State :=
  let s1 := quiesce s tk
  let t := s1.taskOf tk
  let x : Saved :=
    { id := s1.fresh, core := tk / 4, slot := tk % 4, area := 0
      task := { t with stat := .gated, yreq := none, gate0 := s.now, out := BitVec.ofNat 16 allParts }
      strms := (strmsOf s1 tk).map fun e => (e.1, cleanStrm e.2), ops := [], fills := [], bars := barsOf s1 t (tk / 4)
      clean := true }
  let s2 := noBanks (leaveSlot s1 tk) tk
  { s2.setCtl { s2.ctl with saves := s2.ctl.saves ++ [{ withBanks s1 tk x with bcnts := [] }] } with fresh := s2.fresh + 1 }

/-- The streams of a gang instance. -/
def gangStrms (s : State) (token : Nat) : List Stream :=
  (s.gangKeys token).flatMap fun tk => (streamKeys (s.taskOf tk) tk).map s.strmOf

/-- Whether a task of which a yield is asked yields: each of its streams has stopped at a YIELD or ended (R130). -/
def yields (s : State) (t : Task) : Bool :=
  let sts := gangStrms s t.token
  t.yreq.isSome && t.stat == .run && sts.all (fun st => st.run == .yielded || st.run == .done) && sts.any (·.run == .yielded)

/-- A task yields (R130): cleanly once its operations have completed, as R12 has it, where every stopped stream set the clean
bit; otherwise it is gated, to be saved with its operations in flight. -/
def yieldNow (s : State) (c k : Nat) : State :=
  let t := s.taskOf (4 * c + k)
  let ks := s.gangKeys t.token
  if (gangStrms s t.token).all fun st => st.run == .done || st.yclean then
    if ks.any fun tk => (s.taskOps tk).any fun o => !o.uncnt then s
    else (requeue (ks.foldl cleanPart s) t.token (c, k, t)).wake
  else (gateGang s t.token).wake

/-- TASK_YIELD (R130). -/
def execTaskYield (c k : Nat) (s : State) : Out :=
  if yields s (s.taskOf (4 * c + k)) && s.coreRuns c then .next (yieldNow s c k) else .next s

/-- YIELD_DEADLINE_EXPIRY (R131, R294, R297): once the issues of its cycle are over, the instance is gated, unless the last of its
streams has reached its YIELD: then it waits on for what is still in flight (DESIGN CHOICE, assumption 68). -/
def execYieldDeadlineExpiry (c k : Nat) (s : State) : Out :=
  let t := s.taskOf (4 * c + k)
  match t.yreq with
  | none => .next s
  | some d =>
    if !t.stat.placed then .next s
    else if yields s t then .next (yieldNow (s.upTo (d + 1)) c k)
    else .next (gateGang (s.upTo (d + 1)) t.token).wake

end Sys2Proof.Machine
end

