-- ==== Sys2Proof/Machine/Save.lean ====
section
/-!
DEFINITION. Save areas (R337 to R341): their bytes, the scan-out of claimed parts and its faults (R295), the restoring of
gated and yielded tasks (R40, R41, R296), and CTXSAVE and CTXLOAD (R108, R306).
-/
namespace Sys2Proof.Machine

/-! ### The bytes of a save area (R338 to R340) -/

/-- Where the sections of a save area start, and its size. -/
structure Area where
  cnt  : Nat
  trs  : Nat
  slt  : Nat
  bnk  : Nat
  frm  : Nat
  spl  : Nat
  srg  : Nat
  cpy  : Nat
  size : Nat
  deriving DecidableEq, Repr

/-- Objects of a window. -/
def winN (w : BitVec 64) (sp : Spc) : Nat := (winOf w sp).2

/-- The sections of an area for windows and a stream count. -/
def areaOf (w : BitVec 64) (n : Nat) : Area :=
  let trs := 16384 + sect (32 * (winN w .t + winN w .o + winN w .a + winN w .f))
  let slt := trs + sect (512 * winN w .t)
  let bnk := slt + sect (22528 * winN w .o)
  let frm := bnk + 16384 * winN w .a
  let spl := frm + 8192 * winN w .f
  let srg := spl + 4096 * n
  let cpy := srg + sect (2048 * n)
  ⟨16384, trs, slt, bnk, frm, spl, srg, cpy, cpy + 16384⟩

/-- The first byte of the count records of a space. -/
def cntAt (a : Area) (w : BitVec 64) : Spc → Nat
  | .t => a.cnt
  | .o => a.cnt + 32 * winN w .t
  | .a => a.cnt + 32 * (winN w .t + winN w .o)
  | .f => a.cnt + 32 * (winN w .t + winN w .o + winN w .a)

/-- A count record (R339). -/
def cntRec (c : Cnt) : Nat :=
  c.w.toNat + 2^16 * (c.d.toNat + 2^4 * c.l.toNat) + 2^24 * c.h.toNat + 2^32 * c.rif + 2^128 * c.v.toNat

/-- The counts of a count record. -/
def cntOfRec (b : Nat) : Cnt :=
  { w := BitVec.ofNat 16 (bits b 0 16), d := BitVec.ofNat 4 (bits b 16 4), l := BitVec.ofNat 4 (bits b 20 4), h := bitN b 24
    rif := bits b 32 16, v := BitVec.ofNat 128 (bits b 128 128) }

/-- The bytes of a saved object of each space, and where its section starts. -/
def objAt (a : Area) : Spc → Nat × Nat
  | .t => (a.trs, 512)
  | .o => (a.slt, 22528)
  | .a => (a.bnk, 16384)
  | .f => (a.frm, 8192)

/-- A saved object: its front and, of a slot or frame, the rest. -/
def objImage (s : State) (t : Task) (sp : Spc) (k : Nat) : Nat :=
  let o := s.obj
  match sp with
  | .t => (mget 0 o.tregs k).toNat
  | .o => (mget 0 o.slotF k).toNat + 2^65536 * ((mget 0 o.slotS k).toNat
      + 2^65536 * ((mget 0 o.sideF k).toNat + 2^24576 * (mget 0 o.sideS k).toNat))
  | .a => if bitN t.amap.toNat (k % 64) then (mget 0 o.banks k).toNat else 0
  | .f => (mget 0 o.frmF k).toNat + 2^32768 * (mget 0 o.frmS k).toNat

/-- Put a saved object back. -/
def putObject (s : State) (sp : Spc) (k v : Nat) : State :=
  let o := s.obj
  s.setObj (match sp with
    | .t => { o with tregs := mput 0 o.tregs k (BitVec.ofNat _ v) }
    | .o => { o with slotF := mput 0 o.slotF k (BitVec.ofNat _ v), slotS := mput 0 o.slotS k (BitVec.ofNat _ (v / 2^65536))
                     sideF := mput 0 o.sideF k (BitVec.ofNat _ (v / 2^131072))
                     sideS := mput 0 o.sideS k (BitVec.ofNat _ (v / 2^155648)) }
    | .a => { o with banks := mput 0 o.banks k (BitVec.ofNat _ v) }
    | .f => { o with frmF := mput 0 o.frmF k (BitVec.ofNat _ v), frmS := mput 0 o.frmS k (BitVec.ofNat _ (v / 2^32768)) })

/-- The fixed fields of the header. -/
def hdrFixed (t : Task) (core slot status present : Nat) : List (Nat × Nat × Nat) :=
  [(0, 4, 0x45564153), (4, 2, 1), (6, 1, status), (8, 8, t.win.toNat),
    (16, 4, (mkTid 0 t.grank t.gsize t.phys.length slot t.ctx (core % 80) (core / 80)).toNat), (20, 1, t.ctx),
    (24, 8, present), (32, 8, t.amap.toNat), (40, 8, t.evb.toNat)]

/-- The record of a stream, but for its lanes. -/
def strmRec (st : Stream) : List (Nat × Nat × Nat) :=
  let at0 := 512 + 512 * st.tnum
  [(at0, 8, st.pc.toNat), (at0 + 328, 1, st.p.toNat ||| 1), (at0 + 329, 1, sstate st false), (at0 + 332, 4, st.fpc.toNat),
    (at0 + 336, 4, st.flg.toNat), (at0 + 340, 4, st.seed.toNat), (at0 + 344, 8, st.nx.taken + 2^63 * st.nx.owed.toNat),
    (at0 + 352, 4, st.pend.toNat), (at0 + 356, 4, pack 7 ((List.range 4).map fun q => (mget [] st.q q).length)),
    (at0 + 360, 1, st.syncArr.toNat)]
    ++ ((List.range 32).map fun r => (at0 + 8 + 8 * r, 8, (mget 0 st.g r).toNat))
    ++ ((List.range 8).map fun r => (at0 + 264 + 8 * r, 8, (mget {} st.b r).tgt.toNat))
    ++ [(4608 + 512 * st.tnum, 512, st.lanes.toNat)]

/-- Where a part of a task that is gang rank 0 keeps its barriers on its core, while they are there. -/
def rank0Bars (s : State) (t : Task) : Option Nat :=
  let r0 := s.taskOf (4 * t.gbase + t.gslots.getD 0 0)
  if r0.token = t.token && r0.stat != .empty && !bitN r0.out.toNat 7 then some (barKey t.gbase (winBar r0.win).1) else none

/-- The gang barrier of a number, kept at rank 0 (R136): on its core, or with what the device keeps of it. -/
def gangBar (s : State) (t : Task) (i : Nat) : Option Bar :=
  let away (x : Saved) : Option Bar := (x.bars.find? (·.1 == i)).map (·.2)
  let b : Option Bar := match rank0Bars s t with
    | some b => some (s.barOf (b + i))
    | none => (s.ctl.saves.find? fun x => x.task.token == t.token && x.task.grank == 0).bind away
  b.filter (·.gang)

/-- The barrier that a number of a part on a core stands for. -/
def barState (s : State) (t : Task) (core i : Nat) : Bar :=
  let own := s.barOf (barKey core ((winBar t.win).1 + i))
  if t.grank = 0 then own else (gangBar s t i).getD own

/-- A barrier's record. -/
def barRec (s : State) (t : Task) (core i : Nat) : List (Nat × Nat × Nat) :=
  let b := barState s t core i
  let at0 := 8704 + 32 * i
  [(at0, 4, b.n.toNat), (at0 + 4, 4, b.a.toNat), (at0 + 8, 2, b.gen.toNat), (at0 + 10, 1, b.gang.toNat),
    (at0 + 16, 16, bits b.t.toNat (128 * t.grank) 128)]

/-- The 16-byte engine records and the entries, at the offsets of R329 less 128. -/
def queueRecs (s : State) (tk n : Nat) : List (Nat × Nat × Nat) :=
  (List.range 4).flatMap fun e => (List.range n).flatMap fun t =>
    let q := recOps s tk e t
    [(10752 + 16 * (8 * e + t), 16, erec (s.taskOf tk).gate0 q), (10752 + 512 + 64 * (8 * e + t), 64, eent q)]

/-- The record of a copy in flight (R340). -/
def copyRec (s : State) (o : Op) : Nat :=
  let d := o.dsts.head?
  let (dst, port) : Nat × Nat := match o.i with
    | .cpq _ q _ _ => (3, q.toNat)
    | .cp _ .o _ _ _ _ _ | .cpg _ _ _ _ => (0, 0)
    | .cp _ _ _ _ _ _ _ => (1, 0)
    | _ => (2, 0)
  let f := match (s.opDsts o).head? with
    | some x => s.fillOf x.1
    | none => {}
  let mine := d.isSome && f.gen == o.fill
  let part := match o.i with
    | .cp _ _ _ _ _ _ p => p
    | _ => false
  o.pc.toNat + 2^64 * (o.tnum + 2^8 * (dst + 2^8 * (port + 2^8 * ((mine && f.opn).toNat + 2 * (mine && f.closed).toNat
    + 4 * part.toNat + 2^8 * (o.step + 2^32 * (match d with
      | some x => x.2.1
      | none => 0))))))

/-- The copies of a task that have started and not completed. -/
def copiesOf (s : State) (tk : Nat) : List Op :=
  (s.taskOps tk).filter fun o => o.eng == .cpy && o.ph != .queued && !o.uncnt

/-- The parts of a space, with the counts. -/
def spaces : List Spc := [.t, .o, .a, .f]

/-- A part of the header page: the bytes from `lo` to `hi - 1` of an image. -/
def pageCut (l : List (Nat × Nat × Nat)) (lo hi : Nat) : Nat × Nat × Nat :=
  (lo, hi - lo, bits (image l) (8 * lo) (8 * (hi - lo)))

/-- What saving some parts of a task of a core and slot writes (R338): offsets, sizes and values. The suspension section names the
device's record. -/
def areaWrites (s : State) (t : Task) (core slot id parts status present : Nat) : List (Nat × Nat × Nat) :=
  let tk := 4 * core + slot
  let a := areaOf t.win t.phys.length
  let sts := strmsOf s tk
  let objs := spaces.flatMap fun sp =>
    if bitN parts (partBit sp) then
      let n := winN t.win sp
      let key (i : Nat) := nameKey t core slot sp i
      let (at0, sz) := objAt a sp
      [(cntAt a t.win sp, 32 * n, pack 256 ((List.range n).map fun i => cntRec (s.cntOf (key i)))),
        (at0, sz * n, pack (8 * sz) ((List.range n).map fun i => objImage s t sp (key i)))]
    else []
  let bars := if bitN parts 7 then
      [pageCut (((List.range (winBar t.win).2).flatMap fun i => barRec s t core i) ++ queueRecs s tk t.phys.length) 8704 13312]
    else []
  let strms := if bitN parts 0 then
      [pageCut (sts.flatMap fun x => strmRec x.2) 512 8704, (13312, 3072, id),
        (a.spl, 4096 * sts.length, pack 32768 (sts.map fun x => pack 64 ((List.range 512).map fun i => (mget 0 x.2.spill i).toNat))),
        (a.srg, 2048 * sts.length, pack 4096 (sts.flatMap fun x =>
          (List.range 4).map fun q => pack 64 ((mget [] x.2.q q).map (·.toNat)))),
        (a.cpy, 16384, pack 256 ((copiesOf s tk).map (copyRec s)))]
    else []
  pageCut (hdrFixed t core slot status present) 0 512 :: (strms ++ bars ++ objs)

/-! ### Areas in memory -/

/-- The 64 KiB pages of a range of addresses, by number. -/
def pagesOf (va n : Nat) : List Nat := (List.range ((va + n - 1) / 65536 + 1 - va / 65536)).map (va / 65536 + ·)

/-- Where a page of a save area lies: it is PIN, and has the attribute asked for (R108, R337, R341). -/
def areaPage (s : State) (ctx : Nat) (wr : Bool) (p : Nat) : Option Loc :=
  match peek s ctx (65536 * p) with
  | .ok (l, e) => if ptePin e && (if wr then pteW e else pteR e) then some l else none
  | .error _ => none

/-- Whether a save area lies wholly in such pages. -/
def areaOk (s : State) (ctx va n : Nat) (wr : Bool) : Bool := (pagesOf va n).all fun p => (areaPage s ctx wr p).isSome

/-- Write a section of an area, page by page, at the places that its pages have in a state `s0`. -/
def putSection (s0 : State) (ctx va : Nat) (s : State) (x : Nat × Nat × Nat) : State :=
  let a := va + x.1
  if x.2.1 = 0 then s
  else (pagesOf a x.2.1).foldl (fun s p =>
    let lo := max a (65536 * p)
    let hi := min (a + x.2.1) (65536 * (p + 1))
    match areaPage s0 ctx true p with
    | some l => s.put (memKey l + (lo - 65536 * p)) (hi - lo) (x.2.2 / 2^(8 * (lo - a)))
    | none => s) s

/-- What the accesses to an area leave in the leaves of its pages (R309). -/
def touchArea (s : State) (ctx va n : Nat) (wr : Bool) : State := (pagesOf va n).foldl (fun s p => s.touch ctx (65536 * p) wr) s

/-- Write sections of an area. -/
def putArea (s : State) (ctx va : Nat) (l : List (Nat × Nat × Nat)) : State :=
  l.foldl (putSection s ctx va) ((l.filter (·.2.1 != 0)).foldl (fun u x => touchArea u ctx (va + x.1) x.2.1 true) s)

/-- Where an area holds a poisoned word that the device keeps the place of. -/
def poisAt (a : Area) (x : Nat × Nat) : Nat :=
  let i := x.1 % 256
  8 * x.2 + (match x.1 / 256 with
    | 0 => a.trs + 512 * i
    | 1 => a.slt + 22528 * i
    | 2 => a.bnk + 16384 * i
    | 3 => a.frm + 8192 * i
    | 4 => a.slt + 22528 * i + 16384
    | 9 => a.slt + 22528 * i + 8192
    | 11 => a.frm + 8192 * i + 4096
    | 12 => a.slt + 22528 * i + 19456
    | _ => a.spl + 4096 * i)

/-- The sectors in which an area bears the marks of poisoned words (R334). -/
def markSectors (s : State) (t : Task) (va : Nat) (wr : Bool) (l : List (Nat × Nat)) : List Nat :=
  l.filterMap fun x =>
    let a := va + poisAt (areaOf t.win t.phys.length) x
    (areaPage s t.ctx wr (a / 65536)).map fun l => (memKey l + a % 65536) / 32

/-- Mark the copies of poisoned words (R334). -/
def markArea (s : State) (t : Task) (va : Nat) (l : List (Nat × Nat)) : State :=
  { s with mpois := s.mpois ++ ((markSectors s t va true l).eraseDups.filter fun p => !s.mpois.contains p) }

/-- Where an area of windows and a stream count holds its header pages and some parts: offsets and sizes. -/
def areaRanges (w : BitVec 64) (n parts : Nat) : List (Nat × Nat) :=
  let a := areaOf w n
  ((0, 16384) :: (if bitN parts 0 then [(a.spl, 4096 * n), (a.srg, 2048 * n), (a.cpy, 16384)] else [])
    ++ spaces.flatMap fun sp => if bitN parts (partBit sp) then
        [(cntAt a w sp, 32 * winN w sp), ((objAt a sp).1, (objAt a sp).2 * winN w sp)] else []).filter (·.2 != 0)

/-- Read ranges of a save area, each at its offset: the marks that the device knows are no obstacle; any other poison is (R335). -/
def readArea (s : State) (t : Task) (va : Nat) (l : List (Nat × Nat)) (marks : List (Nat × Nat)) : Except Nat Nat :=
  let m := markSectors s t va false marks
  let s1 := { s with mpois := s.mpois.filter fun p => !m.contains p }
  l.foldlM (fun v r => (vread s1 t.ctx false (r.2 / 65536 + 2) (va + r.1) r.2).map fun b => v + b * 2^(8 * r.1)) 0

/-! ### What stays with the device -/

/-- The key of an object relative to its task's windows, and back. -/
def relKey (win : BitVec 64) (slot k : Nat) : Nat :=
  let i := k % 256
  match k / 256 % 4 with
  | 0 => i - (winOf win .t).1
  | 1 => 256 + (i - (winOf win .o).1)
  | 2 => 512 + (i - 64 * slot)
  | _ => 768 + (i - (winOf win .f).1)
def absKey (win : BitVec 64) (core slot r : Nat) : Nat :=
  let i := r % 256
  match r / 256 % 4 with
  | 0 => okey core .t ((winOf win .t).1 + i)
  | 1 => okey core .o ((winOf win .o).1 + i)
  | 2 => okey core .a (64 * slot + i)
  | _ => okey core .f ((winOf win .f).1 + i)

/-- Whether a relative key belongs to one of some parts. -/
def relIn (parts r : Nat) : Bool := bitN parts (r / 256 + 2)

/-- The fills of a task's slots and frames in some parts. -/
def fillsOf (s : State) (t : Task) (core slot parts : Nat) : List (Nat × Fill) :=
  ((s.obj.fills.filter fun e => hasKey t.win core slot e.1).map fun e => (relKey t.win slot e.1, e.2)).filter
    fun e => relIn parts e.1

/-- The poisoned words of some parts of a task, by `256 * store + name` and word; of spill memory, by stream. -/
def poisonOf (s : State) (t : Task) (core slot parts : Nat) : List (Nat × Nat) :=
  s.obj.poison.filterMap fun p =>
    let (c, st, ob, w) := p
    if c != core then none
    else if st = 5 then
      (match t.phys.findIdx? (· == ob) with
        | some i => if bitN parts 0 then some (1280 + i, w) else none
        | none => none)
    else
      let sp := poisonSpc st
      let k := core * 1024 + sp * 256 + ob
      if hasKey t.win core slot k && relIn parts (256 * sp) then
        some (256 * st + relKey t.win slot k % 256, w) else none

/-- The record of a task's operations as they leave a core: their tracked reads by relative keys. -/
def packOps (s : State) (t : Task) (core slot : Nat) : List Op :=
  (s.taskOps (4 * core + slot)).map fun o => { o with rds := o.rds.map (relKey t.win slot), strm := o.tnum }

/-- What the device keeps when parts of a task leave its core, beside what it kept before. The cycle of its gating stays with
the task, so that the waits of its streams and operations go on where they stopped (R34). -/
def keepParts (s : State) (t : Task) (core slot id : Nat) (area : Word) (parts : Nat) (hnd : Bool) (old : Option Saved) : Saved :=
  let strms := bitN parts 0
  { id := id, core := core, slot := slot, area := area, task := { t with out := t.out ||| BitVec.ofNat 16 parts }
    strms := if strms then strmsOf s (4 * core + slot) else (old.map (·.strms)).getD []
    ops := if strms then packOps s t core slot else (old.map (·.ops)).getD []
    fills := fillsOf s t core slot parts ++ (old.map (·.fills)).getD []
    bars := if bitN parts 7 then barsOf s t core else (old.map (·.bars)).getD []
    pois := poisonOf s t core slot parts ++ (old.map (·.pois)).getD [], hnd := hnd
    off := bitN parts 11 || (old.map (·.off)).getD false
    banks := (old.map (·.banks)).getD [], bcnts := (old.map (·.bcnts)).getD [], bpois := (old.map (·.bpois)).getD [] }

/-! ### Scan-out and its faults (R295, R337, R341) -/

/-- The pool cell of a context for a core and slot (R337). -/
def poolCell (s : State) (ctx core slot : Nat) : Word :=
  let p := (s.ctxOf ctx).pool.toNat
  let k := 40 * ((s.quarters (s.ownerC ctx)).findIdx? (· == quarterOf core)).getD 0 + core % 40
  BitVec.ofNat 64 (p / 2^16 * 2^16 + bits p 0 8 * 2^20 * (4 * k + slot))

/-- The instances of a context that are placed or saved. -/
def ctxTokens (s : State) (ctx : Nat) : List Nat :=
  ((s.task.filter fun e => e.2.ctx == ctx && e.2.stat != .empty && e.2.stat != .ended).map (·.2.token)
    ++ (s.ctl.saves.filter fun x => x.task.ctx == ctx).map (·.task.token)).eraseDups

/-- A fault record of a cause alone. -/
def bareFault (s : State) (cause : Nat) : FaultRec := { finfo := BitVec.ofNat 64 cause, fcyc := s.now }

/-- SAVE_AREA_FAULT (R341): the context is LOST and its tasks end. -/
def saveFault (s : State) (ctx core : Nat) (area : Word) : State :=
  let s1 := s.setCtx ctx { s.ctxOf ctx with lost := true }
  let s2 := match vwrite s1 ctx true 2 (area.toNat + 6) 1 3 with
    | (_, none, t) => t
    | _ => s1
  let s3 := (ctxTokens s2 ctx).foldl (fun s t => endGang s t (bareFault s 0x11) 2 true) (traceEvent s2 ctx 1 core 0 none s.now)
  machineCheck s3 4 (quarterOf core) 1 ctx area 0

/-- The PRESENT field of parts (R338). -/
def presentOf (parts : Nat) : Nat := (parts ||| (if bits parts 2 4 = 0 then 0 else 2)) % 0x800

/-- Whether the writes of a scan reach the area's pages (R341). -/
def writesOk (s : State) (ctx va : Nat) (l : List (Nat × Nat × Nat)) : Bool :=
  l.all fun x => x.2.1 == 0 || areaOk s ctx (va + x.1) x.2.1 true

/-- Save parts of a gated task of a core, in its slot or off it, in its pool cell, once the memory work of its gang's streams has
finished (R295, R340); banks that stay while the slot goes are kept for it. -/
def scanTask (s : State) (core slot : Nat) (off : Bool) (t : Task) (parts0 : Nat) : State :=
  let tk := 4 * core + slot
  let old := s.ctl.saves.find? fun x => x.core == core && x.task.token == t.token && !x.hnd
  let parts := parts0 - (parts0 &&& t.out.toNat)
  let all := t.out.toNat ||| parts
  let area := poolCell s t.ctx core slot
  let id := (old.map (·.id)).getD s.fresh
  let sv := match old with
    | some x => if off && bitN parts 4 then putBanks s tk x else s
    | none => s
  let l := areaWrites sv t core slot id parts (if all = allParts then 2 else 1) (presentOf all)
  if !writesOk s t.ctx area.toNat l then saveFault s t.ctx core area
  else
    let x0 := keepParts sv t core slot id area parts false old
    let x := if bitN parts 4 then { x0 with banks := [], bcnts := [], bpois := [] }
      else if bitN parts 11 && !bitN t.out.toNat 4 then withBanks s tk x0 else x0
    let s1 := markArea (putArea s t.ctx area.toNat l) t area.toNat x.pois
    let s2 := { s1.setCtl { s1.ctl with saves := (s1.ctl.saves.filter fun z => z.id != id) ++ [x] } with fresh := s1.fresh + 1 }
    if off then s2
    else if bitN parts 11 then leaveSlot (noBanks s2 tk) tk
    else (if bitN parts 0 then leaveStrms s2 tk else s2).setTask tk x.task

/-- Scan parts of a gated task out: one in a slot of a core, or, from 4 on, one that has left its slot. -/
def scanPart (s : State) (core k parts : Nat) : State :=
  if k < 4 then
    let t := s.taskOf (4 * core + k)
    if t.stat != .gated then s
    else
      let s1 := (s.gangKeys t.token).foldl quiesce s
      scanTask s1 core k false (s1.taskOf (4 * core + k)) parts
  else match s.ctl.saves.find? fun x => 4 + x.id == k with
    | none => s
    | some x =>
      let s1 := (s.gangKeys x.task.token).foldl quiesce s
      scanTask s1 core x.slot true x.task parts

/-- SCAN_OUT (R295, R296): what the next placement claims of a task on a core. -/
def execScanOut (c k : Nat) (s : State) : Out :=
  match s.nextPlace (dieOf c) with
  | none => .next s
  | some (i, p) =>
    match (toScan s i p).find? fun x => x.1 == c && x.2.1 == k with
    | none => .next s
    | some (_, _, m) => .next (scanPart s c k m).wake

/-! ### Restoring (R40, R41, R108, R296, R340) -/

/-- A stream from its record in an area, over what the device kept of it; its wait goes on (R34). -/
def loadStrm (b : Nat) (a : Area) (st : Stream) (n slot now : Nat) : Stream :=
  let at0 := 512 + 512 * n
  let qc := fld b (at0 + 356) 4
  let pos := fld b (at0 + 344) 8
  { st with
    run := match fld b (at0 + 329) 1 with
      | 0 => .absent
      | 3 => .done
      | _ => .run
    slot := slot, tnum := n, pc := BitVec.ofNat 64 (fld b at0 8)
    g := (List.range 31).foldl (fun g r => mput 0 g (r + 1) (BitVec.ofNat 64 (fld b (at0 + 16 + 8 * r) 8))) []
    b := (List.range 8).foldl (fun m r =>
      let t := BitVec.ofNat 64 (fld b (at0 + 264 + 8 * r) 8)
      let old := mget {} st.b r
      mput {} m r { tgt := t, st := if old.tgt = t then old.st else .none }) []
    p := BitVec.ofNat 8 (fld b (at0 + 328) 1 / 2 * 2), fpc := maskFpc (BitVec.ofNat 32 (fld b (at0 + 332) 4))
    flg := maskFlg (BitVec.ofNat 32 (fld b (at0 + 336) 4)), seed := BitVec.ofNat 32 (fld b (at0 + 340) 4)
    lanes := BitVec.ofNat 4096 (fld b (4608 + 512 * n) 512)
    nx := { st.nx with taken := pos % 2^63, owed := bitN pos 63 }, pend := BitVec.ofNat 32 (fld b (at0 + 352) 4)
    q := (List.range 4).foldl (fun m q =>
      mput [] m q ((unpack 64 (bits qc (7 * q) 7) (fld b (a.srg + 2048 * n + 512 * q) 512)).map (BitVec.ofNat 64))) []
    spill := (List.range 512).foldl (fun m i => mput 0 m i (BitVec.ofNat 64 (fld b (a.spl + 4096 * n + 8 * i) 8))) []
    syncArr := bitN (fld b (at0 + 360) 1) 0, nextIss := now + 1, barW := none
    land := [], arr := [], mq := [] }

/-- Put the targets of a rank's streams into the gang barrier of a number, at rank 0 (R136). -/
def putTargets (s : State) (t : Task) (i v : Nat) : State :=
  let set (b : Bar) : Bar := { b with t := BitVec.ofNat 1024 (setBits b.t.toNat (128 * t.grank) 128 v) }
  match rank0Bars s t with
  | some b => s.setBar (b + i) (set (s.barOf (b + i)))
  | none => s.setCtl { s.ctl with saves := s.ctl.saves.map fun x =>
      if x.task.token = t.token && x.task.grank = 0 then
        { x with bars := x.bars.map fun e => if e.1 = i then (e.1, set e.2) else e }
      else x }

/-- Restore a barrier of a part from its record: N, A, GEN and GANG, but for a gang barrier away from rank 0, and the
part's own targets. -/
def loadBar (s : State) (b : Nat) (t : Task) (core i : Nat) : State :=
  let at0 := 8704 + 32 * i
  let gang := bitN (fld b (at0 + 10) 1) 0
  if gang && t.grank != 0 then putTargets s t i (fld b (at0 + 16) 16)
  else
    let k := barKey core ((winBar t.win).1 + i)
    let old := s.barOf k
    s.setBar k { old with
      n := BitVec.ofNat 32 (fld b at0 4), a := BitVec.ofNat 32 (fld b (at0 + 4) 4), gen := BitVec.ofNat 16 (fld b (at0 + 8) 2), gang := gang
      t := BitVec.ofNat 1024 (setBits old.t.toNat (128 * t.grank) 128 (fld b (at0 + 16) 16)) }

/-- The barriers of a part, from what the device kept and from its area. -/
def loadBars (s : State) (x : Saved) (b : Nat) (t : Task) (core : Nat) : State :=
  (List.range (winBar t.win).2).foldl (fun s i => loadBar s b t core i)
    (x.bars.foldl (fun s e => s.setBar (barKey core ((winBar t.win).1 + e.1)) e.2) s)

/-- A poisoned word of a part at its place on a core (R334). -/
def poisonBack (t : Task) (core slot parts : Nat) (e : Nat × Nat) : Option (Nat × Nat × Nat × Nat) :=
  if e.1 / 256 = 5 then (if bitN parts 0 then some (core, 5, t.phys.getD (e.1 % 256) 0, e.2) else none)
  else
    let sp := poisonSpc (e.1 / 256)
    if relIn parts (256 * sp) then some (core, e.1 / 256, absKey t.win core slot (256 * sp + e.1 % 256) % 256, e.2) else none

/-- Put the objects of some parts of a task back, with their counts. -/
def loadObjs (s : State) (t : Task) (b core slot parts : Nat) : State :=
  let a := areaOf t.win t.phys.length
  spaces.foldl (fun s sp =>
    if bitN parts (partBit sp) then
      let (at0, sz) := objAt a sp
      (List.range (winN t.win sp)).foldl (fun s i =>
        let k := nameKey t core slot sp i
        (putObject s sp k (fld b (at0 + sz * i) sz)).setCnt k (cntOfRec (fld b (cntAt a t.win sp + 32 * i) 32))) s
    else s) s

/-- Put the streams and operations of a task back. -/
def loadStrms (s : State) (x : Saved) (t : Task) (b core slot : Nat) : State :=
  let a := areaOf t.win t.phys.length
  let s1 := (withNums t.phys).foldl (fun s e =>
    s.setStrm (8 * core + e.2) (loadStrm b a (((x.strms.find? (·.1 == e.1)).map (·.2)).getD {}) e.1 slot s.now)) s
  s1.setOps (s1.ops ++ x.ops.map fun o =>
    { o with core := core, slot := slot, strm := t.phys.getD o.tnum 0, rds := o.rds.map (absKey t.win core slot) })

/-- Put the parts of a task back on a core from the bytes of its area and what the device kept; the task stands in
its slot. -/
def loadParts (s : State) (x : Saved) (b tk parts : Nat) : State :=
  let t := s.taskOf tk
  let core := tk / 4
  let slot := tk % 4
  let s1 := (x.fills.filter fun e => relIn parts e.1).foldl (fun s e => s.setFill (absKey t.win core slot e.1) e.2)
    (loadObjs s t b core slot parts)
  let s2 := s1.setObj { s1.obj with poison := s1.obj.poison ++ x.pois.filterMap (poisonBack t core slot parts) }
  let s3 := if bitN parts 7 then loadBars s2 x b t core else s2
  if bitN parts 0 then loadStrms s3 x t b core slot else s3

/-- A gated part goes on (R294, R34) as it stood when it was gated: the cycles for which it was gated do not count towards its
waits. -/
def resumePart (s : State) (tk : Nat) : State :=
  let t := s.taskOf tk
  if t.stat != .gated then s
  else
    let d := s.now - t.gate0
    let s1 := onStreams (s.setTask tk { t with stat := t.was, was := .run, gate0 := s.now, out := 0 }) tk
      fun st => { st with nextIss := max st.nextIss (s.now + 1), wait := st.wait.map fun w => { w with since := w.since + d } }
    resumeOps s1 tk t.gate0

/-- The task of a part at a new place. -/
def moved (t : Task) (ps : List Plot) (p : Plot) : Task :=
  { t with phys := p.phys, win := p.win, gbase := (ps.head?.map (·.core)).getD 0, gslots := ps.map (·.slot) }

/-- A part that yielded cleanly starts on a plot (R41): the ranges that count are those of its counted objects. -/
def loadClean (s : State) (x : Saved) (p : Plot) (t : Task) : State :=
  let same := x.keep && p.core == x.core && p.phys == x.task.phys && spaces.all fun sp => winOf p.win sp == winOf x.task.win sp
  let s1 := (zeroParts s p.win p.core p.slot allParts (!same)).setTask (4 * p.core + p.slot) t
  let s2 := x.bars.foldl (fun s e => s.setBar (barKey p.core ((winBar p.win).1 + e.1)) e.2) s1
  let s3 := if same then putBanks s2 (4 * p.core + p.slot) x else s2
  (withNums p.phys).foldl (fun s e =>
    let st := ((x.strms.find? (·.1 == e.1)).map (·.2)).getD {}
    (if same then s else unspill s p.core e.2).setStrm (8 * p.core + e.2)
      { st with slot := p.slot, tnum := e.1, spill := if same then st.spill else [], nextIss := s.now + 1 }) s3

/-- Put what one part has off its core back on a plot; an unreadable area loses the context (R341). -/
def restorePart (s : State) (x : Saved) (ps : List Plot) (p : Plot) : State :=
  let t := moved x.task ps p
  let tk := 4 * p.core + p.slot
  let parts := t.out.toNat
  let l := areaRanges t.win t.phys.length parts
  if x.clean then resumePart (loadClean (spoil s p) x p t) tk
  else match readArea s t x.area.toNat l x.pois with
    | .error _ => saveFault s t.ctx p.core x.area
    | .ok b =>
      let seen := l.foldl (fun s r => touchArea s t.ctx (x.area.toNat + r.1) r.2 false) s
      let s1 := zeroParts (spoil seen p) p.win p.core p.slot parts true
      let s2 := if x.off && !bitN parts 4 then putBanks s1 tk x else s1
      loadParts (s2.setTask tk { t with stat := .gated }) x b tk parts

/-- The plots of an instance that goes back where it was. -/
def oldPlots (ps : List (Nat × Nat × Task)) : List Plot := ps.map fun p => ⟨p.1, p.2.1, p.2.2.phys, p.2.2.win, []⟩

/-- The launch of an instance that is placed again notes where it stands now. -/
def noteSpot (s : State) (t : Task) (base : Nat) : State :=
  match s.launchOf t.lid with
  | some l => s.setLaunch { l with spots := l.spots.map fun x => if x.1 = t.idx then (x.1, base) else x }
  | none => s

/-- Place a gated or yielded instance again on its plots: what is off its cores is restored, and every part goes on. -/
def placeAgain (s : State) (token : Nat) (p : Plan) : State :=
  let parts := partsOf s token
  let saves := s.ctl.saves.filter fun x => x.task.token == token && !x.hnd
  let ps := match p with
    | .move l => l
    | _ => oldPlots parts
  let s1 := (List.zip parts ps).foldl (fun s e =>
    match saves.find? fun x => x.task.grank == e.1.2.2.grank with
    | some x => if (s.ctxOf x.task.ctx).lost then s else restorePart s x ps e.2
    | none => s) s
  let s2 := s1.setCtl { s1.ctl with saves := s1.ctl.saves.filter fun x => x.task.token != token || x.hnd }
  let s3 := match parts.head?, ps.head? with
    | some a, some b => noteSpot { s2 with fresh := s2.fresh + 1 } a.2.2 b.core
    | _, _ => s2
  ps.foldl (fun s p =>
    let tk := 4 * p.core + p.slot
    resumePart (s.setTask tk { s.taskOf tk with seq := s2.fresh }) tk) s3

/-- TASK_RESTORE (R296): a gated or yielded instance is placed again, on all its cores in one cycle. -/
def execTaskRestore (token : Nat) (s : State) : Out :=
  match s.ctl.pendI.find? fun i => i.token == some token with
  | none => .next s
  | some i0 =>
    match s.nextPlace i0.die with
    | none => .next s
    | some (i, p) =>
      if i.token != some token || !(toScan s i p).isEmpty then .next s
      else .next (placeAgain (takePending (s.placeTurn i) i) token p).wake

/-! ### CTXSAVE and CTXLOAD (R108, R306) -/

/-- A save-area operand (R108): base and slot. A stream in firmware mode has no task of its own there (R91). -/
def saveOperand (h : Header) (ga : G) (s : State) (k : Nat → Nat → State → Out) : Out :=
  privileged s fun s => guarded h 0 s fun s1 => withOperands { srcs := [ga] } s1 fun v s2 =>
    let a := (arg v 0).toNat
    let st := s2.strmOf s2.cur
    let back := s2.setMe (s1.strmOf s1.cur)
    if bits a 2 10 != 0 then raise back (pipeFault s2 0x0C none (arg v 0))
    else if a % 4 = st.slot && st.mode != .firmware then raise back (pipeFault s2 0x0B none (arg v 0))
    else k (a / 4096 * 4096) (a % 4) s2

/-- What is in the save area of a task that is partly off its core already: its pool cell's bytes. -/
def cellBytes (s : State) (t : Task) (core slot : Nat) : List (Nat × Nat × Nat) :=
  let l := areaRanges t.win t.phys.length t.out.toNat
  match s.ctl.saves.find? fun x => x.core == core && x.task.token == t.token && !x.hnd with
  | none => []
  | some x => match readArea s t (poolCell s t.ctx core slot).toNat l x.pois with
    | .ok b => l.map fun r => (r.1, r.2, bits b (8 * r.1) (8 * r.2))
    | .error _ => []

/-- CTXSAVE of a task in a slot (R108): its gang is gated and the memory work of the gang's streams finishes, as at a forced
pre-emption; its whole context goes to the area, and its slot keeps its windows. The other parts stay gated until CTXLOAD places this one
again (R267; DEDUCED, assumption 42). -/
def saveTask (s : State) (tk area : Nat) : State :=
  let ks := s.gangKeys (s.taskOf tk).token
  let s1 := ks.foldl quiesce (ks.foldl gatePart s)
  let t := s1.taskOf tk
  let core := tk / 4
  let slot := tk % 4
  let old := s1.ctl.saves.find? fun x => x.core == core && x.task.token == t.token && !x.hnd
  let parts := allParts - (allParts &&& t.out.toNat)
  let l := cellBytes s1 t core slot ++ areaWrites s1 t core slot s1.fresh parts 2 (presentOf allParts) ++ [(13312, 3072, s1.fresh)]
  let x := keepParts s1 t core slot s1.fresh (BitVec.ofNat 64 area) parts true old
  let s2 := markArea (putArea s1 t.ctx area l) t area x.pois
  let s3 := { s2.setCtl { s2.ctl with
    saves := (s2.ctl.saves.filter fun z => z.task.token != t.token || (if z.hnd then z.task.grank != t.grank else z.core != core)) ++ [x]
    pendI := s2.ctl.pendI.filter fun i => i.token != some t.token } with fresh := s2.fresh + 1 }
  (leaveSlot s3 tk).setTask tk { t with stat := .saved, fault := none, yreq := none, out := 0 }

def execCtxsave (h : Header) (ga : G) (s : State) : Out :=
  saveOperand h ga s fun area slot s1 =>
    let tk := 4 * s1.myCore + slot
    let t := s1.taskOf tk
    let fw := (s1.strmOf s1.cur).mode == .firmware
    if t.stat = .empty || t.stat = .saved || t.stat = .ended then raise s1 (pipeFault s1 0x0B none (BitVec.ofNat 64 area))
    else if t.ctx != s1.myCtx && !fw then raise s1 (pipeFault s1 0x03)
    else if !areaOk s1 t.ctx area (areaOf t.win t.phys.length).size true then raise s1 (pipeFault s1 0x11)
    else retire h 8 (saveTask s1 tk area)

/-- What the device kept for an area of a context, by the identity in its suspension section; otherwise what the header gives, as a
task of its own (DESIGN CHOICE, assumption 42). -/
def savedFor (s : State) (b : Nat) : Saved :=
  match s.ctl.saves.find? fun x => x.id == fld b 13312 8 && x.hnd && x.task.ctx == fld b 20 1 with
  | some x => x
  | none =>
    let tid := fld b 16 4
    let n := bits tid 6 3 + 1
    { id := 0, core := 0, slot := 0, area := 0, strms := [], ops := [], fills := []
      task := { stat := .gated, token := s.fresh, seq := s.fresh, grank := bits tid 3 3, gsize := n
                gslots := List.replicate n (bits tid 12 2), gate0 := s.now } }

/-- The windows that the dispatcher allots to an empty slot, first-fit, for the sizes and streams of a saved task. -/
def allotSlot (s : State) (core slot : Nat) (win : BitVec 64) (n : Nat) : Option Plot :=
  let ts := s.tasksOn core []
  let pick (p : Spc) (step : Nat) := lowBase (ts.map (·.2.range p)) step (winN win p) (spaceSize p)
  let phys := (freeOf 8 (ts.flatMap (·.2.held) ++ s.fwOn core)).take n
  match pick .t 8, pick .o 1, pick .f 1, lowBase (ts.map (·.2.barRange)) 1 (winBar win).2 64 with
  | some tb, some ob, some fb, some bb =>
    if phys.length < n || 64 < ts.foldl (fun m x => m + (x.2.range .a).2) (winN win .a) then none
    else some ⟨core, slot, phys, mkWin tb (winN win .t) ob (winN win .o) (winN win .a) fb (winN win .f) bb (winBar win).2, []⟩
  | _, _, _, _ => none

/-- The place that CTXLOAD takes (R108): the windows that a saved slot keeps, where they have the sizes of the saved ones, or
those that the dispatcher allots to an empty one. -/
def loadPlot (s : State) (core slot : Nat) (win : BitVec 64) (n : Nat) : Option Plot :=
  let room := s.taskOf (4 * core + slot)
  if room.stat = .empty then allotSlot s core slot win n
  else if spaces.any (fun sp => winN win sp != winN room.win sp) || (winBar win).2 != (winBar room.win).2 || n != room.phys.length
    then none
  else some ⟨core, slot, room.phys, room.win, []⟩

/-- What the parts of a gang hold of the place of one of them, which now stands in a slot of a core; windows that another slot keeps
for it are that task's no longer. -/
def regang (s : State) (token base rank slot : Nat) : State :=
  let f (t : Task) : Task :=
    if t.token != token || t.stat = .empty then t
    else if t.stat = .saved && t.grank = rank then { t with token := 0 }
    else { t with gbase := base, gslots := lset t.gslots rank slot }
  { s with task := s.task.map fun e => (e.1, f e.2)
           ctl := { s.ctl with saves := s.ctl.saves.map fun x => { x with task := f x.task } } }

/-- After CTXLOAD of a part, its gang resumes once no part of it is in a save area of CTXSAVE; where the dispatcher has scanned parts out,
it re-enters the pending list to be placed again (R296; DEDUCED, assumption 42). -/
def resumeGang (s : State) (tk : Nat) : State :=
  let t := s.taskOf tk
  let ks := s.gangKeys t.token
  let saves := s.ctl.saves.filter fun x => x.task.token == t.token
  if saves.any fun x => x.hnd && x.keep then s
  else if saves.all (·.hnd) then ks.foldl resumePart s
  else requeue s t.token (tk / 4, tk % 4, t)

/-- CTXLOAD of a task into a plot from the bytes of its area (R108). -/
def loadTask (s : State) (p : Plot) (b : Nat) : State :=
  let tk := 4 * p.core + p.slot
  let x := savedFor s b
  let t := { x.task with
    stat := .gated, win := p.win, phys := p.phys, ctx := fld b 20 1 % 64
    amap := BitVec.ofNat 64 (fld b 32 8), evb := BitVec.ofNat 64 (fld b 40 8), out := 0 }
  let s1 := { s.setCtl { s.ctl with saves := s.ctl.saves.map fun z =>
    if z.hnd && z.task.token == t.token && z.task.grank == t.grank then { z with keep := false } else z } with fresh := s.fresh + 1 }
  let s2 := loadParts ((zeroParts (spoil s1 p) p.win p.core p.slot allParts true).setTask tk t) x b tk allParts
  resumeGang (regang s2 t.token (p.core - t.grank) t.grank p.slot) tk

/-- CTXLOAD. In firmware mode the area is read in the context of slot 0's task (DESIGN CHOICE, assumption 54). -/
def execCtxload (h : Header) (ga : G) (s : State) : Out :=
  saveOperand h ga s fun area slot s1 =>
    let room := s1.taskOf (4 * s1.myCore + slot)
    let fw := (s1.strmOf s1.cur).mode == .firmware
    let lost := pipeFault s1 0x11
    if room.stat != .empty && room.stat != .saved then raise s1 (pipeFault s1 0x0B none (BitVec.ofNat 64 area))
    else match readArea s1 s1.myTask area [(0, 16384)] [] with
      | .error _ => raise s1 lost
      | .ok b0 =>
        let s2 := touchArea s1 s1.myCtx area 16384 false
        let win := BitVec.ofNat 64 (fld b0 8 8)
        let n := bits (fld b0 16 4) 9 3 + 1
        if (fld b0 20 1 != s1.myCtx && !fw) || (room.stat = .saved && room.ctx != fld b0 20 1) then raise s2 (pipeFault s1 0x03)
        else if fld b0 0 4 != 0x45564153 || fld b0 4 2 != 1 || fld b0 6 1 != 2 then raise s2 lost
        else match loadPlot s1 s1.myCore slot win n with
          | none => raise s2 lost
          | some p =>
            let size := (areaOf win n).size
            if !areaOk s1 s1.myCtx area size false then raise s2 lost
            else match readArea s1 { s1.myTask with win := win, phys := p.phys } area (areaRanges win n allParts) (savedFor s1 b0).pois with
              | .error _ => raise s2 lost
              | .ok b => retire h 8 (loadTask (touchArea s1 s1.myCtx area size false) p b)

end Sys2Proof.Machine
end

