-- ==== Sys2Proof/Machine/Fault.lean ====
section
/-!
DEFINITION. The delivery of faults (R327 to R333), the fault queue (R362), and errors in storage (R43, R334 to R336, R376).
-/
namespace Sys2Proof.Machine

/-- FAULT_STOP (R327, R328): the work of a faulting task has stopped, after the cycle of its fault. -/
def execFaultStop (c k : Nat) (s : State) : Out :=
  let tk := 4 * c + k
  if (s.taskOf tk).stat = .stopping && s.coreRuns c then
    .next (faultStop (s.upTo ((((s.taskOf tk).fault.map (·.fcyc)).getD 0) + 1)) tk).wake
  else .next s

/-- FAULT_VECTORING (R326, R331, R333). -/
def execFaultVectoring (c k : Nat) (s : State) : Out :=
  let tk := 4 * c + k
  if (s.taskOf tk).stat = .stopped && s.coreRuns c then .next (faultVector s tk).wake else .next s

/-! ### The fault queue (R362) -/

/-- The 64 bytes of an entry. -/
def fqBytes (e : FqEnt) : Nat :=
  e.kind + 2^8 * e.ctx + 2^16 * e.code + 2^32 * (e.token % 2^32) + 2^64 * e.finfo.toNat + 2^128 * e.faddr.toNat
    + 2^192 * (e.cyc % 2^64) + 2^256 * e.core + 2^272 * e.slot

def Func.fqEn (x : Func) : Bool := bitN x.fqctl.toNat 0
/-- Entries of the ring. -/
def Func.fqSize (x : Func) : Nat := 2^(bits x.fqctl.toNat 1 4)
/-- Whether the ring has no room: HEAD and TAIL count entries. -/
def Func.fqFull (x : Func) : Bool := x.fqSize ≤ (x.fqtail - x.fqhead).toNat

/-- Whether a fault of a function's tasks that was detected before a cycle is still to be delivered, which may come to an entry. -/
def State.earlier (s : State) (f cyc : Nat) : Bool :=
  s.task.any fun e => (e.2.stat == .stopping || e.2.stat == .stopped) && s.ownerC e.2.ctx == f
    && e.2.fault.any fun g => g.fcyc < cyc

/-- FAULT_QUEUE_ENTRY: the next entry is written, TAIL advances and vector 0 is raised; while the ring is full the entry is
held and FULL is set. Entries go in the order of detection. -/
def execFaultQueueEntry (f : Nat) (s : State) : Out :=
  let x := s.funOf f
  match x.fqpend with
  | [] => .next s
  | e :: r =>
    if !x.fqEn || !s.mmio f || s.earlier f e.cyc then .next s
    else if x.fqFull then .next (s.setFun f { x with fqctl := x.fqctl ||| 0x20 })
    else
      let a := x.fqbase.toNat / 2^12 * 2^12 + 64 * (x.fqtail.toNat % x.fqSize)
      let s1 := s.setMem (writeN s.mem (memKey ⟨.host, a⟩) 64 (fqBytes e))
      .next (raiseVec (s1.setFun f { x with fqpend := r, fqtail := x.fqtail + 1, fqctl := x.fqctl &&& ~~~0x20 }) f 0).wake

/-- Whether a task stands stopped for the host, also while it is gated (R294, R362). -/
def Task.forHost (t : Task) : Bool := t.stat == .hostStop || (t.stat == .gated && t.was == .hostStop)

/-- The parts of an instance of a function's contexts that are stopped for the host. -/
def hostStopped (s : State) (f token : Nat) : List Nat :=
  (s.gangKeys token).filter fun k => (s.taskOf k).forHost && s.ownerC (s.taskOf k).ctx == f
/-- Those of them that have left their slots. -/
def hostAway (s : State) (f token : Nat) : List Saved :=
  s.ctl.saves.filter fun x => x.task.token == token && x.off && x.task.forHost && s.ownerC x.task.ctx == f

/-- A gated task that is no longer stopped for the host will run when it is placed again. -/
def Task.freed (t : Task) : Task := if t.was = .hostStop then { t with was := .run, fault := none } else t

/-- A part stopped for the host goes on, or will once it is placed again (R332). -/
def hostGo (s : State) (k : Nat) : State :=
  let t := s.taskOf k
  if t.stat = .hostStop then resumeStreams s k 0 fun _ => none else s.setTask k t.freed

/-- FQCMD as written; a TOKEN that names no task stopped for the host is refused with ERR. -/
def fqcmd (f op token : Nat) (s : State) (act : State → State) : Out :=
  let x := s.funOf f
  let s1 := s.setFun f { x with fqcmd := BitVec.ofNat 64 (op + 2^32 * (token % 2^32)) }
  if !s.mmio f then .next s
  else if (hostStopped s1 f token).isEmpty && (hostAway s1 f token).isEmpty then
    .next (s1.setFun f { s1.funOf f with fqctl := x.fqctl ||| 0x40 })
  else .next (act s1).wake

/-- FQCMD_RESUME (R332, R362). -/
def execFqcmdResume (f token : Nat) (s : State) : Out :=
  fqcmd f 1 token s fun s =>
    let s1 := (hostStopped s f token).foldl hostGo s
    s1.setCtl { s1.ctl with saves := s1.ctl.saves.map fun x => if x.task.token = token then { x with task := x.task.freed } else x }

/-- FQCMD_TERMINATE (R333, R362): the task ends with no further entry. -/
def execFqcmdTerminate (f token : Nat) (s : State) : Out :=
  fqcmd f 2 token s fun s => endGang s token
    ((((hostStopped s f token).map (s.taskOf ·)) ++ (hostAway s f token).map (·.task)).head?.bind (·.fault) |>.getD {}) 2 false

/-- FQHEAD_WRITE: the host has consumed entries. -/
def execFqheadWrite (f : Nat) (v : BitVec 16) (s : State) : Out :=
  if s.mmio f then .next (s.setFun f { s.funOf f with fqhead := v }).wake else .next s

/-! ### Correctable errors (R43) -/

/-- The contexts with a task on a core. -/
def ctxsOn (s : State) (c : Nat) : List Nat := ((s.tasksOn c []).map (·.2.ctx)).eraseDups

/-- Freeze a core for 24 cycles, from an error in a freeze on for 24 more; a trace may note it (R351). -/
def freeze (s : State) (c : Nat) : State :=
  let x := s.coreOf c
  let s1 := s.setCore c { x with
    frz := some (s.now + 24), frz0 := if x.frz.isSome then x.frz0 else s.now, cEcc := x.cEcc + 1 }
  (ctxsOn s c).foldl (fun s ctx => traceEvent s ctx 4 c 0 none s.now) s1

def execEccCorrectableFreeze (c : Nat) (s : State) : Out := if c < 160 then .next (freeze s c) else .next s

/-- Whether the streams and engines of a task on a core move. -/
def TStat.goes : TStat → Bool
  | .run | .handler | .stopping => true
  | _ => false

/-- A cycle that stands `d` cycles later; 0 stands for none. -/
def laterBy (d n : Nat) : Nat := if n = 0 then 0 else n + d

/-- Every due cycle and running wait of a core moves by `d` cycles: its pipelines and engines stopped together. A gated task's
stand still as it is. -/
def delayCore (s : State) (c d : Nat) : State :=
  let goes (slot : Nat) : Bool := (s.taskOf (4 * c + slot)).stat.goes
  let f (st : Stream) : Stream := { st with
    nextIss := st.nextIss + d, land := st.land.map fun l => { l with due := l.due + d }
    arr := st.arr.map fun a => if a.load && !a.own then a else { a with due := a.due + d }
    mq := st.mq.map fun a => if a.place.onCore c then { a with due := a.due + d } else a
    b := st.b.map fun e => (e.1, match e.2.st with
      | .due n => { e.2 with st := .due (n + d) }
      | _ => e.2)
    wait := st.wait.map fun w => { w with since := w.since + d } }
  let s1 := (List.range 8).foldl (fun s n => s.setStrm (8 * c + n) (let st := s.strmOf (8 * c + n)
    if st.run = .absent || (st.mode != .firmware && !goes st.slot) then st else f st)) s
  s1.setOps (s1.ops.map fun o => if o.core != c || !goes o.slot then o
    else { o with due := laterBy d o.due, rdue := laterBy d o.rdue, wait := o.wait.map (· + d)
                  at0 := if o.eng == .vec && o.ph != .queued then o.at0 + d else o.at0 })

/-- What a core's units were still to see when it stopped `d` cycles ago, of counts and of its barriers, they see `d` cycles later. -/
def delayCounts (s : State) (c d : Nat) : State :=
  let c0 := s.now - d
  s.setObj { s.obj with
    cnts := s.obj.cnts.map fun e => if e.1 / 1024 != c then e else (e.1, { e.2 with
      wc := if e.2.wu != 0 && c0 < e.2.wc + 2 then e.2.wc + d else e.2.wc
      lc := if e.2.lu != 0 && c0 < e.2.lc + 2 then e.2.lc + d else e.2.lc })
    bars := s.obj.bars.map fun e => if e.1 / 64 != c then e else (e.1, { e.2 with
      rel := if e.2.rel != 0 && c0 < e.2.rel + 3 then e.2.rel + d else e.2.rel }) }

/-- ECC_FREEZE_END (R43): the core resumes in the state in which it stopped. -/
def execEccFreezeEnd (c : Nat) (s : State) : Out :=
  let x := s.coreOf c
  match x.frz with
  | none => .next s
  | some d =>
    let s1 := s.upTo d
    .next (delayCounts (delayCore (s1.setCore c { x with frz := none }) c (s1.now - x.frz0)) c (s1.now - x.frz0)).wake

/-! ### Uncorrectable errors (R334, R336) -/

/-- Eight-byte words of an object of a store. -/
def storeWords : ErrStore → Nat
  | .obj .t => 64
  | .obj .o => 1024
  | .obj .a => 2048
  | .obj .f => 512
  | .side => 384
  | .spill => 512
  | .shadow false => 1024
  | .shadow true => 512
  | .sideShadow => 384
  | _ => 1

/-- The store's number in a machine check and in the poison list; a shadow's is 8 more than its front's. -/
def storeCode : ErrStore → Nat
  | .obj sp => sp.code.toNat
  | .side => 4
  | .spill => 5
  | .count => 6
  | .cache => 7
  | .shadow false => 9
  | .shadow true => 11
  | .sideShadow => 12

/-- Whether a task, by what it is known on a core, holds an object of a key in place. -/
def holdsKey (x : Nat × Task) (c k : Nat) : Bool := !bitN x.2.out.toNat (2 + k / 256 % 4) && hasKey x.2.win c x.1 k

/-- The task on a core that an object's, barrier's or allocation map's state belongs to: an index below 1,024
names a count record (`256 * space + object`), below 1,088 a barrier, and from there a slot's allocation map. -/
def stateOwner (s : State) (c idx : Nat) : Option Task :=
  ((s.tasksOn c []).find? fun x =>
    if idx < 1024 then holdsKey x c (1024 * c + idx)
    else if idx < 1088 then !bitN x.2.out.toNat 7 && hasBar x.2.win c (64 * c + idx - 1024)
    else x.1 == idx - 1088).map (·.2)

/-- The task that holds a word: an object in its windows, or spill memory of its stream. -/
def wordOwner (s : State) (c code obj : Nat) : Option Task :=
  ((s.tasksOn c []).find? fun x =>
    if code = 5 then x.2.held.contains obj
    else holdsKey x c (1024 * c + 256 * poisonSpc code + obj)).map (·.2)

/-- The context of a task, 0xFF of none. -/
def ctxIn (t : Option Task) : Nat := (t.map (·.ctx)).getD 0xFF

/-- ONCHIP_UNCORRECTABLE_ERROR (R334): of a store of words, `idx` is the object's number times its words, plus the word. -/
def execOnchipUncorrectableError (c : Nat) (st : ErrStore) (idx : Nat) (s : State) : Out :=
  if 160 ≤ c then .next s
  else
    let code := storeCode st
    match st with
    | .count =>
      let own := stateOwner s c idx
      let s1 := chipCheck s c code idx (ctxIn own)
      .next (match own with
        | some t => endGang (traceEvent s1 t.ctx 1 c 0 none s1.now) t.token (bareFault s 0x10) 2 true
        | none => s1).wake
    | .cache =>
      let x := s.coreOf c
      .next (freeze ((chipCheck s c code idx 0xFF).setCore c { x with tlb := x.tlb.eraseIdx idx, recs := x.recs.eraseIdx idx }) c)
    | _ =>
      let obj := idx / storeWords st
      let s1 := chipCheck s c code obj (ctxIn (wordOwner s c code obj))
      .next (s1.setObj { s1.obj with poison := (c, code, obj, idx % storeWords st) :: s1.obj.poison })

/-! ### Memory errors and background work (R335, R376) -/

/-- Cycles of one scrub cycle: 24 h at 2.7 GHz. -/
def scrubCycle : Nat := 24 * 3600 * 2700000000

/-- The bank of a location as it is counted: 128 * die + bank (R224, R336). -/
def bankOf (k : Nat) : Nat := let l := (Config.hbmLoc k).toNat; 128 * bits l 7 4 + bits l 11 7

/-- PATROL_SCRUB: a correctable error is corrected in place and counted for its bank; any other poisons its sector. -/
def execPatrolScrub (stack : Nat) (loc : Loc) (corr : Bool) (s : State) : Out :=
  let x := s.stackOf stack
  let k := memKey loc
  let n := s.now / scrubCycle
  let old := if x.scyc = n then x.corr else []
  let x1 := { x with cScr := x.cScr + 1, scyc := n, corr := old }
  match loc.home with
  | .dev o =>
    if 8 ≤ stack || s.partSize o ≤ loc.addr then .next s
    else if corr then .next (s.setStack stack { x1 with corr := mput 0 old (bankOf k) (mget 0 old (bankOf k) + 1) })
    else
      let s1 := s.setStack stack x1
      .next (hbmCheck { s1 with mpois := if s1.mpois.contains (k / 32) then s1.mpois else (k / 32) :: s1.mpois } 0xFF k)
  | _ => .next s

/-- BANK_SPARE: 64 correctable errors of a bank in one scrub cycle replace its failing rows. -/
def execBankSpare (stack die bank : Nat) (s : State) : Out :=
  let x := s.stackOf stack
  let b := 128 * die + bank
  if 8 ≤ stack || mget 0 x.corr b < 64 then .next s
  else .next (machineCheck (s.setStack stack { x with corr := mput 0 x.corr b 0, spare := mput 0 x.spare b (mget 0 x.spare b + 1) })
    7 (stack / 2) 0 0xFF (BitVec.ofNat 64 (2^7 * die + 2^11 * bank + 2^32 * stack)) 0)

/-- REFRESH: a per-bank refresh; it is counted (R350) and seen in timing only. -/
def execRefresh (stack _bank : Nat) (s : State) : Out :=
  if 8 ≤ stack then .next s else .next (s.setStack stack { s.stackOf stack with cRef := (s.stackOf stack).cRef + 1 })

end Sys2Proof.Machine
end

