-- ==== Sys2Proof/Machine/Debug.lean ====
section
/-!
DEFINITION. Debug stops, breakpoints and trace (R347, R348, R351), the time series (R350), and core dumps (R352 to R354).
-/
namespace Sys2Proof.Machine

/-- Whether a function may write a context's block (R357). -/
def State.ownsCtx (s : State) (f ctx : Nat) : Bool := ctx < 64 && s.mmio f && s.ownerC ctx == f

/-- A write to a context's block; one by a function that does not own the context is discarded. -/
def ctxWrite (f ctx : Nat) (s : State) (act : Ctx → State → State) : Out :=
  if s.ownsCtx f ctx then .next (act (s.ctxOf ctx) s).wake else .next s

/-! ### Stops (R348) -/

/-- Request a stop. -/
def requestStop (force : Bool) (ctx : Nat) (c : Ctx) (s : State) : State :=
  s.setCtx ctx { c with dbgStop := true, force := c.force || force }

def execDbgctlStop (f ctx : Nat) (s : State) : Out :=
  ctxWrite f ctx s fun c s => if bitN c.dbgctl.toNat 0 then requestStop false ctx c s else s

def execDbgctlForce (f ctx : Nat) (s : State) : Out :=
  ctxWrite f ctx s fun c s => if bitN c.dbgctl.toNat 0 then requestStop true ctx c s else s

/-- The task keys of a context. -/
def ctxTasks (s : State) (ctx : Nat) : List Nat :=
  (s.task.filter fun e => e.2.ctx == ctx && e.2.stat != .empty && e.2.stat != .saved).map (·.1)

/-- Everything stopped for debug goes on as after an ERET without SKIP; stopped cycles do not count in waits (R348). -/
def Stream.go (st : Stream) (now : Nat) : Stream :=
  if !st.dstop then st
  else { st with dstop := false, nextIss := max st.nextIss (now + 1)
                 wait := st.wait.map fun w => { w with since := w.since + (now - st.stopC) } }

/-- GO of a context (R348). -/
def debugGo (ctx : Nat) (c : Ctx) (s : State) : State :=
  let s1 := s.setCtx ctx { c with dbgStop := false, force := false, dbgctl := c.dbgctl &&& ~~~0x10 }
  (ctxTasks s1 ctx).foldl (fun s k =>
    let s2 := onStreams s k (·.go s.now)
    if bitN c.dbgctl.toNat 4 && (s.taskOf k).stat == .run then resumeOps s2 k c.stopC else s2) s1

/-- Salend lets a core that it stopped go on (R325): its streams, but those that a stop of their context holds. -/
def coreGo (c : Nat) (s : State) : State :=
  let d := if s.coreHeld c then s.now - ((List.range 8).map fun n => (s.strmOf (8 * c + n)).stopC).foldl max 0 else 0
  let held (k : Nat) : Bool := (s.ctxOf (s.taskAt k).ctx).dbgStop
  let s1 := (List.range 8).foldl (fun s n =>
    let k := 8 * c + n
    if held k then s else s.setStrm k ((s.strmOf k).go s.now)) (s.setCore c { s.coreOf c with hold := false })
  s1.setOps (s1.ops.map fun o => if o.core = c then { o with wait := o.wait.map (· + d) } else o)

def execDbgctlGo (f ctx : Nat) (s : State) : Out := ctxWrite f ctx s (debugGo ctx)

/-- Whether a task has stopped for debug: each stream that runs stands at its stop (R348), and no fault is being handled
(R328). -/
def taskStopped (s : State) (k : Nat) : Bool :=
  match (s.taskOf k).stat with
  | .stopping | .stopped | .handler => false
  | .run => (streamKeys (s.taskOf k) k).all fun sk => (s.strmOf sk).dstop || (s.strmOf sk).run != .run
  | _ => true

/-- DEBUG_STOPPED (R348): every stream has stopped; the engines stop and STOPPED becomes 1. -/
def execDebugStopped (ctx : Nat) (s : State) : Out :=
  let c := s.ctxOf ctx
  if !c.dbgStop || bitN c.dbgctl.toNat 4 || !(ctxTasks s ctx).all (taskStopped s) then .next s
  else
    let s1 := ((ctxTasks s ctx).filter fun k => (s.taskOf k).stat == .run).foldl (fun s k => endStep (commitStarted s k) k) s
    let s2 := s1.setCtx ctx { s1.ctxOf ctx with dbgctl := c.dbgctl ||| 0x10, stopC := s.now }
    .next (traceEvent s2 ctx 2 0xFF 0 none s.now).wake

/-- BREAKPOINT_HIT (R348): a stream stops before it issues an armed safe point, and a stop is requested. -/
def execBreakpointHit (c n : Nat) (s : State) : Out :=
  let k := 8 * c + n
  if !s.canIssue k then .next s
  else
    let s1 := select s k
    let st := s1.strmOf k
    if st.mode = .task && !st.bphit && spOf (wordHere s1) && bpAt s1 s1.myCtx st.pc.toNat then .next (debugStop s1 true) else .next s

/-- A write of TTRIG (R351): code 0xFF holds in the cycle of the write, with the events of that cycle. -/
def setTtrig (v : BitVec 64) (ctx : Nat) (c : Ctx) (s : State) : State :=
  let n := v.toNat
  let x := c.inCycle s.now
  let stop := bits n 8 8 == 0xFF
  let start := !stop && bits n 0 8 == 0xFF
  let run := !x.evStop && !stop && (start || bitN c.ttrig.toNat 16)
  let wr := stop || start
  (if wr then x.evs else []).foldl (fun s r => traceWrite s ctx r) (s.setCtx ctx { x with
    ttrig := BitVec.ofNat 64 (bits n 0 16 + 2^16 * run.toNat + 2^32 * bits n 32 32), evStop := x.evStop || stop
    evs := if wr then [] else x.evs })

/-- TTRIG_WRITE. -/
def execTtrigWrite (f ctx : Nat) (v : BitVec 64) (s : State) : Out := ctxWrite f ctx s (setTtrig v ctx)

/-- Whether a wait of a running task passes 1,024 cycles between two cycles. -/
def passes (s : State) (tk a b since : Nat) : Bool :=
  let t := s.taskOf tk
  a ≤ since + 1024 && since + 1024 < b && (t.stat == .run || t.stat == .handler)

/-- Time has passed from a cycle to another: the counted waits that passed 1,024 cycles in it are events of their contexts (R351). -/
def passWaits (s0 s1 : State) : State :=
  if s1.now ≤ s0.now then s1
  else
    let s2 := s0.strm.foldl (fun s e => match e.2.wait with
      | some x => if x.cnt && passes s0 (s0.tkey e.1) s0.now s1.now x.since then
          traceEvent s (s0.taskAt e.1).ctx 5 (e.1 / 8) e.2.tnum (safePoint s0 (s0.taskAt e.1).ctx e.2.pc.toNat) (x.since + 1024) else s
      | none => s) s1
    s0.ops.foldl (fun s o => match o.wait with
      | some x => if passes s0 o.tk s0.now s1.now x then
          traceEvent s o.ctx 5 o.core o.tnum (safePoint s0 o.ctx o.pc.toNat) (x + 1024) else s
      | none => s) s2

/-! ### The time series (R350) -/

/-- K of the time series, if it is on. -/
def tickK (s : State) : Option Nat :=
  let t := s.dev.pf0.tsctl.toNat
  let k := bits t 1 5
  if bitN t 0 && 14 ≤ k && k ≤ 30 then some k else none

/-- The cycle of the next tick. -/
def nextTick (s : State) (k : Nat) : Nat := (s.now / 2^k + 1) * 2^k

/-- Lay out 8-byte counters in 64 bytes. -/
def counters (l : List Nat) : Nat := pack 64 (l ++ List.replicate (8 - l.length) 0)

/-- The bytes of an access that lie in a stack, sector by sector (R315; DESIGN CHOICE, assumption 19). -/
def stackBytes (k : Nat) (a : Nat × Nat × Nat) : Nat :=
  ((List.range ((a.1 + a.2.1 + 31) / 32 - a.1 / 32)).map (a.1 / 32 + ·)).foldl (fun n p =>
    if bits (Config.hbmLoc (32 * p)).toNat 32 3 = k then n + (min (32 * p + 32) (a.1 + a.2.1) - max (32 * p) a.1) else n) 0

/-- A stack's counters with accesses counted (R350): their bytes, and the row activations that they take. -/
def grownStack (l : List (Nat × Nat × Nat)) (k : Nat) (x : Stack) : Stack :=
  let sum (p : Nat → Bool) : Nat := ((l.filter fun a => p a.2.2).map (stackBytes k)).foldl (· + ·) 0
  { x with cAct := x.cAct + Config.activations (l.filter (·.2.2 != 2)) k, cAttn := x.cAttn + Config.activations (l.filter (·.2.2 == 2)) k
           cRd := x.cRd + sum (· != 1), cWr := x.cWr + sum (· == 1) }

/-- The counters of every stack at a tick. -/
def growStacks (s : State) : State :=
  (List.range 8).foldl (fun t k => t.setStack k (grownStack s.dev.hbm k (s.stackOf k))) { s with dev := { s.dev with hbm := [] } }

/-- The record of a tick: header, cores, stacks, ports. -/
def tickRecord (s : State) : Nat :=
  let core (c : Nat) : Nat :=
    let x := s.coreOf c
    counters ([1, 2, 3, 4].map (mget 0 x.busy) ++ [x.cIss, x.cWait, x.cEcc])
  let stack (k : Nat) : Nat :=
    let x := s.stackOf k
    counters [x.cAct, x.cAttn, x.cRef, x.cScr, x.cRd, x.cWr]
  let port (k : Nat) : Nat :=
    let x := s.portOf k
    counters [x.cSent, x.cRecv, x.cRetr, if x.up then x.lanes else 0]
  (s.dev.pf0.tick + 1) % 2^64 + 2^64 * (s.now % 2^64) + 2^256 * pack 512
    ((List.range 160).map core ++ (List.range 8).map stack ++ (List.range 18).map port)

/-- Write a record to a ring of host memory. -/
def hostRing (m : List Host.Cell) (base size pos n v : Nat) : List Host.Cell :=
  let a := min n (size - pos)
  writeN (writeN m (memKey ⟨.host, base + pos⟩) a v) (memKey ⟨.host, base⟩) (n - a) (v / 2^(8 * a))

/-- TELEMETRY_TICK (R350): every counter latches and one record is written; a tick that finds the last record not yet
written is dropped and counted. -/
def execTelemetryTick (s : State) : Out :=
  match tickK s with
  | none => .next s
  | some k =>
    let s1 := growStacks (s.upTo (nextTick s k))
    let p := s1.dev.pf0
    if s1.now < p.tsbusy then
      let lost := bits p.tsctl.toNat 32 32 + 1
      .next (s1.setPf0 { p with tick := p.tick + 1, tsctl := BitVec.ofNat 64 (setBits p.tsctl.toNat 32 32 lost) })
    else
      let size := 65536 * bits p.tsbuf.toNat 0 12
      let m := if size = 0 then s1.mem else hostRing s1.mem (p.tsbuf.toNat / 2^16 * 2^16) size p.tspos 11936 (tickRecord s1)
      .next ({ s1.setMem m with free := s1.free + 1 }.setPf0
        { p with tick := p.tick + 1, tsbusy := s1.now + Config.tsTime s1.free
                 tspos := if size = 0 then 0 else (p.tspos + 11936) % size })

/-! ### Core dumps (R352 to R354) -/

/-- DUMPCTL_GO (R352): the context stops as under FORCE, and a dump is due. -/
def execDumpctlGo (f ctx : Nat) (s : State) : Out :=
  ctxWrite f ctx s fun c s => requestStop true ctx { c with dumpsts := 1, dumpC := s.now } s

/-- The bytes of a placed task's save area, as it would be saved now (R338): what it has on its core, over what its pool cell has of
the rest. -/
def wholeArea (s : State) (tk : Nat) : Nat :=
  let t := s.taskOf tk
  ((cellBytes s t (tk / 4) (tk % 4)) ++ areaWrites s t (tk / 4) (tk % 4) 0 (allParts - (allParts &&& t.out.toNat)) 2
    (presentOf allParts)).foldl (fun v x => setBits v (8 * x.1) (8 * x.2.1) x.2.2) 0

/-- Where the sections of a dump by KIND 2 to 8 lie in a save area, with their bytes (R338, R353). -/
def dumpCuts (t : Task) : List (Nat × Nat) :=
  let a := areaOf t.win t.phys.length
  let n (sp : Spc) : Nat := winN t.win sp
  [(0, 16384), (a.cnt, 32 * (n .t + n .o + n .a + n .f)), (a.trs, 512 * n .t), (a.bnk, 16384 * n .a), (a.frm, 8192 * n .f),
    (a.slt, 22528 * n .o), (a.spl, 4096 * t.phys.length)]

/-- The sections of a task's dump, by KIND 1 to 8: bytes and value (R353). -/
def dumpParts (s : State) (tk : Nat) : List (Nat × Nat) :=
  let t := s.taskOf tk
  let v := wholeArea s tk
  (4096, frameImage s tk t.report) :: (dumpCuts t).map fun x => (x.2, bits v (8 * x.1) (8 * x.2))

/-- The sections of a dump in their order, with descriptors. -/
def dumpSections (s : State) (tks : List Nat) : List (Nat × Nat) :=
  let per := tks.map (dumpParts s)
  (List.range 8).flatMap fun k => (List.zip (List.range per.length) per).map fun x =>
    let (n, v) := x.2.getD k (0, 0)
    (16 + n, k + 1 + 2^16 * x.1 + 2^64 * n + 2^128 * v)

/-- The offset at which the poisoned words of a task stand in one of its sections of KIND `k + 1` (R334). -/
def dumpPois (s : State) (tk k : Nat) : List Nat :=
  let t := s.taskOf tk
  match k, (dumpCuts t)[k - 1]? with
  | 0, _ | _, none => []
  | _, some c => ((poisonOf s t (tk / 4) (tk % 4) allParts).map (poisAt (areaOf t.win t.phys.length))).filterMap fun p =>
    if c.1 ≤ p && p < c.1 + c.2 then some (p - c.1) else none

/-- The offsets in a dump at which copies of poisoned words stand, of the sections from one on, by kind and task. -/
def poisFrom (s : State) (tks : List Nat) : Nat → Nat → List (Nat × Nat) → List Nat
  | _, _, [] => []
  | i, pos, x :: r =>
    (dumpPois s (tks.getD (i % tks.length) 0) (i / tks.length)).map (pos + 16 + ·) ++ poisFrom s tks (i + 1) (pos + x.1) r

/-- Mark the copies of poisoned words below a length of a dump (R334). -/
def markDump (s : State) (ctx base w : Nat) (l : List Nat) : State :=
  let m := l.filterMap fun p => if p < w then
      (match peek s ctx (base + p) with
        | .ok (x, _) => some (memKey x / 32)
        | .error _ => none)
    else none
  { s with mpois := s.mpois ++ (m.eraseDups.filter fun p => !s.mpois.contains p) }

/-- What writing sections comes to: the bytes written, RESULT and CAUSE. -/
def dumpWrites (ctx base size : Nat) : List (Nat × Nat) → Nat → State → Nat × Nat × Nat × State
  | [], pos, s => (pos, 1, 0, s)
  | (n, v) :: r, pos, s =>
    if size < pos + n then (pos, 2, 0, s)
    else match vwrite s ctx false (n / 65536 + 2) (base + pos) n v with
      | (_, none, s1) => dumpWrites ctx base size r (pos + n) s1
      | (w, some c, s1) => (pos + w, 3, if c = 0 then 0x0B else 0x0A, s1)

/-- The dump header (R353). -/
def dumpHeader (status needed written ctx ntask cyc : Nat) (fi : Word) : Nat :=
  0x504D5544 + 2^32 + 2^48 * status + 2^64 * needed + 2^128 * written + 2^192 * ctx + 2^200 * ntask
    + 2^256 * (cyc % 2^64) + 2^320 * fi.toNat

/-- Write a dump of tasks and set DUMPSTS (R354). -/
def dump (s : State) (ctx : Nat) (tks : List Nat) (cyc : Nat) (fi : Word) : State :=
  let c := s.ctxOf ctx
  let base := c.dumpbuf.toNat / 2^16 * 2^16
  let size := 65536 * bits c.dumpbuf.toNat 0 12
  let secs := dumpSections s tks
  let needed := secs.foldl (fun n x => n + x.1) 64
  let hdr (st w : Nat) : Nat := dumpHeader st needed w ctx tks.length cyc fi
  let (w, res, cause, s0) := dumpWrites ctx base size ((64, hdr 0 0) :: secs) 0 s
  let s1 := markDump s0 ctx base w (poisFrom s tks 0 64 secs)
  let s2 := match vwrite s1 ctx false 2 base 64 (hdr res w) with
    | (_, none, t) => if size < 64 then s1 else t
    | _ => s1
  s2.setCtx ctx { s2.ctxOf ctx with dumpsts := BitVec.ofNat 64 (2 * res + 2^8 * cause + 2^16 * w) }

/-- DUMP_WRITE (R352 to R354): of the tasks that ended under AUTO, whose storage is then released; or, once the context
has stopped, of all its tasks. -/
def execDumpWrite (ctx : Nat) (s : State) : Out :=
  let c := s.ctxOf ctx
  let tks := ctxTasks s ctx
  match tks.filter fun k => (s.taskOf k).stat == .ended with
  | k :: ks =>
    let s1 := dump s ctx (k :: ks) s.now (((s.taskOf k).kept.getD {}).finfo)
    .next ((k :: ks).foldl clearSlot s1).wake
  | [] => if bitN c.dumpsts.toNat 0 && bitN c.dbgctl.toNat 4 then .next (dump s ctx tks c.dumpC 0).wake else .next s

end Sys2Proof.Machine
end

