-- ==== Sys2Proof/Machine/Secure.lean ====
section
/-!
DEFINITION. The security controller: scrubs and the end of a partition's work (R314, R322), TDISP interfaces (R319 to
R321), tenant keys (R317), debug unlock and measurements (R323, R324), and resets (R356, R377).
-/
namespace Sys2Proof.Machine

/-! ### Ending work and scrubbing -/

/-- End every placed or saved task of some contexts (R319, R322, R324). -/
def endContexts (s : State) (report : Bool) (l : List Nat) : State :=
  l.foldl (fun s c => (ctxTokens s c).foldl (fun s t => endGang s t { fcyc := s.now } 2 report) s) s

/-- The control complexes and stacks forget what they hold of some contexts: nodes, releases, launches, instances,
triggers and launched commands. -/
def dropWork (s : State) (l : List Nat) : State :=
  let c := s.ctl
  let on (x : Nat) : Bool := !l.contains x
  let kept := c.lnch.filter fun x => on x.ctx
  let s1 := s.setCtl { c with held := c.held.filter fun x => on x.ctx, rels := c.rels.filter fun x => on x.ctx, lnch := kept
                              pendI := c.pendI.filter fun x => kept.any (·.lid == x.lid)
                              saves := c.saves.filter fun x => on x.task.ctx }
  (List.range 8).foldl (fun s k =>
    let x := s.stackOf k
    s.setStack k { x with queue := x.queue.filter fun q => on q.ctx
                          now := x.now.bind fun q => if on q.ctx then some q else none })
    (s1.setOps (s1.ops.filter fun o => o.core < 160 || on o.ctx))

/-- Clear a partition's tenant keys (R317): those of its function, and the checkpoint keys of its contexts. -/
def clearKeys (s : State) (f : Nat) : State :=
  (s.ctxsOf f).foldl (fun s c => s.setCtx c { s.ctxOf c with ckey := none })
    (s.setFun f { s.funOf f with ide := [], ideGo := [], balIn := none, balOut := none })

/-- Zero an owner's device memory; its check bits match, so no poison stays. -/
def wipeMem (s : State) (o : Nat) : State :=
  { s with mem := s.mem.filter fun e => e.1 / 2^64 != o % 8, mpois := s.mpois.filter fun p => p / 2^59 != o % 8
           dirty := s.dirty.filter fun b => b / 2^48 != o % 8 }

/-- Scrub the cores and stacks of a quarter (R314); SCRUB shows it until it ends. -/
def scrubQuarter (s : State) (q : Nat) : State :=
  let mine (core : Nat) : Bool := quarterOf core == q
  let obj (k : Nat) : Bool := mine (k / 1024)
  let o := s.obj
  let s1 := s.setObj { cnts := mdrop o.cnts obj, tregs := mdrop o.tregs obj, slotF := mdrop o.slotF obj
                       slotS := mdrop o.slotS obj, sideF := mdrop o.sideF obj, sideS := mdrop o.sideS obj
                       banks := mdrop o.banks obj, frmF := mdrop o.frmF obj, frmS := mdrop o.frmS obj
                       fills := mdrop o.fills obj, bars := mdrop o.bars fun k => mine (k / 64)
                       poison := o.poison.filter fun p => !mine p.1 }
  let s2 := { s1 with ctl := { s1.ctl with saves := s1.ctl.saves.filter fun x => !mine x.core }
                      strm := mdrop s1.strm fun k => mine (k / 8), task := mdrop s1.task fun k => mine (k / 4)
                      ops := s1.ops.filter fun x => !mine x.core, clus := mdrop s1.clus fun k => mine (8 * k)
                      core := s1.core.map fun (e : Nat × Core) => if mine e.1 then (e.1, { e.2 with tlb := [], recs := [] }) else e }
  let s3 := [2 * q, 2 * q + 1].foldl (fun s k =>
    s.setStack k { s.stackOf k with trig := [], queue := [], now := none }) s2
  s3.setPf0 { s3.dev.pf0 with scrub := s3.dev.pf0.scrub ||| (1 <<< q) }

/-- An owner's hot words are written back and leave the ports (R368): memory holds every write already. -/
def dropHot (s : State) (o : Nat) : State :=
  { s with dev := { s.dev with ports := s.dev.ports.map fun e =>
      (e.1, { e.2 with hot := e.2.hot.filter fun h => h / 2^64 != o % 8 }) } }

/-- Scrub every quarter of a partition. -/
def scrubPartition (s : State) (o : Nat) : State :=
  (s.quarters o).foldl scrubQuarter (wipeMem (dropHot s o) o)

/-- SCRUB_COMPLETE (R314). -/
def execScrubComplete (q : Nat) (s : State) : Out :=
  if 4 ≤ q then .next s
  else .next (s.setPf0 { s.dev.pf0 with scrub := s.dev.pf0.scrub &&& ~~~((1 : BitVec 4) <<< q) }).wake

/-! ### TDISP (R319 to R322) -/

/-- Whether an access goes out of the device: a PCIe or Balua request. -/
def Acc.goesOut (a : Acc) : Bool :=
  match a.place with
  | .mem ⟨.host, _⟩ | .mem ⟨.peer _, _⟩ => true
  | _ => false

/-- The requests of a partition that are still to go out are dropped, and so are the responses to those that have (R322). -/
def dropRequests (s : State) (f : Nat) : State :=
  let mine (k : Nat) : Bool := (s.strmOf k).mode != .firmware && s.ownerC (s.taskAt k).ctx == f
  let mineF (y : Sent) : Bool := y.req && y.fl.ten.toNat == f
  { s with strm := s.strm.map fun (e : Nat × Stream) =>
             if mine e.1 then (e.1, { e.2 with mq := e.2.mq.filter fun a => !a.goesOut, arr := e.2.arr.filter fun a => !a.load }) else e
           dev := { s.dev with ports := s.dev.ports.map fun e =>
             (e.1, { e.2 with unack := e.2.unack.filter (!mineF ·), redo := e.2.redo.filter (!mineF ·), out := e.2.out.filter (!mineF ·) }) } }

/-- An interface goes to ERROR (R322): its requests stop, its tasks end, and its tenant keys are cleared. -/
def toError (s : State) (f : Nat) : State :=
  let l := s.ctxsOf f
  let s1 := clearKeys (dropWork (endContexts (dropRequests s f) false l) l) f
  s1.setFun f { s1.funOf f with tdisp := .error, fqpend := [], epoch := none, replay := none }

/-- Whether an interface is locked or runs, so that a write to an item of it that is frozen is an error (R319, R320). -/
def State.locks (s : State) (f : Nat) : Bool := (s.funOf f).tdisp == .locked || (s.funOf f).tdisp == .run

/-- Whether a function's frozen items are frozen: from its lock on until it stops, ERROR included (R319, R320). -/
def State.frozen (s : State) (f : Nat) : Bool := s.locks f || (s.funOf f).tdisp == .error

/-- A write to an item that a function's lock freezes, or else `act` (R320, R322): in ERROR it is discarded. -/
def freezeOr (f : Nat) (s : State) (act : State → Out) : Out :=
  if s.locks f then .next (toError s f).wake else if s.frozen f then .next s else act s

/-- FROZEN_ITEM_WRITE (R322). -/
def execFrozenItemWrite (f : Nat) (s : State) : Out := freezeOr f s .next

/-- Whether a task of a partition is placed or its work is queued (R319). -/
def State.hasWork (s : State) (f : Nat) : Bool :=
  let on (c : Nat) : Bool := s.ownerC c == f
  s.task.any (fun e => e.2.stat != .empty && on e.2.ctx) || s.ctl.held.any (fun x => on x.ctx) || s.ctl.rels.any (fun x => on x.ctx)
    || s.ctl.lnch.any (fun x => on x.ctx) || s.ctl.saves.any (fun x => on x.task.ctx)
    || (List.range 64).any fun q => s.sqWaits q && s.sqFun q == f

/-- A TDISP request to a virtual function; one that its state does not allow is refused. -/
def request (f : Nat) (ok : Bool) (s : State) (act : Func → State → State) : Out :=
  if 1 ≤ f && f ≤ 4 && ok then .next (act (s.funOf f) s).wake else .next (s.answer .refused)

def execLockInterfaceRequest (f : Nat) (s : State) : Out :=
  request f ((s.funOf f).tdisp == .unlocked && !(s.quarters f).isEmpty && !s.hasWork f && s.dev.sec.life != .debugUnlocked) s
    fun x s =>
      let n := Config.nonce s.free
      { (s.setFun f { x with tdisp := .locked, nonce := n }).answer (.nonce n) with free := s.free + 1 }

/-- Bytes of a number, little-endian. -/
def bytesOf (n v : Nat) : List Byte := (unpack 8 n v).map (BitVec.ofNat 8)

/-- The device-specific report of a lock (R321). -/
def tdispReport (s : State) (f : Nat) : List Byte :=
  let x := s.funOf f
  let set (l : List Nat) : Nat := l.foldl (fun n i => n + 2^i) 0
  bytesOf 80 (set (s.quarters f) + 2^64 * set (s.ctxsOf f) + 2^128 * (Config.fwVersion 0).toNat + 2^192 * (Config.fwVersion 1).toNat
    + 2^256 * (Config.fwVersion 2).toNat + 2^320 * x.cktgt.toNat + 2^384 * x.nonce.toNat)

def execGetDeviceInterfaceReport (f : Nat) (s : State) : Out :=
  request f ((s.funOf f).tdisp == .locked) s fun _ s => s.answer (.report (tdispReport s f))

def execStartInterfaceRequest (f : Nat) (nonce : BitVec 256) (s : State) : Out :=
  request f ((s.funOf f).tdisp == .locked && (s.funOf f).nonce == nonce) s fun x s =>
    (s.setFun f { x with tdisp := .run }).answer .ok

/-- Stop an interface: its tasks end and are reported, its keys go with the scrub, and the freeze is lifted (R314, R317,
R319). -/
def stopInterface (s : State) (f : Nat) : State :=
  let l := s.ctxsOf f
  let s1 := scrubPartition (clearKeys (dropWork (endContexts s true l) l) f) f
  s1.setFun f { s1.funOf f with tdisp := .unlocked, epoch := none, replay := none }

def execStopInterfaceRequest (f : Nat) (s : State) : Out :=
  request f ((s.funOf f).tdisp == .run || (s.funOf f).tdisp == .error) s fun _ s => (stopInterface s f).answer .ok

/-- VF_FLR (R356): as STOP_INTERFACE_REQUEST, in every state. -/
def execVfFlr (f : Nat) (s : State) : Out := if 1 ≤ f && f ≤ 4 then .next (stopInterface s f).wake else .next s

/-- PF0_FLR (R356): such a reset of every function, and then a scrub of every quarter. -/
def execPf0Flr (s : State) : Out :=
  .next ([0, 1, 2, 3].foldl scrubQuarter (wipeMem ([0, 1, 2, 3, 4].foldl stopInterface s) 7)).wake

/-! ### Keys (R317) -/

/-- A key request over the SPDM session; one that names nothing is refused. -/
def keyReq (ok : Bool) (s : State) (act : State → State) : Out := .next (if ok then (act s).answer .ok else s.answer .refused)

def execKeyProg (f set : Nat) (key : BitVec 256) (s : State) : Out :=
  keyReq (f < 5 && set < 2) s fun s => s.setFun f { s.funOf f with ide := mset (s.funOf f).ide set key }

def execKSetGo (f set : Nat) (s : State) : Out :=
  keyReq (f < 5 && (s.funOf f).ide.any (·.1 == set)) s fun s =>
    s.setFun f { s.funOf f with ideGo := mput false (s.funOf f).ideGo set true }

def execKSetStop (f set : Nat) (s : State) : Out :=
  keyReq (f < 5 && set < 2) s fun s =>
    s.setFun f { s.funOf f with ide := mdel (s.funOf f).ide set, ideGo := mput false (s.funOf f).ideGo set false }

def execKeyset (f : Nat) (k : KeyUse) (key : BitVec 256) (s : State) : Out :=
  match k with
  | .balua true => keyReq (f < 5) s fun s => s.setFun f { s.funOf f with balOut := some key }
  | .balua false => keyReq (f < 5) s fun s => s.setFun f { s.funOf f with balIn := some key }
  | .ckpt ctx => keyReq (f < 5 && ctx < 64 && s.ownerC ctx == f) s fun s => s.setCtx ctx { s.ctxOf ctx with ckey := some key }

/-! ### Debug unlock and measurements (R323, R324) -/

/-- A lifecycle code (R323). -/
def lifeCode : Life → Nat
  | .manufacture => 0
  | .provisioned => 1
  | .deployed => 2
  | .debugUnlocked => 3
  | .retired => 4

def execGetDebugNonce (s : State) : Out :=
  let n := Config.nonce s.free
  .next ({ s with free := s.free + 1 }.setSec { s.dev.sec with nonce := some n } |>.answer (.nonce n))

/-- Bytes `o` to `o + n - 1` of a token as a number. -/
def tokFld (tok : List Byte) (o n : Nat) : Nat := pack 8 (((tok.drop o).take n).map (·.toNat))

/-- The status of a token: 1 where every test passes (R324 steps 1 and 2). NONCE is tested before LCS, since the worked unlock of
14_isolation.md gives 5 to a token submitted again in another state (DEDUCED, assumption 66). -/
def tokenStatus (s : State) (tok : List Byte) : Nat :=
  let c := s.dev.sec
  let level := tokFld tok 6 1
  if tok.length != 160 || tokFld tok 0 4 != 0x55474244 || tokFld tok 4 2 != 1 || level = 0 || 3 < level || tokFld tok 20 12 != 0 then 2
  else if tokFld tok 8 12 != c.devid.toNat then 3
  else if c.nonce != some (BitVec.ofNat 256 (tokFld tok 32 32)) then 5
  else if c.life = .retired || tokFld tok 7 1 != lifeCode c.life then 4
  else if !Config.sigOk tok then 6
  else if c.nodbg then 7
  else 1

/-- DEBUG_UNLOCK (R324). -/
def execDebugUnlock (tok : List Byte) (s : State) : Out :=
  let st := tokenStatus s tok
  if st != 1 then .next ((s.setSec { s.dev.sec with nonce := none }).answer (.status st))
  else
    let s1 := [0, 1, 2, 3, 4].foldl (fun s f =>
      let s1 := if (s.funOf f).tdisp = .unlocked then
          let l := s.ctxsOf f
          dropWork (endContexts s true l) l
        else toError s f
      wipeMem (dropHot (clearKeys s1 f) f) f) s
    let s2 := [0, 1, 2, 3].foldl scrubQuarter (wipeMem s1 7)
    let m := Config.sha384 (bytesOf 48 s2.dev.sec.m7.toNat ++ bytesOf 48 (Config.sha384 (tok.take 64)).toNat)
    .next ((s2.setSec { s2.dev.sec with life := .debugUnlocked, nonce := none, salend := tokFld tok 6 1, m7 := m }).answer
      (.status 1)).wake

/-- GET_MEASUREMENTS (R324): indices 0 to 7. -/
def execGetMeasurements (s : State) : Out :=
  .next (s.answer (.report ((List.range 8).flatMap fun i =>
    bytesOf 48 (if i = 7 then s.dev.sec.m7 else Config.measurement i).toNat)))

/-! ### Reset and bring-up (R324, R377) -/

/-- PERST_DEASSERT (R375, R377): every part of the device is as at reset but the fuses; host and peer memory stand, and
bring-up begins (DEDUCED, assumption 46). -/
def execPerstDeassert (s : State) : Out :=
  let c := s.dev.sec
  let r := State.reset
  .next { r with
    mem := s.mem.filter fun e => 8 * 2^64 ≤ e.1, fresh := s.fresh, free := s.free, sched := s.sched
    dev := { r.dev with sec := { r.dev.sec with life := c.fuse, fuse := c.fuse, devid := c.devid, nodbg := c.nodbg }
                        pf0 := { r.dev.pf0 with boot := true } } }

/-- BRINGUP_COMPLETE (R377): READY, or FAILED where a verification has failed. -/
def execBringupComplete (ok : Bool) (s : State) : Out :=
  let p := s.dev.pf0
  if p.boot then .next (s.setPf0 { p with boot := false, ready := ok, failed := !ok }) else .next s

end Sys2Proof.Machine
end

