-- ==== Sys2Proof/Machine/Host.lean ====
section
/-!
DEFINITION. Host writes and reads of the registers of the functions (R101, R305, R313, R314, R337, R342, R357, R358, R360, R362, R367,
R377), BAR2 (R356), host invalidation (R309), and power and temperature (R373 to R375).
-/
namespace Sys2Proof.Machine

/-! ### Partitions (R313, R314, R357) -/

/-- Whether a task is placed on a quarter. -/
def State.quarterBusy (s : State) (q : Nat) : Bool := s.task.any fun e => quarterOf (e.1 / 4) == q && e.2.stat != .empty

/-- Whether an owner's interface allows a change of what it owns: physical function 0, unassigned, or CONFIG_UNLOCKED. -/
def State.mayChange (s : State) (o : Nat) : Bool := o == 0 || 5 ≤ o || (s.funOf o).tdisp == .unlocked

/-- A context loses its binding, and with it its checkpoint key (R314, R317). -/
def unbind (s : State) (c : Nat) : State := s.setCtx c { s.ctxOf c with bind := 7, ckey := none }

/-- An owner's set of quarters has changed: bytes that were listed may have moved between its stacks, so they hold free
values; an owner without quarters keeps nothing, and its contexts lose their binding (DESIGN CHOICE, assumption 15). The unassigned
quarters stand as an owner here, of code 7, whose memory Salend reaches. -/
def remap (s : State) (o : Nat) : State :=
  if (s.quarters o).isEmpty then (if o < 5 then s.ctxsOf o else []).foldl unbind (wipeMem s o)
  else
    let l := s.mem.filter fun e => e.1 / 2^64 == o
    let m := (List.zip (List.range l.length) l).foldl (fun m e => writeB m e.2.1 (Config.movedByte (s.free + e.1))) s.mem
    { s with mem := m, free := s.free + l.length }

/-- One owner field of a PARTMAP write. -/
def partField (v : Nat) (s : State) (q : Nat) : State :=
  let old := s.ownerQ q
  let new := bits v (4 * q) 3
  if new = old then s
  else if s.locks old then
    let s1 := toError s old
    s1.setPf0 { s1.dev.pf0 with pmerr := true }
  else if new = 5 || new = 6 || s.quarterBusy q || !s.mayChange old || !s.mayChange new then
    s.setPf0 { s.dev.pf0 with pmerr := true }
  else
    let keys (s : State) (o : Nat) : State := if o < 5 then clearKeys s o else s
    let s1 := keys (keys (dropHot s old) old) new
    let s2 := s1.setPf0 { s1.dev.pf0 with partmap := BitVec.ofNat 32 (setBits s1.dev.pf0.partmap.toNat (4 * q) 3 new) }
    scrubQuarter (remap (remap s2 old) new) q

/-- PARTMAP_WRITE (R313, R314). -/
def execPartmapWrite (v : BitVec 32) (s : State) : Out :=
  if !s.mmio 0 then .next s
  else .next ([0, 1, 2, 3].foldl (partField v.toNat) (s.setPf0 { s.dev.pf0 with pmerr := false })).wake

/-- QMAP_WRITE (R357): each field under the conditions of R313, with the queues of its group disabled. -/
def execQmapWrite (v : BitVec 64) (s : State) : Out :=
  if !s.mmio 0 then .next s
  else .next ((List.range 16).foldl (fun s g =>
    let p := s.dev.pf0
    let old := bits p.qmap.toNat (4 * g) 4
    let new := bits v.toNat (4 * g) 4
    if new = old then s
    else if (4 < new && new != 7) || (List.range 4).any (fun i => (s.sqOf (4 * g + i)).en) || !s.mayChange old || !s.mayChange new then
      s.setPf0 { p with pmerr := true }
    else s.setPf0 { p with qmap := BitVec.ofNat 64 (setBits p.qmap.toNat (4 * g) 4 new) })
    (s.setPf0 { s.dev.pf0 with pmerr := false })).wake

/-- CTXBIND_WRITE (R305, R320, R341): it also ends LOST. -/
def execCtxbindWrite (ctx : Nat) (v : BitVec 64) (s : State) : Out :=
  if 64 ≤ ctx || !s.mmio 0 then .next s
  else freezeOr (s.ownerC ctx) s fun s =>
    let c := s.ctxOf ctx
    let o := v.toNat % 8
    if o = 5 || o = 6 then .next s
    else .next (s.setCtx ctx { c with bind := BitVec.ofNat 64 o, lost := false
                                      ckey := if o = s.ownerC ctx then c.ckey else none }).wake

/-! ### Context registers (R101, R305, R309, R337) -/

/-- Remove translation-cache entries everywhere. -/
def tlbDropAll (s : State) (p : Tlb → Bool) : State :=
  { s with core := s.core.map fun (e : Nat × Core) => (e.1, { e.2 with tlb := e.2.tlb.filter fun x => !p x })
           clus := s.clus.map fun (e : Nat × List Tlb) => (e.1, e.2.filter fun x => !p x) }

/-- CTXROOT_WRITE (R305). -/
def execCtxrootWrite (f ctx : Nat) (v : BitVec 64) (s : State) : Out :=
  if !s.ownsCtx f ctx then .next s
  else freezeOr f s fun s =>
    .next (tlbDropAll (s.setCtx ctx { s.ctxOf ctx with root := v &&& 0x000FFFFFFFFFE001 }) fun e => e.ctx == ctx).wake

/-- HOST_INVALIDATION (R309): of one address of a context, or of all of it. -/
def execHostInvalidation (ctx : Nat) (va : Option (BitVec 64)) (s : State) : Out :=
  .next (tlbDropAll s fun e => match va with
    | some a => e.hits ctx a.toNat
    | none => e.ctx == ctx).wake

/-- Whether a page of a pool is a leaf in device memory with R, W and PIN (R337). -/
def poolPage (s : State) (ctx va : Nat) : Bool :=
  match peek s ctx va with
  | .ok (_, e) => pteTgt e == 0 && pteR e && pteW e && ptePin e
  | .error _ => false

/-- SAVEPOOL_WRITE (R337): every page of the pool is walked. -/
def execSavepoolWrite (f ctx : Nat) (v : BitVec 64) (s : State) : Out :=
  ctxWrite f ctx s fun c s =>
    let stride := bits v.toNat 0 8
    let base := v.toNat / 2^16 * 2^16
    let pages := 4 * (40 * (s.quarters f).length) * stride * 16
    if stride != 0 && (List.range pages).all fun i => poolPage s ctx (base + 65536 * i) then
      s.setCtx ctx { c with pool := BitVec.ofNat 64 (base + 2^8 + stride) }
    else s.setCtx ctx { c with pool := (c.pool &&& ~~~0x100) ||| 0x200 }

/-- CONTEXT_EVB_WRITE (R101). -/
def execContextEvbWrite (f ctx : Nat) (v : BitVec 64) (s : State) : Out :=
  ctxWrite f ctx s fun c s => if bits v.toNat 0 12 = 0 then s.setCtx ctx { c with evb := v } else s

/-! ### Queues (R358, R360) -/

/-- Whether a function may write a queue's registers. -/
def State.ownsSq (s : State) (f q : Nat) : Bool := q < 64 && s.mmio f && s.sqFun q == f

/-- The queue with ERR set. -/
def Sq.refuse (x : Sq) : Sq := { x with ctl := x.ctl ||| 0x8000 }

/-- SQCTL_WRITE (R358): while EN is 1 only EN changes; setting EN makes HEAD := TAIL. -/
def execSqctlWrite (f q : Nat) (v : BitVec 64) (s : State) : Out :=
  let x := s.sqOf q
  if !s.ownsSq f q then .next s
  else if x.en then .next (s.setSq q { x with ctl := (x.ctl &&& ~~~1) ||| (v &&& 1) }).wake
  else if s.ownerC (bits v.toNat 9 6) != f then .next (s.setSq q x.refuse)
  else .next (s.setSq q { x with ctl := (v &&& 0x7FFF) ||| (x.ctl &&& 0x8000), head := if bitN v.toNat 0 then x.tail else x.head }).wake

/-- DBELL (R358, R360): earlier BAR2 writes are performed by now. -/
def execDbell (f q : Nat) (v : BitVec 32) (s : State) : Out :=
  let x := s.sqOf q
  let t := v.toNat % 2^16
  if !s.ownsSq f q || !s.served f then .next s
  else if 2^x.lsz ≤ t then .next (s.setSq q x.refuse)
  else .next (s.setSq q { x with tail := BitVec.ofNat 16 t }).wake

/-! ### Checkpoint target (R342, R343) -/

/-- CKTGT_WRITE: setting EN makes epoch 0 due. -/
def execCktgtWrite (f : Nat) (v : BitVec 64) (s : State) : Out :=
  if !s.mmio f then .next s
  else freezeOr f s fun s =>
    let x := s.funOf f
    let on := bitN v.toNat 0 && !bitN x.cktgt.toNat 0
    .next (s.setFun f (if on then
        { x with cktgt := v, nextEp := 0, lastEp := s.now, ckEnd := 0, epoch := none, ckpts := [], olog := [], oseq := [] }
      else { x with cktgt := v })).wake

/-! ### Registers without behaviour of their own (R357) -/

/-- A buffer register: SIZE and BASE (R349). -/
def bufReg (v : BitVec 64) : BitVec 64 := v &&& ~~~0xF000

/-- A write to physical function 0's block: by any other function it is discarded. -/
def pf0Write (f : Nat) (s : State) (act : Pf0 → Pf0) : Out :=
  if f = 0 && s.mmio 0 then .next (s.setPf0 (act s.dev.pf0)).wake else .next s

/-- A context's debug and dump registers as written (R347, R349, R352). -/
def setDebugReg (r : HostReg) (v : BitVec 64) (c : Ctx) : Ctx :=
  match r with
  | .bp _ i => if i < 16 then { c with bp := mput 0 c.bp i (v &&& 0x8000FFFFFFFFFFFF) } else c
  | .dbgctl _ => { c with dbgctl := (v &&& 1) ||| (c.dbgctl &&& 0x30) }
  | .trbuf _ => { c with trbuf := bufReg v, trpos := 0, dbgctl := c.dbgctl &&& ~~~0x20 }
  | .sampctl _ => { c with sampctl := v &&& 0x3F }
  | .dumpctl _ => { c with dumpctl := v &&& 2 }
  | .dumpbuf _ => { c with dumpbuf := bufReg v }
  | _ => c

/-- Whether a code object may be registered with a context (R86, R347): a number of 16 bits, and safe points in its text in
address order, each with its live map. A malformed one, or one whose text meets another object's, is discarded, and one with the
number of a registered object replaces it (DESIGN CHOICE, assumption 67). -/
def codeObjOk (c : Ctx) (o : CodeObj) : Bool :=
  o.num < 65536 && o.lo < o.hi && o.sps.all (fun a => o.lo ≤ a && a < o.hi) && o.live.length == o.sps.length
    && (List.zip o.sps (o.sps.drop 1)).all (fun x => x.1 < x.2)
    && c.objs.all fun y => y.num == o.num || y.hi ≤ o.lo || o.hi ≤ y.lo

/-- Whether the buffer of the order log is PIN, in every context that the function's checkpoints cover (R342). -/
def cklogOk (s : State) (f : Nat) (v : BitVec 64) : Bool :=
  let n := bits v.toNat 0 8
  n != 0 && (covered s f).all fun c =>
    (List.range (16 * n)).all fun i => poolPage s c (v.toNat / 2^16 * 2^16 + 65536 * i)

/-- A BAR register's new value: a size of BAR2 is a power of two from 1 to 512 GiB (R356). -/
def barValue (old : BitVec 64) (i : Nat) (v : BitVec 64) : BitVec 64 :=
  if i = 2 && !((List.range 10).any fun k => v.toNat == 2^(30 + k)) then old else v

/-- REGISTER_WRITE (R342, R347, R349, R352, R356 to R358, R362, R369, R377), but for BAR0 by offset. -/
def regWrite (f : Nat) (r : HostReg) (v : BitVec 64) (s : State) : Out :=
  let x := s.funOf f
  let fn (y : Func) : Out := if s.mmio f then .next (s.setFun f y).wake else .next s
  match r with
  | .sqbase q =>
    if !s.ownsSq f q then .next s
    else freezeOr f s fun s =>
      if (s.sqOf q).en then .next s else .next (s.setSq q { s.sqOf q with base := v &&& ~~~0x3F }).wake
  | .fqbase => fn { x with fqbase := v &&& ~~~0xFFF }
  | .fqctl => fn { x with fqctl := (v &&& 0x1F) ||| (x.fqctl &&& 0x60) }
  | .ydl ctx => ctxWrite f ctx s fun c s => if 2700 ≤ v.toNat && v.toNat ≤ 2700000 then s.setCtx ctx { c with ydl := v } else s
  | .grptab ctx => ctxWrite f ctx s fun c s => s.setCtx ctx { c with grptab := v }
  | .bp ctx _ | .dbgctl ctx | .trbuf ctx | .sampctl ctx | .dumpctl ctx | .dumpbuf ctx =>
    ctxWrite f ctx s fun c s => s.setCtx ctx (setDebugReg r v c)
  | .codeObj ctx o => ctxWrite f ctx s fun c s =>
    if codeObjOk c o then s.setCtx ctx { c with objs := c.objs.filter (fun y => y.num != o.num) ++ [o] } else s
  | .cklog => fn (if cklogOk s f v then { x with cklog := (v &&& 0xFFFFFFFFFFFF00FF) ||| 0x100 }
      else { x with cklog := (x.cklog &&& ~~~0x100) ||| 0x200 })
  | .mcring => pf0Write f s fun p => { p with mcring := v &&& 0xFFFFFFFFFFFFF01F }
  | .tsctl => pf0Write f s fun p => { p with tsctl := (v &&& 0x3F) ||| (p.tsctl &&& 0xFFFFFFFF00000000) }
  | .tsbuf => pf0Write f s fun p => { p with tsbuf := bufReg v, tspos := 0 }
  | .domain => pf0Write f s fun p => { p with domain := v &&& 0x000003FF03FF03FF }
  | .msix i =>
    if !s.mmio f || 128 ≤ i then .next s
    else freezeOr f s fun s =>
      let old := mget 0 (s.funOf f).msix (i / 2)
      let new := BitVec.ofNat 128 (setBits old.toNat (64 * (i % 2)) 64 v.toNat)
      .next (s.setFun f { s.funOf f with msix := mput 0 (s.funOf f).msix (i / 2) new })
  | .bar i =>
    if 5 ≤ f || 3 ≤ i then .next s
    else if !s.dev.pf0.ready then .next (s.answer .retry)
    else freezeOr f s fun s =>
      let b := (s.funOf f).bar
      .next (s.setFun f { s.funOf f with bar := mput 0 b i (barValue (mget 0 b i) i v) })
  | .at _ | .load _ | .pmcsr | .window _ _ => .next s

/-! ### BAR2 (R315, R356, R374) -/

/-- All ones in a size. -/
def onesOf (size : Nat) : BitVec 64 := BitVec.ofNat 64 (2^(8 * size) - 1)

/-- The size of a function's BAR2 (R356): the least one until another is set (DESIGN CHOICE, assumption 2). -/
def barSize (x : Func) : Nat := let n := (mget 0 x.bar 2).toNat; if n = 0 then 2^30 else n

/-- BAR2_ACCESS: offset x reaches partition-relative address x of the function's own quarters. -/
def execBar2Access (f : Nat) (op : HostOp) (off size : Nat) (v : BitVec 64) (s : State) : Out :=
  let l : Loc := ⟨.dev f, off⟩
  let open' := s.mmio f && 1 ≤ size && size ≤ 8 && off + size ≤ min (barSize (s.funOf f)) (s.partSize f) && !s.asleep l
    && (s.quarters f).all fun q => !bitN s.dev.pf0.scrub.toNat q
  let key := memKey l
  if op = .write && s.ckHold key then .next s
  else match op with
  | .atomic => .next (s.answer .unsupported)
  | .read => .next ((if open' then s.forward key size 0 else s).answer (.data (if open' then BitVec.ofNat 64 (readN s.mem (memKey l) size) else onesOf size)))
  | .write =>
    if open' && !s.partPoison key size then .next (((s.forward key size 1).store key size v.toNat).answer .ok).wake
    else .next (s.answer .ok)

/-! ### Power and temperature (R373 to R375) -/

/-- Set or clear the read-only bits BUSY and PERR. -/
def pwrBits (p : Pf0) (busy perr : Bool) : BitVec 64 :=
  BitVec.ofNat 64 (setBits (setBits p.pwrctl.toNat 32 1 busy.toNat) 33 1 perr.toNat)

/-- Whether a transition is in progress. -/
def State.pwrBusy (s : State) : Bool := s.dev.pf0.newPP.isSome || s.dev.stks.any (·.2.srefX)

/-- PWRCTL with BUSY as it stands. -/
def pwrSettle (s : State) (perr : Bool) : State := s.setPf0 { s.dev.pf0 with pwrctl := pwrBits s.dev.pf0 s.pwrBusy perr }

/-- The PP field of a write (R374), and whether it is refused: the streams pause at issue boundaries and the engines at stop
points. -/
def setPp (v : BitVec 3) (s : State) : State × Bool :=
  let p := s.dev.pf0
  if v.toNat = bits p.pwrctl.toNat 0 3 && p.newPP.isNone then (s, false)
  else if p.newPP.isSome then (s, p.newPP != some v)
  else (s.setPf0 { p with newPP := some v, ppAt := s.now }, false)

/-- PWRCTL_PP. -/
def execPwrctlPp (v : BitVec 3) (s : State) : Out :=
  let r := setPp v s
  if s.mmio 0 then .next (pwrSettle r.1 r.2).wake else .next s

/-- PP_TRANSITION_COMPLETE (R374): no state is lost, and paused cycles do not count in waits. -/
def execPpTransitionComplete (s : State) : Out :=
  let p := s.dev.pf0
  match p.newPP with
  | none => .next s
  | some v =>
    let d := s.now - p.ppAt
    let s1 := s.setPf0 { p with newPP := none, pwrctl := BitVec.ofNat 64 (setBits p.pwrctl.toNat 0 3 v.toNat) }
    .next (pwrSettle ((List.range 160).foldl (fun s c => delayCore s c d) s1) (bitN p.pwrctl.toNat 33)).wake

/-- The QGATE field of a write (R373), bit by bit, and whether a bit is refused: it needs no task placed on the quarter and no
scrub in progress. -/
def setQgate (v : BitVec 4) (s : State) : State × Bool :=
  let one (x : State × Bool) (q : Nat) : State × Bool :=
    let (s, e) := x
    let p := s.dev.pf0
    if bitN p.pwrctl.toNat (8 + q) = bitN v.toNat q then (s, e)
    else if s.quarterBusy q || bitN p.scrub.toNat q then (s, true)
    else (s.setPf0 { p with pwrctl := BitVec.ofNat 64 (setBits p.pwrctl.toNat (8 + q) 1 (bits v.toNat q 1)) }, e)
  [0, 1, 2, 3].foldl one (s, false)

/-- PWRCTL_QGATE. -/
def execPwrctlQgate (v : BitVec 4) (s : State) : Out :=
  let r := setQgate v s
  if s.mmio 0 then .next (pwrSettle r.1 r.2).wake else .next s

/-- The SREF field of a write (R373, R374), bit by bit, and whether a bit is refused: it needs the stack's quarter gated; a stack
whose bit is cleared serves again once it has come back. -/
def setSref (v : BitVec 8) (s : State) : State × Bool :=
  let one (x : State × Bool) (k : Nat) : State × Bool :=
    let (s, e) := x
    let p := s.dev.pf0
    let st := s.stackOf k
    let on := bitN v.toNat k
    if bitN p.pwrctl.toNat (16 + k) = on then (s, e)
    else if !bitN p.pwrctl.toNat (8 + k / 2) then (s, true)
    else ((s.setPf0 { p with pwrctl := BitVec.ofNat 64 (setBits p.pwrctl.toNat (16 + k) 1 on.toNat) }).setStack k
      { st with sref := on, srefX := !on }, e)
  (List.range 8).foldl one (s, false)

/-- PWRCTL_SREF. -/
def execPwrctlSref (v : BitVec 8) (s : State) : Out :=
  let r := setSref v s
  if s.mmio 0 then .next (pwrSettle r.1 r.2).wake else .next s

/-- A write of the whole of PWRCTL (R373): field by field, and PERR where one was refused. -/
def setPwrctl (v : BitVec 64) (s : State) : State :=
  let a := setPp (BitVec.ofNat 3 v.toNat) s
  let b := setQgate (BitVec.ofNat 4 (bits v.toNat 8 4)) a.1
  let c := setSref (BitVec.ofNat 8 (bits v.toNat 16 8)) b.1
  pwrSettle c.1 (a.2 || b.2 || c.2)

/-- SREF_EXIT_COMPLETE (R374). -/
def execSrefExitComplete (stack : Nat) (s : State) : Out :=
  let x := s.stackOf stack
  if !x.srefX then .next s
  else .next (pwrSettle (s.setStack stack { x with srefX := false }) (bitN s.dev.pf0.pwrctl.toNat 33)).wake

/-- PMCSR_D3HOT (R373): PMCSR stays D0, and PERR is set, unless every QGATE and SREF bit is set. -/
def execPmcsrD3hot (s : State) : Out :=
  let w := s.dev.pf0.pwrctl.toNat
  if !s.dev.pf0.ready then .next (s.answer .retry)
  else if bits w 8 4 = 15 && bits w 16 8 = 255 then .next (pwrSettle (s.setPf0 { s.dev.pf0 with d3hot := true }) false)
  else .next (pwrSettle s true)

/-- A write of D0 to PMCSR (R373). -/
def pmcsrD0 (s : State) : State := s.setPf0 { s.dev.pf0 with d3hot := false }

/-- SMAX and JMAX as TEMP gives them. -/
def tempReg (p : Pf0) : Nat := p.jmax.toNat + 2^16 * p.smax.toNat + 2^32 * p.jtrip.toNat

/-- JUNCTION_TRIP (R375): the temperatures are reported, the stacks' a free value (assumption 44); where JMAX reaches TRIP every
clock stops and a machine check is written. -/
def execJunctionTrip (jmax : BitVec 16) (s : State) : Out :=
  let s1 := { s.setPf0 { s.dev.pf0 with jmax := jmax, smax := Config.stackTemp s.free } with free := s.free + 1 }
  if s.dev.pf0.jtrip ≤ jmax then
    .next (machineCheck (s1.setPf0 { s1.dev.pf0 with trip := true }) 6 0xFF 2 0xFF 0 0)
  else .next s1

/-! ### BAR0 by offset (R357) -/

/-- One write after another. -/
def after (o : Out) (k : State → Out) : Out :=
  match o with
  | .next s => k s
  | x => x

/-- A write in a queue's register set: SQHEAD is read only. -/
def sqWrite (f q r : Nat) (v : BitVec 64) (s : State) : Out :=
  if r = 0 then regWrite f (.sqbase q) v s else if r = 8 then execSqctlWrite f q v s else .next s

/-- A write in the fault-queue registers: FQTAIL is read only. -/
def fqWrite (f r : Nat) (v : BitVec 64) (s : State) : Out :=
  let op := v.toNat % 2^8
  let token := v.toNat / 2^32
  if r = 0 then regWrite f .fqbase v s
  else if r = 8 then regWrite f .fqctl v s
  else if r = 16 then execFqheadWrite f (v.setWidth 16) s
  else if r = 32 then
    (if op = 1 then execFqcmdResume f token s else if op = 2 then execFqcmdTerminate f token s else .next s)
  else .next s

/-- A write of DBGCTL: EN, and then what its other bits ask for. -/
def dbgctlWrite (f ctx : Nat) (v : BitVec 64) (s : State) : Out :=
  let bit (i : Nat) (act : State → Out) (s : State) : Out := if bitN v.toNat i then act s else .next s
  after (after (after (regWrite f (.dbgctl ctx) v s) (bit 1 (execDbgctlStop f ctx))) (bit 2 (execDbgctlForce f ctx)))
    (bit 3 (execDbgctlGo f ctx))

/-- A write in a context's block. -/
def blkWrite (f ctx r : Nat) (v : BitVec 64) (s : State) : Out :=
  if r = 0x000 then execCtxrootWrite f ctx v s
  else if r = 0x008 then execSavepoolWrite f ctx v s
  else if r = 0x010 then regWrite f (.ydl ctx) v s
  else if r = 0x018 then regWrite f (.grptab ctx) v s
  else if r = 0x020 then dbgctlWrite f ctx v s
  else if r = 0x028 then execContextEvbWrite f ctx v s
  else if 0x040 ≤ r && r < 0x0C0 then regWrite f (.bp ctx ((r - 0x040) / 8)) v s
  else if r = 0x0C0 then regWrite f (.trbuf ctx) v s
  else if r = 0x0C8 then regWrite f (.sampctl ctx) v s
  else if r = 0x0D0 then execTtrigWrite f ctx v s
  else if r = 0x0D8 then after (regWrite f (.dumpctl ctx) v s) fun s => if bitN v.toNat 0 then execDumpctlGo f ctx s else .next s
  else if r = 0x0E0 then regWrite f (.dumpbuf ctx) v s
  else .next s

/-- A write in physical function 0's block: TEMP is read only. -/
def pf0BlkWrite (r : Nat) (v : BitVec 64) (s : State) : Out :=
  if r = 0 then execPartmapWrite (v.setWidth 32) s
  else if r = 8 then execQmapWrite v s
  else if 64 ≤ r && r < 64 + 512 then execCtxbindWrite ((r - 64) / 8) v s
  else if r = 0x240 then regWrite 0 .mcring v s
  else if r = 0x250 then regWrite 0 .tsctl v s
  else if r = 0x258 then regWrite 0 .tsbuf v s
  else if r = 0x260 then .next (setPwrctl v s).wake
  else if r = 0x270 then regWrite 0 .domain v s
  else .next s

/-- A write to BAR0 at an offset that is a multiple of 8: a register of its map; anything else is discarded. -/
def bar0Write (f off : Nat) (v : BitVec 64) (s : State) : Out :=
  if !s.mmio f || off % 8 != 0 then .next s
  else if 0x1000 ≤ off && off < 0x2000 then sqWrite f ((off - 0x1000) / 64) (off % 64) v s
  else if 0x10000 ≤ off && off < 0x50000 then
    (if off % 4096 = 0 then execDbell f ((off - 0x10000) / 4096) (v.setWidth 32) s else .next s)
  else if 0x50000 ≤ off && off < 0x51000 then fqWrite f (off - 0x50000) v s
  else if 0x60000 ≤ off && off < 0xA0000 then blkWrite f ((off - 0x60000) / 4096) (off % 4096) v s
  else if off = 0xA0000 then execCktgtWrite f v s
  else if off = 0xA0008 then regWrite f .cklog v s
  else if 0xE0000 ≤ off && off < 0xE0400 then regWrite f (.msix ((off - 0xE0000) / 8)) v s
  else if 0x100000 ≤ off && off < 0x200000 && f = 0 then pf0BlkWrite (off - 0x100000) v s
  else .next s

/-- What a register of a context's block reads as. -/
def blkRead (c : Ctx) (r : Nat) : BitVec 64 :=
  if r = 0x000 then c.root
  else if r = 0x008 then c.pool
  else if r = 0x010 then c.ydl
  else if r = 0x018 then c.grptab
  else if r = 0x020 then c.dbgctl
  else if r = 0x028 then c.evb
  else if 0x040 ≤ r && r < 0x0C0 then mget 0 c.bp ((r - 0x040) / 8)
  else if r = 0x0C0 then c.trbuf
  else if r = 0x0C8 then c.sampctl
  else if r = 0x0D0 then c.ttrig
  else if r = 0x0D8 then c.dumpctl
  else if r = 0x0E0 then c.dumpbuf
  else if r = 0x0E8 then c.dumpsts
  else 0

/-- What physical function 0's block reads as. -/
def pf0BlkRead (s : State) (r : Nat) : BitVec 64 :=
  let p := s.dev.pf0
  if r = 0 then BitVec.ofNat 64 (p.partmap.toNat % 2^16 + 2^16 * p.scrub.toNat + 2^20 * p.pmerr.toNat)
  else if r = 8 then p.qmap
  else if 64 ≤ r && r < 64 + 512 then (s.ctxOf ((r - 64) / 8)).bind
  else if r = 0x240 then p.mcring
  else if r = 0x250 then p.tsctl
  else if r = 0x258 then p.tsbuf
  else if r = 0x260 then p.pwrctl
  else if r = 0x268 then BitVec.ofNat 64 (tempReg p)
  else if r = 0x270 then p.domain
  else 0

/-- What BAR0 of a function reads as at an offset that is a multiple of 8: all ones in ERROR (R322); 0 where the block is not the
function's, and where the map has no register. -/
def bar0Read (f off : Nat) (s : State) : BitVec 64 :=
  let x := s.funOf f
  if !s.answers f then BitVec.allOnes 64
  else if off % 8 != 0 then 0
  else if off = 0 then BitVec.ofNat 64 (s.dev.pf0.ready.toNat + 2 * s.dev.pf0.failed.toNat + 4 * lifeCode s.dev.sec.life)
  else if 0x1000 ≤ off && off < 0x2000 then
    let q := s.sqOf ((off - 0x1000) / 64)
    if !s.ownsSq f ((off - 0x1000) / 64) then 0
    else if off % 64 = 0 then q.base else if off % 64 = 8 then q.ctl else if off % 64 = 16 then q.head.setWidth 64 else 0
  else if 0x10000 ≤ off && off < 0x50000 then
    (if off % 4096 = 0 && s.ownsSq f ((off - 0x10000) / 4096) then (s.sqOf ((off - 0x10000) / 4096)).tail.setWidth 64 else 0)
  else if off = 0x50000 then x.fqbase
  else if off = 0x50008 then x.fqctl
  else if off = 0x50010 then x.fqhead.setWidth 64
  else if off = 0x50018 then x.fqtail.setWidth 64
  else if off = 0x50020 then x.fqcmd
  else if 0x60000 ≤ off && off < 0xA0000 then
    let c := (off - 0x60000) / 4096
    if s.ownsCtx f c then blkRead (s.ctxOf c) (off % 4096) else 0
  else if off = 0xA0000 then x.cktgt
  else if off = 0xA0008 then x.cklog
  else if off = 0xA0010 then x.cklate
  else if 0xE0000 ≤ off && off < 0xE0400 then
    let i := (off - 0xE0000) / 8
    BitVec.ofNat 64 (bits (mget 0 x.msix (i / 2)).toNat (64 * (i % 2)) 64)
  else if off = 0xE1000 then x.pba
  else if 0x100000 ≤ off && f = 0 then pf0BlkRead s (off - 0x100000)
  else 0

/-- REGISTER_WRITE: a register by name, a write to BAR0 by offset, or a read of it (R322, R357), a configuration request before
READY completing with Retry Status (R377); and the debug window on a task of a
context that the function owns: its stop report, or the frame that is kept of its fault (R329, R348). -/
def execRegisterWrite (f : Nat) (r : HostReg) (v : BitVec 64) (s : State) : Out :=
  match r with
  | .at off => bar0Write f off v s
  | .load off => .next (s.answer (.data (bar0Read f off s)))
  | .pmcsr => if f != 0 then .next s else if v.toNat % 4 = 3 then execPmcsrD3hot s
    else if !s.dev.pf0.ready then .next (s.answer .retry) else .next (if v.toNat % 4 = 0 then pmcsrD0 s else s).wake
  | .window c k =>
    let t := s.taskOf (4 * c + k)
    if c < 160 && k < 4 && t.stat != .empty && s.ownsCtx f t.ctx then
      .next (s.answer (.report (bytesOf 4096 (frameImage s (4 * c + k) t.report))))
    else .next s
  | r => regWrite f r v s

end Sys2Proof.Machine
end

