-- ==== Sys2Proof/Machine/Ckpt.lean ====
section
/-!
DEFINITION. Checkpoint epochs and replay (R342 to R346). What sealing gives is free; a completed epoch also holds its plaintext,
from which replay restores.
-/
namespace Sys2Proof.Machine

/-- The valid leaves below a table: address, level, entry and the entry's key. -/
def leavesOf (s : State) (o : Nat) : Nat → Nat → Nat → List (Nat × Nat × Nat × Nat)
  | 0, _, _ => []
  | lvl + 1, tbl, va => (List.range 1024).flatMap fun i =>
    let k := memKey ⟨.dev o, tbl + 8 * i⟩
    let e := readN s.mem k 8
    let a := va + i * 2^(lvlBits lvl)
    if !pteV e || pteBad lvl e then []
    else if pteLeaf e then [(a, lvl, e, k)]
    else leavesOf s o lvl (ptePA e) a

/-- The leaves of a context. -/
def ctxLeaves (s : State) (ctx : Nat) : List (Nat × Nat × Nat × Nat) :=
  let r := (s.ctxOf ctx).root.toNat
  if bitN r 0 then leavesOf s (s.ownerC ctx) 4 (bits r 13 39 * 2^13) 0 else []

/-- The 64 KiB blocks of a leaf in device memory that an epoch copies, by address and memory key: all in epoch 0; later the
leaf's own where D is set, and the dirty ones inside a larger leaf (R343). -/
def leafBlocks (s : State) (o : Nat) (first : Bool) (l : Nat × Nat × Nat × Nat) : List (Nat × Nat) :=
  let (va, lvl, e, _) := l
  let k := memKey ⟨.dev o, ptePA e⟩
  let n := 2^(lvlBits lvl - 16)
  let at' (i : Nat) : Nat × Nat := (va + 65536 * i, k + 65536 * i)
  if pteTgt e != 0 then []
  else if first then (List.range n).map at'
  else if lvl = 0 then (if pteD e then [at' 0] else [])
  else (s.dirty.filter fun b => k / 65536 ≤ b && b < k / 65536 + n).map fun b => at' (b - k / 65536)

/-- Whether the open segment of the order log fills its buffer. -/
def logFull (x : Func) : Bool := bits x.cklog.toNat 0 8 != 0 && bits x.cklog.toNat 0 8 * 2^20 ≤ 16 * x.olog.length

/-- The cycle in which the next epoch is due: its period's, or that of the entry that filled the order log (R343). -/
def epochDue (_s : State) (x : Func) : Nat :=
  let t := x.lastEp + 2700000 * (bits x.cktgt.toNat 1 10 + 1)
  if x.nextEp = 0 then x.lastEp else if logFull x then min x.fullC t else t

/-- Whether an epoch may begin (R343): one without a key to send it under does not (R318). -/
def epochReady (x : Func) : Bool := bitN x.cktgt.toNat 0 && x.balOut.isSome && x.epoch.isNone && x.replay.isNone

/-! ### The on-chip state of the tasks (R343) -/

/-- Whether an epoch gates and saves tasks of a context: one without a registered pool has no cells (R337). -/
def State.snaps (s : State) (ctx : Nat) : Bool := bitN (s.ctxOf ctx).pool.toNat 8 && !(s.ctxOf ctx).lost

/-- Snapshot one gated task, in its slot or off it, to its pool cell: what is not in the cell yet is written, and stays on its core. -/
def snapshot (a : State × List Saved) (p : Nat × Nat × Task) : State × List Saved :=
  let (s, l) := a
  let (core, slot, t) := p
  if (s.ctxOf t.ctx).lost then (s, l)
  else
    let area := poolCell s t.ctx core slot
    let old := s.ctl.saves.find? fun x => x.core == core && x.task.token == t.token && !x.hnd
    let sv := match old with
      | some x => if x.off && !bitN t.out.toNat 4 then putBanks s (4 * core + slot) x else s
      | none => s
    let parts := allParts - (allParts &&& t.out.toNat)
    let w := areaWrites sv t core slot s.fresh parts 2 (presentOf allParts)
    if !writesOk s t.ctx area.toNat w then (saveFault s t.ctx core area, l)
    else
      let x := { keepParts sv t core slot s.fresh area parts false old with banks := [], bcnts := [], bpois := [] }
      let s2 := markArea (putArea s t.ctx area.toNat w) t area.toNat x.pois
      ({ s2 with fresh := s2.fresh + 1 }, l ++ [x])

/-- The tasks that an epoch has gated go on, with their yield requests. -/
def ungate (s0 : State) (s : State) (tk : Nat) : State :=
  let t := s0.taskOf tk
  if !t.stat.placed || !s0.snaps t.ctx then s
  else
    let s1 := resumePart s tk
    s1.setTask tk { s1.taskOf tk with yreq := t.yreq }

/-- The graph work of some contexts. -/
def ctlOf (s : State) (cov : List Nat) : Ctl :=
  let l := s.ctl.lnch.filter fun l => cov.contains l.ctx
  let has (i : Nat) : Bool := l.any fun x => x.lid == i
  let tokens := ((s.task.map (·.2)) ++ s.ctl.saves.map (·.task)).filter fun t => cov.contains t.ctx
  { held := s.ctl.held.filter fun x => cov.contains x.ctx, rels := s.ctl.rels.filter fun x => cov.contains x.ctx
    lnch := l, pendI := s.ctl.pendI.filter fun i => has i.lid
    grps := s.ctl.grps.filter fun g => tokens.any fun t => t.token == g.1 / 8 }

/-! ### The safe tier (R342, R344) -/

/-- Write to the region of the safe tier at an offset: the flits go through the ports in turn (R366). A partition without a Balua key
sends nothing (R318). -/
def ckPut (s : State) (f off n v : Nat) : State :=
  let g := (s.funOf f).cktgt.toNat
  let d := bits g 11 10
  let a := bits g 21 43 * 2^21 + off
  if (s.funOf f).balOut.isNone then s
  else spreadData (s.setMem (writeN s.mem (memKey ⟨.peer d, a⟩) n v)) (flitTo s d f 1 0 a) n v

/-- The fields of the header and of the trailer of an epoch (R344), in the order of the rule (DESIGN CHOICE, assumption 19). -/
def ckHeader (e : Epoch) : Nat :=
  0x4B504B43 + 2^32 * (e.num % 2^32) + 2^64 * (e.cyc % 2^64)
    + 2^128 * ((e.blocks.length + e.caught.length + e.done.length) + 2^64 * (16 * e.log.length))

/-- The nonce of a unit of an epoch: the epoch's number, and the unit's in it (R344). -/
def ckNonce (e : Epoch) (unit : Nat) : Nat := 2^64 * e.num + unit

/-- The bytes of a block's image as a number. -/
def Block.image (b : Block) : Nat := b.data.foldl (fun v x => v + 2^(8 * x.1) * x.2.toNat) 0

/-- What the safe tier receives for a block: its descriptor, its ciphertext, and, of a poisoned one, the bitmap of its sectors; the
bytes, and how many (R344). -/
def blockUnit (key : BitVec 256) (nonce : Nat) (b : Block) : Nat × Nat :=
  let bad := !b.poison.isEmpty
  let desc := b.ctx + 2^64 * (b.va % 2^64) + 2^128 * bad.toNat + 2^384 * (Config.gcmTag key nonce 65536 b.image).toNat
  let map := b.poison.foldl (fun v p => v + 2^p) 0
  (desc + 2^512 * (Config.gcmSeal key nonce 65536 b.image % 2^524288 + 2^524288 * map), if bad then 65856 else 65600)

/-- Copy a block to the safe tier. -/
def copyBlock (s : State) (f : Nat) (e : Epoch) (b : Block) : State :=
  let (v, n) := blockUnit ((s.ctxOf b.ctx).ckey.getD 0) (ckNonce e e.done.length) b
  let s1 := ckPut s f e.pos n v
  s1.setFun f { s1.funOf f with epoch := some { e with done := e.done ++ [b], pos := e.pos + n } }

/-- Write the log segment and the trailer: the epoch is complete. -/
def endEpoch (s : State) (f : Nat) (e : Epoch) : State :=
  let key := ((covered s f).head?.bind fun c => (s.ctxOf c).ckey).getD 0
  let n := 16 * e.log.length
  let v := pack 128 (e.log.reverse.map logBytes)
  let unit := e.done.length
  let desc := 2^384 * (Config.gcmTag key (ckNonce e unit) n v).toNat
  let s1 := ckPut s f e.pos (64 + n) (desc + 2^512 * (Config.gcmSeal key (ckNonce e unit) n v % 2^(8 * n)))
  let s2 := ckPut s1 f (e.pos + 64 + n) 64 (ckHeader e + 2^384 * (Config.gcmTag key (ckNonce e (unit + 1)) 48 (ckHeader e)).toNat)
  let x := s2.funOf f
  s2.setFun f { x with
    epoch := none, ckEnd := e.pos + 128 + n
    ckpts := { num := e.num, cyc := e.cyc, blocks := e.done, log := e.log, saves := e.saves, ctl := e.ctl } :: x.ckpts }

/-! ### Epochs (R343) -/

/-- CHECKPOINT_EPOCH_BEGIN: steps 1 to 4, and the header of the epoch. -/
def execCheckpointEpochBegin (f : Nat) (s : State) : Out :=
  let x := s.funOf f
  if 5 ≤ f || !epochReady x then .next s
  else
    let due := epochDue s x
    let s0 := s.upTo due
    let cov := covered s0 f
    let on := (s0.task.filter fun e => cov.contains e.2.ctx && s0.snaps e.2.ctx && (e.2.stat.placed || e.2.stat == .gated)).map (·.1)
    let sG := on.foldl quiesce (on.foldl gatePart s0)
    let away := (sG.ctl.saves.filter fun z =>
      cov.contains z.task.ctx && sG.snaps z.task.ctx && z.off && !z.hnd && z.task.out.toNat != allParts).map fun z => (z.core, z.slot, z.task)
    let (s1, sv) := (on.map (fun tk => (tk / 4, tk % 4, sG.taskOf tk)) ++ away).foldl snapshot (sG, [])
    let kept := s1.ctl.saves.filter fun z =>
      cov.contains z.task.ctx && !z.hnd && !(sv.any fun y => y.core == z.core && y.task.token == z.task.token)
    let lv := cov.flatMap fun c => (ctxLeaves s1 c).map fun l => (c, l)
    let blocks := lv.flatMap fun z => (leafBlocks s1 f (x.nextEp == 0) z.2).map fun b => (z.1, b.1, b.2)
    let marked := lv.filter fun z => pteD z.2.2.2.1 && pteTgt z.2.2.2.1 == 0
    let s2 := marked.foldl (fun s z =>
      let k := z.2.2.2.2
      s.setMem (writeN s.mem k 8 (setBits (readN s.mem k 8) 8 1 0))) s1
    let s3 := tlbDropAll s2 fun e => marked.any fun z => z.2.2.2.2 == e.ploc
    let s4 := on.foldl (ungate s0) { s3 with dirty := s3.dirty.filter fun b => b / 2^48 != f }
    let y := s4.funOf f
    let late : BitVec 64 := if s.now ≤ due || x.nextEp = 0 then y.cklate else y.cklate + 1
    let e : Epoch :=
      { num := x.nextEp, cyc := s0.now, blocks := blocks.eraseDups, pos := y.ckEnd + 64, log := y.olog, saves := sv ++ kept
        ctl := ctlOf s1 cov }
    .next (ckPut (s4.setFun f { y with epoch := some e, nextEp := x.nextEp + 1, lastEp := s0.now, olog := [], cklate := late })
      f y.ckEnd 64 (ckHeader e)).wake

/-- CHECKPOINT_EPOCH_COMPLETE: a listed block is copied to the safe tier, so that writes to it go on; after the last of them come
the log segment and the trailer. -/
def execCheckpointEpochComplete (f : Nat) (s : State) : Out :=
  match (s.funOf f).epoch with
  | none => .next s
  | some e => if (s.funOf f).balOut.isNone then .next s else .next (match e.caught, e.blocks with
    | b :: r, _ => copyBlock s f { e with caught := r } b
    | [], b :: r => copyBlock s f { e with blocks := r } (ckBlock s b)
    | [], [] => endEpoch s f e).wake

/-! ### Replay (R346) -/

/-- Put a block back, with its poison. -/
def putBlock (s : State) (b : Block) : State :=
  let m := s.mem.filter fun e => !(b.key ≤ e.1 && e.1 < b.key + 65536)
  { s with mem := b.data.foldl (fun m e => writeB m (b.key + e.1) e.2) m
           mpois := (s.mpois.filter fun p => !(b.key / 32 ≤ p && p < (b.key + 65536) / 32))
             ++ b.poison.map fun p => b.key / 32 + p }

/-- Put a saved task back on the core and in the slot that it records; a task whose slot another one records too, and one
that yielded cleanly, stay off their cores. -/
def putSaved (s : State) (x : Saved) : State :=
  let t := x.task
  let tk := 4 * x.core + x.slot
  if x.clean || (s.taskOf tk).stat != .empty then requeue (s.setCtl { s.ctl with saves := s.ctl.saves ++ [x] }) t.token (x.core, x.slot, t)
  else match readArea s t x.area.toNat (areaRanges t.win t.phys.length allParts) x.pois with
    | .error _ => saveFault s t.ctx x.core x.area
    | .ok b =>
      let s1 := (zeroParts s t.win x.core x.slot allParts true).setTask tk { t with stat := .gated, out := 0 }
      let s2 := loadParts s1 x b tk allParts
      if t.stat = .gated then resumePart s2 tk else s2.setTask tk { s2.taskOf tk with stat := t.stat }

/-- REPLAY (R346): memory and tasks stand as epoch `ep` left them, and the choices logged after it are forced. -/
def execReplay (f ep : Nat) (s : State) : Out :=
  let x := s.funOf f
  match x.ckpts.find? fun c => c.num == ep with
  | none => .next s
  | some c =>
    let olds := x.ckpts.reverse.filter fun z => z.num ≤ ep
    let later := x.ckpts.reverse.filter fun z => ep < z.num
    let cov := covered s f
    let s1 := (cov.flatMap (ctxTasks s)).foldl clearSlot s
    let o := s1.ctl
    let now := ctlOf s1 cov
    let s2 := s1.setCtl { o with
      saves := o.saves.filter fun z => !cov.contains z.task.ctx
      held := (o.held.filter fun z => !cov.contains z.ctx) ++ c.ctl.held
      rels := (o.rels.filter fun z => !cov.contains z.ctx) ++ c.ctl.rels
      lnch := (o.lnch.filter fun z => !cov.contains z.ctx) ++ c.ctl.lnch
      pendI := (o.pendI.filter fun i => !now.pendI.contains i) ++ c.ctl.pendI.filter fun i => i.token.isNone
      grps := c.ctl.grps.foldl (fun m g => mput {} m g.1 g.2) o.grps }
    let s3 := (olds.flatMap (·.blocks)).foldl putBlock s2
    let s4 := c.saves.foldl putSaved s3
    let log := later.flatMap (fun z => z.log.reverse)
      ++ (match x.epoch with
        | some e => e.log.reverse
        | none => []) ++ x.olog.reverse
    .next (s4.setFun f { s4.funOf f with epoch := none, replay := some { log := log, at' := s.now } }).wake

end Sys2Proof.Machine
end

