-- ==== Sys2Proof/Machine/Flow.lean ====
section
/-!
DEFINITION. Flow: major 0x5 (R125 to R132), and the fetch of a branch target (R126).
-/
namespace Sys2Proof.Machine

/-- Write b[bt] and start its fetch (R126). -/
def prepare (st : Stream) (now : Nat) (bt : P) (tgt : Word) : Stream :=
  { st with b := mput {} st.b bt.toNat ⟨tgt, .due (now + 4)⟩ }

def execPbr (h : Header) (bt : P) (off : BitVec 33) (s : State) : Out := guarded h 5 s fun s1 =>
  let st := s1.strmOf s1.cur
  retire h 8 (s1.setMe (prepare st s1.now bt (st.pc + 8 * off.signExtend 64)))

def execPbrg (h : Header) (bt : P) (ga : G) (s : State) : Out := guarded h 5 s fun s1 =>
  withOperands { srcs := [ga] } s1 fun v s2 => retire h 8 (s2.setMe (prepare (s2.strmOf s2.cur) s2.now bt (arg v 0)))

/-- Go to b[bt] (R125 to R127): an unaligned target faults here, a fetch not started is started, and the stream
stalls until the target is ready; then `link` acts and control goes there. -/
def branch (h : Header) (bt : P) (u : Use) (link : Stream → Stream) (s : State) : Out := guarded h 5 s fun s1 =>
  let st := s1.strmOf s1.cur
  let b := mget {} st.b bt.toNat
  if b.tgt.toNat % 8 != 0 then raise s1 (pipeFault s1 0x0C none b.tgt)
  else match b.st with
    | .none => stallU (s1.setMe (prepare st s1.now bt b.tgt))
    | .due _ => stallU s1
    | .ready => withOperands u s1 fun _ s2 => retireTo h b.tgt (s2.setMe (link (s2.strmOf s2.cur)))

def execBr (h : Header) (bt : P) (s : State) : Out := branch h bt {} (fun st => st) s

def execBrl (h : Header) (bt : P) (gl : G) (s : State) : Out :=
  branch h bt { dst := some gl } (fun st => setG st s.now gl (st.pc + 8) 1 false) s

def execTrap (h : Header) (code : BitVec 8) (s : State) : Out := guarded h 5 s fun s1 =>
  raise s1 (pipeFault s1 0x0E none 0 false code.toNat)

def execTfence (h : Header) (s : State) : Out := guarded h 5 s fun s1 =>
  if !drained s1 s1.cur then stallU s1
  else if (s1.strmOf s1.cur).trapFlags != 0 then raise s1 (pipeFault s1 0x0D)
  else retire h 8 s1

/-- While a request stands for its task the stream stops here, and its PC stays; otherwise a NOP (R130, R131). -/
def execYield (h : Header) (clean : Bool) (mask : BitVec 32) (s : State) : Out := guarded h 5 s fun s1 =>
  let st := s1.strmOf s1.cur
  if st.mode = .task && s1.myTask.yreq.isSome then
    .next (s1.setMe { st with run := .yielded, yclean := clean, ymask := mask, wait := none, syncArr := false
                              nextIss := s1.now + 1 + h.gap.toNat }).wake
  else retire h 8 s1

/-- The frame page as it stands in memory (R132), or the cause that the task ends with: 0x10 where it is poisoned (R335), and
0x11 where it cannot be read (R333). -/
def readFrame (s : State) (tk : Nat) : Except Nat (Nat × State) :=
  match translate s (tk / 4) (s.taskOf tk).ctx ((s.taskOf tk).evb.toNat + 4096) .r with
  | .ok l _ s1 =>
    if !reachable s (s.taskOf tk).ctx l then .error 0x11
    else if s1.poisoned (memKey l) 4096 then .error 0x10 else .ok (readN s1.mem (memKey l) 4096, s1)
  | _ => .error 0x11

def execEret (h : Header) (s : State) : Out := privileged s fun s => guarded h 5 s fun s1 =>
  let st := s1.strmOf s1.cur
  let tk := s1.tkey s1.cur
  if st.mode = .firmware then .next ((s1.setMe { st with run := .absent, mode := .task }).coreIssued).wake
  else match readFrame s1 tk with
    | .ok (f, s2) => .next (eretTask s2.coreIssued tk h.gap.toNat f).wake
    | .error c =>
      let s2 := traceEvent s1 s1.myCtx 1 s1.myCore st.tnum none s1.now
      .next (terminate s2 tk ({ (s1.taskOf tk).kept.getD {} with fcyc := s1.now }.withCause c)).wake

/-- TARGET_FETCH_READY (R126, R127). -/
def execTargetFetchReady (c n b : Nat) (s : State) : Out :=
  let sk := 8 * c + n
  let st := s.strmOf sk
  let r := mget {} st.b b
  match r.st with
  | .due d =>
    if 8 ≤ b || !s.coreRuns c then .next s
    else .next ((s.upTo d).setStrm sk { st with b := mput {} st.b b { r with st := .ready } }).wake
  | _ => .next s

end Sys2Proof.Machine
end

