-- ==== Sys2Proof/Machine/Link.lean ====
section
/-!
DEFINITION. The receiving side of the Balua ports (R364 to R368): the link layer, degraded ports, end-to-end acknowledgements, and
requests from peers.
-/
namespace Sys2Proof.Machine

/-! ### End-to-end acknowledgements (R366, R367) -/

/-- Whether an operation is the TSEND of a transaction identifier, sent and not acknowledged. -/
def Op.sentAs (o : Op) (txid : Nat) : Bool :=
  match o.i with
  | .tsend _ _ _ => o.ph != .queued && o.img.head? == some txid
  | _ => false

/-- A TSEND that left its core with its task completes there. -/
def ackSaved (txid : Nat) (x : Saved) : Saved :=
  match x.ops.find? (·.sentAs txid) with
  | none => x
  | some o =>
    { x with ops := x.ops.filter (·.uid != o.uid)
             strms := x.strms.map fun e => if e.1 = o.tnum then (e.1, e.2.countDown o.eng) else e }

/-- An end-to-end acknowledgement: the request of a transaction identifier is done, and its TSEND completes. Where it is negative,
the packet has been dropped, and its sender takes no fault (R230, R367). -/
def endToEnd (s : State) (txid : Nat) : State :=
  let s1 := { s with dev := { s.dev with ports := s.dev.ports.map fun e =>
      (e.1, { e.2 with unack := e.2.unack.filter fun y => y.fl.txid.toNat != txid, redo := e.2.redo.filter fun y => y.fl.txid.toNat != txid }) } }
  match s1.ops.find? (·.sentAs txid) with
  | some o => finishOp s1 o
  | none => s1.setCtl { s1.ctl with saves := s1.ctl.saves.map (ackSaved txid) }

/-! ### The link (R364, R365) -/

/-- The flits of a replay buffer from a sequence number on; all of them where none has it. -/
def sentFrom (n : Nat) (l : List Flit) : List Flit :=
  if l.any fun f => f.lseq.toNat == n then l.dropWhile fun f => f.lseq.toNat != n else l

/-- A link acknowledgement. A positive one names the last flit received: what it covers leaves the replay buffer. A negative one
names the flit expected: what comes before it leaves, and the rest is sent again. -/
def linkAck (x : Port) (fl : Flit) : Port :=
  let n := fl.addr.toNat % 4096
  if fl.op = 0 then
    let l := if x.sent.any fun f => f.lseq.toNat == n then (sentFrom n x.sent).drop 1 else x.sent
    { x with sent := l, fails := if l.length < x.sent.length then 0 else x.fails }
  else
    let l := if n = x.seq then [] else sentFrom n x.sent
    { x with sent := l, cSent := x.cSent + l.length, cRetr := x.cRetr + 1
             fails := if l.isEmpty then 0 else if l.length < x.sent.length then 1 else x.fails + 1 }

/-- The link acknowledgement of a flit (R363, R364), a positive one of the number of the last good flit, or a negative one of the number
expected. -/
def ackFlit (s : State) (fl : Flit) (bad : Bool) (n : Nat) : Flit :=
  let f := { flitTo s fl.src.toNat fl.ten.toNat 8 0 (n % 4096) with op := BitVec.ofNat 8 bad.toNat }
  { f with crc := flitCrc f }

/-- LINK_FLIT_RECEIVE (R364): a good flit in sequence is accepted and acknowledged; one with a bad CRC (by its fields, or since a bit
outside them was harmed on the way, `good` false) or out of sequence draws a
negative acknowledgement, and its sender resends from the expected number. Requests wait at the port; a response is the
end-to-end acknowledgement of its request. -/
def execLinkFlitReceive (port : Nat) (fl : Flit) (good : Bool) (s : State) : Out :=
  let x := s.portOf port
  let sound := good && fl.crc == flitCrc fl
  if 18 ≤ port || !x.up then .next s
  else if sound && fl.typ == 8 then .next (s.setPort port (s.pump 256 { linkAck x fl with cRecv := x.cRecv + 1 })).wake
  else if sound && fl.lseq.toNat % 4096 == x.exp then
    let y := { x with exp := (x.exp + 1) % 4096, ack := some (ackFlit s fl false x.exp), cRecv := x.cRecv + 1 }
    if fl.typ == 3 || fl.typ == 5 || fl.typ == 9 then .next (endToEnd (s.setPort port y) fl.txid.toNat).wake
    else .next (s.setPort port { y with inq := y.inq ++ [fl] }).wake
  else .next (s.setPort port { x with ack := some (ackFlit s fl true x.exp), cRetr := x.cRetr + 1 })

/-- A collective whose merge tree is re-formed (R371): the elements that have not come in whole go by the new tree. -/
def reformColl (x : Nat) (o : Op) : Op :=
  let c := o.coll
  let left := (List.range c.els).filter fun i => !c.whole o.got i
  let c0 : Coll := { c with tree := none }
  { o with tree := some (x, left)
           got := (List.range c.els).map fun i => if left.contains i then 0 else (c0.from' i).length + (c0.fin i).toNat }

/-- A port has gone down: the collectives that have started send their steps by other ports, and where a pair of members is left
without a path, the merge tree is re-formed (R371). -/
def rerouteColls (s : State) : State :=
  let on (o : Op) : Bool := match o.i with
    | .coll _ _ _ => o.ph != .queued
    | _ => false
  let s1 := s.setOps (s.ops.map fun o => if !on o then o
    else if o.ph == .run && Config.pathLost (s.free + o.uid) then reformColl (s.free + o.uid) { o with rer := true } else { o with rer := true })
  { s1 with free := s.free + s.fresh }

/-- PORT_RETRAIN (R365): a port on which retries of one flit have failed 8 times in a row (nine sends of it in all) goes on with two
lanes, its traffic in the replay buffer, or else goes down, and its requests are to be sent again (R366). -/
def execPortRetrain (port : Nat) (two : Bool) (s : State) : Out :=
  let x := s.portOf port
  if 18 ≤ port || !x.up || x.fails < 9 then .next s
  else if two then .next (s.setPort port { x with lanes := 2, fails := 0 }).wake
  else .next (rerouteColls (s.setPort port { x with
    up := false, fails := 0, redo := x.redo ++ x.unack ++ x.out.filter (·.req), unack := [], sent := [], out := [] })).wake

/-- LANE_RESTORE (R365). -/
def execLaneRestore (port : Nat) (s : State) : Out :=
  if 18 ≤ port then .next s else .next (s.setPort port { s.portOf port with up := true, lanes := 4 }).wake

/-- The port by which a request goes again: that of its path, or the next healthy one (R366). -/
def resendPort (s : State) (y : Sent) : Option Nat :=
  match y.path with
  | some (c, k) => pathPort s c k y.fl.dst.toNat
  | none => spreadPort s

/-- A request goes again under its transaction identifier (R366). -/
def resend (s : State) (y : Sent) : State :=
  match resendPort s y with
  | some p =>
    sendFlit (if y.path.isNone then { s with dev := { s.dev with rrPort := (p + 1) % 18 } } else s) p y
  | none => s

/-- E2E_RESEND (R366): what a port that went down had sent, and nobody has acknowledged end to end, is sent again through other
ports, in order. -/
def execE2eResend (port : Nat) (s : State) : Out :=
  let x := s.portOf port
  if 18 ≤ port || x.redo.isEmpty || (healthyPorts s).isEmpty then .next s
  else .next (x.redo.foldl resend (s.setPort port { x with redo := [] })).wake

/-! ### Requests from peers (R366 to R368) -/

/-- The owning port of a word, h = PA[15:6] mod 18 (R368). -/
def hotPort (a : Nat) : Nat := bits a 6 10 % 18

/-- An atomic makes its word the most recent of its owning port's; the 65th is evicted, memory holding it already (R368). -/
def enterHot (s : State) (a k : Nat) : State :=
  let p := hotPort a
  let x := s.portOf p
  s.setPort p { x with hot := (k :: x.hot.filter (· != k)).take 64 }

/-- The atomic of a code 0 to 9 (R62). -/
def amoOf (n : Nat) : AmoOp := ([.add, .and, .or, .xor, .min, .max, .minn, .maxn, .xchg, .fadd] : List AmoOp).getD n .add

/-- The stack that a trigger packet names (R229). -/
def flitStack (fl : Flit) : Nat := bits fl.addr.toNat 8 3

/-- Whether a request meets a stack in self-refresh (R374): a trigger packet its own, any other that of a byte it reaches. -/
def flitSleeps (s : State) (fl : Flit) : Bool :=
  if fl.typ == 7 then (s.stackOf (flitStack fl)).sref || (s.stackOf (flitStack fl)).srefX
  else (List.range (max 1 fl.size.toNat)).any fun i => s.asleep ⟨.dev fl.ten.toNat, fl.addr.toNat + i⟩

/-- Whether an ingress port accepts a request (R367): it is for this device, from its domain, and for a partition that holds keys
under which its tag verifies, and one to answer with (R318); and no stack that it meets is in self-refresh (R374), nor is the partition being scrubbed
(R314). Before DOMAIN is written none is. -/
def accepts (s : State) (fl : Flit) : Bool :=
  let own := fl.ten.toNat
  s.dev.pf0.domain != 0 && fl.dst.toNat == s.self && own < 5 && !(s.quarters own).isEmpty
    && (s.funOf own).balIn.any (fun k => fl.tag == flitTag fl k) && (s.funOf own).balOut.isSome && s.inDomain fl.src.toNat && !flitSleeps s fl
    && (s.quarters own).all fun q => !bitN s.dev.pf0.scrub.toNat q

/-- A request that an ingress port has performed: what it leaves, and the response to it (TYPE, operation, bytes, data). -/
abbrev Served := State × Nat × Nat × Nat × Nat

/-- The response to a request that is refused: a negative end-to-end acknowledgement. -/
def refuse (s : State) : Served := (s, 9, 1, 0, 0)

/-- Perform an accepted request on its partition's memory, partition-relatively. -/
def performFlit (s : State) (fl : Flit) : Served :=
  let own := fl.ten.toNat
  let a := fl.addr.toNat
  let n := fl.size.toNat
  let k := memKey ⟨.dev own, a⟩
  let inside := 1 ≤ n && n ≤ 200 && a + n ≤ s.partSize own
  let old := readN s.mem k n
  let w := 8 * n
  match fl.typ.toNat with
  | 1 => if inside && !s.partPoison k n then ((s.forward k n 1).store k n fl.data.toNat, 9, 0, 0, 0) else refuse s
  | 2 => if inside && !s.poisoned k n then (s.forward k n 0, 3, 0, n, old) else refuse s
  | 4 =>
    let op := fl.op.toNat
    if !inside || s.poisoned k n || (n != 4 && n != 8) || a % n != 0 || 10 < op then refuse s
    else
      let new := if op = 10 then (if old = fl.cmp.toNat % 2^w then fl.data.toNat else old)
        else amoStep (amoOf op) w old (fl.data.toNat % 2^w)
      (enterHot (s.store k n new) a (k / 8 * 8), 5, 0, n, old)
  | 7 => if (s.stacksOf own).contains (flitStack fl) then (packetAt s (flitStack fl) (a % 256), 9, 0, 0, 0) else refuse s
  | _ => (s, 9, 0, 0, 0)

/-- Whether a request is a write that waits for the copying of a block it reaches (R343). -/
def flitHeld (s : State) (fl : Flit) : Bool :=
  let k := memKey ⟨.dev fl.ten.toNat, fl.addr.toNat⟩
  (fl.typ == 1 || fl.typ == 4) && (s.ckHold k || s.ckHold (k + fl.size.toNat - 1))

/-- A receiver remembers the last 65,536 transaction identifiers of each source (R366). -/
def noteTxid (s : State) (fl : Flit) : State :=
  let x := (fl.src.toNat, fl.txid.toNat)
  let mine := s.dev.txids.filter (·.1 == x.1)
  let old := if mine.length < 65536 then s.dev.txids else s.dev.txids.erase (mine.getLast?.getD x)
  { s with dev := { s.dev with txids := x :: old } }

/-- Send the response to a request back through its port. -/
def respond (fl : Flit) (port : Nat) (r : Served) : State :=
  let (s, typ, op, n, v) := r
  sendFlit s port ⟨{ flitTo s fl.src.toNat fl.ten.toNat typ fl.txid.toNat 0 with
    op := BitVec.ofNat 8 op, size := BitVec.ofNat 8 n, data := BitVec.ofNat 1600 v }, none, false⟩

/-- Whether requests of several sources stand at a port, so that which one arrives next is a choice (R345). -/
def Port.mixed (x : Port) : Bool := x.inq.any fun g => x.inq.any fun h => g.src != h.src

/-- The request that a port takes next: the oldest, or in replay the oldest of the source that the log names (R346). -/
def nextRequest (s : State) (port : Nat) : Option Flit :=
  let x := s.portOf port
  if x.mixed then x.inq.find? fun g => mayChooseIn s g.ten.toNat 4 port 0 g.src.toNat else x.inq.head?

/-- Log the arrival of a request among those of several sources. -/
def logArrival (s : State) (port : Nat) (fl : Flit) : State :=
  match s.ctxsOf fl.ten.toNat with
  | c :: _ => if (s.portOf port).mixed then logChoice s c 4 port 0 fl.src.toNat else s
  | [] => s

/-- INGRESS_REQUEST (R366 to R368): the next request at a port is performed, at most once, and answered; one that is not accepted
is discarded with a negative end-to-end acknowledgement. -/
def execIngressRequest (port : Nat) (fl : Flit) (s : State) : Out :=
  let x := s.portOf port
  if 18 ≤ port || !x.up || !portRoom s (some port) then .next s
  else match nextRequest s port with
    | none => .next (match x.inq with
      | g :: _ => replayWait s ((s.ctxsOf g.ten.toNat).headD 0) 4 port 0 4194304
      | [] => s)
    | some g =>
      if g != fl || (accepts s fl && flitHeld s fl) then .next s
      else
        let s1 := logArrival s port fl
        let s2 := s1.setPort port { s1.portOf port with inq := x.inq.erase fl }
        .next (respond fl port (if !accepts s2 fl then refuse s2
          else if s2.dev.txids.contains (fl.src.toNat, fl.txid.toNat) then (s2, 9, 0, 0, 0)
          else performFlit (noteTxid s2 fl) fl)).wake

end Sys2Proof.Machine
end

