-- ==== Sys2Proof/Machine/Matrix.lean ====
section
/-!
DEFINITION. The issue of the matrix engine's instructions (R190 to R201). They start by ENGINE_START, go on by
K_STEP, and commit by OPERATION_COMMIT.
-/
namespace Sys2Proof.Machine

def execMma (h : Header) (ty : Ty) (d : Dst) (a b : Src) (o : MmaOpt) (s : State) : Out :=
  issueOp h 11 16 (.mma h ty d a b o) none noPre enqueue s

def execMmas (h : Header) (ty : Ty) (d : Dst) (a b : Src) (o : MmaOpt) (s : State) : Out :=
  issueOp h 11 16 (.mmas h ty d a b o) none noPre enqueue s

def execMgath (h : Header) (ty : Ty) (d : Dst) (a b ti tj : Src) (o : MmaOpt) (pm1 : BitVec 2) (s : State) : Out :=
  issueOp h 11 16 (.mgath h ty d a b ti tj o pm1) none noPre enqueue s

def execMgroup (h : Header) (ty : Ty) (d : Dst) (a b fx : Src) (off9 : BitVec 9) (o : MmaOpt) (s : State) : Out :=
  issueOp h 11 16 (.mgroup h ty d a b fx off9 o) none noPre enqueue s

/-- The first of the lowest run of `n` unallocated names of a quota (R198). -/
def freeRun (amap : BitVec 64) (quota n : Nat) : Option Nat :=
  (List.range (quota + 1 - n)).find? fun b => (List.range n).all fun i => !bitN amap.toNat (b + i)

/-- ACALLOC at issue (R198): the map, and the name on its way to gd; the run travels with the operation. -/
def preAlloc (gd : G) (count : BitVec 7) (_ : List Word) (o : Op) (s : State) : Pre :=
  let t := s.myTask
  let n := count.toNat
  let st := s.strmOf s.cur
  match (if n ≤ (winOf t.win .a).2 then freeRun t.amap (winOf t.win .a).2 n else none) with
  | some b =>
    let m := t.amap ||| BitVec.ofNat 64 ((2^n - 1) * 2^b)
    .ok ({ o with img := [b, n] },
      (s.setTask (s.tkey s.cur) { t with amap := m }).setMe (setGP st s.now gd (BitVec.ofNat 64 b) 2))
  | none => .ok ({ o with img := [0, 0] }, s.setMe (setGP st s.now gd (BitVec.allOnes 64) 2))

def execAcalloc (h : Header) (gd : G) (count : BitVec 7) (s : State) : Out :=
  issueOp h 11 8 (.acalloc h gd count) (some gd) (preAlloc gd count) enqueue s

/-- ACFREE at issue: the name leaves the map (R198). -/
def preFree (x : BitVec 8) (_ : List Word) (o : Op) (s : State) : Pre :=
  let t := s.myTask
  .ok (o, s.setTask (s.tkey s.cur) { t with amap := t.amap &&& ~~~((1 : BitVec 64) <<< x.toNat) })

def execAcfree (h : Header) (obj : BitVec 8) (s : State) : Out :=
  issueOp h 11 8 (.acfree h obj) none (preFree obj) enqueue s

def execAcband (h : Header) (obj : BitVec 8) (bands : BitVec 4) (strms : BitVec 8) (s : State) : Out :=
  issueOp h 11 8 (.acband h obj bands strms) none noPre enqueue s

def execAczero (h : Header) (d : Dst) (s : State) : Out := issueOp h 11 8 (.aczero h d) none noPre enqueue s

end Sys2Proof.Machine
end

