-- ==== Sys2Proof/Machine/Salend.lean ====
section
/-!
DEFINITION. The debug port (R325, R329, R347) and the placement of firmware-mode code (R91).
-/
namespace Sys2Proof.Machine

/-- The level at which the port is open (R324): in MANUFACTURE it is open without a token, at level 3 (DESIGN CHOICE, assumption
66). -/
def salendLevel (s : State) : Nat := if s.dev.sec.life = .manufacture then 3 else s.dev.sec.salend

/-- Put a stream into firmware mode at an address; a stream of a task is not available. -/
def placeFirmware (s : State) (c n : Nat) (pc : Word) : State :=
  let k := 8 * c + n
  if 160 ≤ c || 8 ≤ n || (s.strmOf k).run != .absent then s
  else s.setStrm k { run := .run, mode := .firmware, pc := pc &&& ~~~7, nextIss := s.now + 1 }

/-- FIRMWARE_PLACEMENT (R91). -/
def execFirmwarePlacement (c n : Nat) (pc : BitVec 64) (s : State) : Out := .next (placeFirmware s c n pc).wake

/-- A command that needs a level; the port refuses it below. -/
def atLevel (n : Nat) (s : State) (t : State) : Out := .next (if n ≤ salendLevel s then t.wake else s.answer .refused)

/-! ### On-chip storage (R325) -/

/-- The bytes of an object's front. -/
def objBytes : Spc → Nat
  | .t => 512
  | .o => 8192
  | .a => 16384
  | .f => 4096

/-- A barrier's record, as a save area holds it (R338): the targets of its own core's streams. -/
def barImage (b : Bar) : Nat :=
  b.n.toNat + 2^32 * b.a.toNat + 2^64 * b.gen.toNat + 2^80 * b.gang.toNat + 2^128 * bits b.t.toNat 0 128

/-- A barrier with the fields of a record. -/
def barWith (b : Bar) (v : Nat) : Bar :=
  { b with n := BitVec.ofNat 32 (bits v 0 32), a := BitVec.ofNat 32 (bits v 32 32), gen := BitVec.ofNat 16 (bits v 64 16)
           gang := bitN v 80, t := BitVec.ofNat 1024 (setBits b.t.toNat 0 128 (bits v 128 128)) }

/-- The register record of a stream, as a save area holds it (R338). -/
def strmImage (st : Stream) : Nat := bits (image ((strmRec { st with tnum := 0 }).dropLast)) 4096 4096

/-- A stream with the registers of a record. -/
def strmWith (st : Stream) (v : Nat) : Stream :=
  { st with
    pc := BitVec.ofNat 64 (fld v 0 8), g := (List.range 31).foldl (fun g r => mput 0 g (r + 1) (BitVec.ofNat 64 (fld v (16 + 8 * r) 8))) []
    b := (List.range 8).foldl (fun m r =>
      let t := BitVec.ofNat 64 (fld v (264 + 8 * r) 8)
      mput {} m r { tgt := t, st := if (mget {} m r).tgt = t then (mget {} m r).st else .none }) st.b
    p := BitVec.ofNat 8 (fld v 328 1 / 2 * 2), fpc := maskFpc (BitVec.ofNat 32 (fld v 332 4)), flg := maskFlg (BitVec.ofNat 32 (fld v 336 4))
    seed := BitVec.ofNat 32 (fld v 340 4), pend := BitVec.ofNat 32 (fld v 352 4), syncArr := bitN (fld v 360 1) 0 }

/-- A slot's allocation map (R198): the names allocated, then the owner mask of each band of each name. -/
def allocImage (t : Task) : Nat := t.amap.toNat + 2^64 * pack 32 ((List.range 64).map fun n => (mget 0 t.bmask n).toNat)
/-- A task with an allocation map. -/
def allocWith (t : Task) (v : Nat) : Task :=
  { t with amap := BitVec.ofNat 64 v
           bmask := (List.range 64).foldl (fun m n => mput 0 m n (BitVec.ofNat 32 (bits v (64 + 32 * n) 32))) [] }

/-- A line of a record cache: slot, address, whether it is there, image. -/
def recImage (r : Option Rec) : Nat :=
  match r with
  | none => 0
  | some r => r.slot + 2^32 + 2^64 * r.addr.toNat + 2^128 * r.img
def recLine (v : Nat) : Option Rec :=
  if bitN v 32 then some ⟨bits v 0 32, BitVec.ofNat 64 (bits v 64 64), bits v 128 1536⟩ else none

/-- A line of a translation cache: context, level, whether it is there, page, entry, and the entry's place. -/
def tlbImage (e : Option Tlb) : Nat :=
  match e with
  | none => 0
  | some e => e.ctx + 2^16 * e.lvl + 2^32 + 2^64 * e.page + 2^128 * e.pte.toNat + 2^192 * e.ploc
def tlbLine (v : Nat) : Option Tlb :=
  if bitN v 32 then some ⟨bits v 0 16, bits v 64 64, bits v 16 16, BitVec.ofNat 64 (bits v 128 64), bits v 192 128⟩ else none

/-- A list of lines with one replaced, appended or taken out. -/
def setLine (l : List α) (i : Nat) (x : Option α) : List α := l.take i ++ x.toList ++ l.drop (i + 1)

/-- The bytes of a store of a core, and how many they are; none where it does not exist. -/
def chipRead (s : State) (c : Nat) (st : ChipStore) (i : Nat) : Option (Nat × Nat) :=
  let o := s.obj
  let strm (n v : Nat) : Option (Nat × Nat) := if i < 8 then some (n, v) else none
  let x := s.strmOf (8 * c + i)
  if 160 ≤ c || 256 ≤ i then none
  else match st with
    | .front p => some (objBytes p, objVal s (okey c p i))
    | .shadow .o => some (8192, (mget 0 o.slotS (okey c .o i)).toNat)
    | .shadow .f => some (4096, (mget 0 o.frmS (okey c .f i)).toNat)
    | .shadow _ => none
    | .side sh => some (3072, (mget 0 (if sh then o.sideS else o.sideF) (okey c .o i)).toNat)
    | .count p => some (32, cntRec (s.cntOf (okey c p i)))
    | .bar => if i < 64 then some (32, barImage (s.barOf (barKey c i))) else none
    | .sreg => strm 512 (strmImage x)
    | .lanes => strm 512 x.lanes.toNat
    | .spill => strm 4096 (pack 64 ((List.range 512).map fun j => (mget 0 x.spill j).toNat))
    | .alloc => if i < 4 then some (264, allocImage (s.taskOf (4 * c + i))) else none
    | .record => if i < 64 then some (208, recImage (s.coreOf c).recs[i]?) else none
    | .trans cl => some (40, tlbImage (if cl then mget [] s.clus (c / 8) else (s.coreOf c).tlb)[i]?)
    | .ports => strm 2048 (pack 4096 ((List.range 4).map fun q => pack 64 ((mget [] x.q q).map (·.toNat))))

/-- Write a store of a core: data loses its poison; a count record also keeps when it was written, and a stream's registers how many
elements they hold. -/
def chipWrite (s : State) (c : Nat) (st : ChipStore) (i v : Nat) : State :=
  let o := s.obj
  let k := 8 * c + i
  let x := s.strmOf k
  match st with
  | .front p => unpoison (objPut s (okey c p i) [(0, objBytes p, v)]) (okey c p i)
  | .shadow _ => s.setObj { o with slotS := match st with
                                     | .shadow .o => mput 0 o.slotS (okey c .o i) (BitVec.ofNat _ v)
                                     | _ => o.slotS
                                   frmS := match st with
                                     | .shadow .f => mput 0 o.frmS (okey c .f i) (BitVec.ofNat _ v)
                                     | _ => o.frmS }
  | .side true => s.setObj { o with sideS := mput 0 o.sideS (okey c .o i) (BitVec.ofNat _ v) }
  | .side false => s.setObj { o with sideF := mput 0 o.sideF (okey c .o i) (BitVec.ofNat _ v) }
  | .count p =>
    let old := s.cntOf (okey c p i)
    s.setCnt (okey c p i) { cntOfRec v with wc := old.wc, wu := old.wu, lc := old.lc, lu := old.lu }
  | .bar => s.setBar (barKey c i) (barWith (s.barOf (barKey c i)) v)
  | .sreg => s.setStrm k (strmWith x v)
  | .lanes => s.setStrm k { x with lanes := BitVec.ofNat 4096 v }
  | .spill =>
    s.setStrm k { x with spill := (List.range 512).foldl (fun m j => mput 0 m j (BitVec.ofNat 64 (bits v (64 * j) 64))) [] }
  | .alloc => if (s.taskOf (4 * c + i)).stat = .empty then s else s.setTask (4 * c + i) (allocWith (s.taskOf (4 * c + i)) v)
  | .record => s.setCore c { s.coreOf c with recs := setLine (s.coreOf c).recs i (recLine v) }
  | .trans true => { s with clus := mput [] s.clus (c / 8) (setLine (mget [] s.clus (c / 8)) i (tlbLine v)) }
  | .trans false => s.setCore c { s.coreOf c with tlb := setLine (s.coreOf c).tlb i (tlbLine v) }
  | .ports => s.setStrm k { x with q := (List.range 4).foldl (fun m q =>
      mput [] m q ((unpack 64 (mget [] x.q q).length (bits v (4096 * q) 4096)).map (BitVec.ofNat 64))) [] }

/-- Whether a place is a byte of a partition's memory. -/
def memByte (s : State) (l : Loc) : Bool :=
  match l.home with
  | .dev o => l.addr < s.partSize o
  | _ => false

/-! ### The commands (R325, R329, R347) -/

/-- Whether Salend may write a register for a context: the debug registers of any, but for those with a behaviour of their own. -/
def debugCtx : HostReg → Option Nat
  | .bp c _ | .dbgctl c | .trbuf c | .sampctl c | .dumpctl c | .dumpbuf c => some c
  | _ => none

/-- What a write of a debug register asks for beside its new value: DBGCTL's STOP, FORCE and GO (R347, R348). -/
def debugWrite (r : HostReg) (v : Word) (ctx : Nat) (s : State) : State :=
  let bit (i : Nat) (act : Ctx → State → State) (s : State) : State := if bitN v.toNat i then act (s.ctxOf ctx) s else s
  match r with
  | .dbgctl _ => bit 3 (debugGo ctx) (bit 2 (requestStop true ctx) (bit 1 (requestStop false ctx) s))
  | _ => s

/-- SALEND_COMMAND: each command at its level. -/
def execSalendCommand (cmd : Salend) (s : State) : Out :=
  let or (b : Bool) (t : State) : State := if b then t else s.answer .refused
  match cmd with
  | .readTelemetry => atLevel 1 s (s.answer (.report (bytesOf 11936 (tickRecord s))))
  | .readTrace ctx off => atLevel 1 s (
    match vread s ctx false 2 ((s.ctxOf ctx).trbuf.toNat / 2^16 * 2^16 + 32 * off) 32 with
    | .ok v => or (32 * off + 32 ≤ 65536 * bits (s.ctxOf ctx).trbuf.toNat 0 12)
        ((s.see2 ctx ((s.ctxOf ctx).trbuf.toNat / 2^16 * 2^16 + 32 * off) 32).answer (.report (bytesOf 32 v)))
    | .error _ => s.answer .refused)
  | .stopCore c => atLevel 2 s (or (c < 160) (s.setCore c { s.coreOf c with hold := true }))
  | .resumeCore c => atLevel 2 s (or (c < 160) (coreGo c s))
  | .stopContext ctx => atLevel 2 s (requestStop false ctx (s.ctxOf ctx) s)
  | .resumeContext ctx => atLevel 2 s (debugGo ctx (s.ctxOf ctx) s)
  | .readReport c k => atLevel 2 s (or (c < 160 && k < 4 && (s.taskOf (4 * c + k)).stat != .empty)
      (s.answer (.report (bytesOf 4096 (frameImage s (4 * c + k) (s.taskOf (4 * c + k)).report)))))
  | .debugReg r v => atLevel 2 s (match debugCtx r with
    | some ctx => or (ctx < 64) (debugWrite r v ctx (s.setCtx ctx (setDebugReg r v (s.ctxOf ctx))))
    | none => s.answer .refused)
  | .ttrig ctx v => atLevel 2 s (or (ctx < 64) (setTtrig v ctx (s.ctxOf ctx) s))
  | .readMem l => atLevel 2 s (or (memByte s l) ((s.forward (memKey l) 1 0).answer (.data ((readB s.mem (memKey l)).setWidth 64))))
  | .writeMem l b => atLevel 2 s (or (memByte s l) ((s.put (memKey l) 1 b.toNat).answer .ok))
  | .readChip c st i => atLevel 2 s (match chipRead s c st i with
    | some (n, v) => s.answer (.report (bytesOf n v))
    | none => s.answer .refused)
  | .writeChip c st i v => atLevel 2 s (or (chipRead s c st i).isSome ((chipWrite s c st i v).answer .ok))
  | .haltControl => atLevel 3 s (s.setCtl { s.ctl with halt := true })
  | .place c n pc => atLevel 3 s (placeFirmware s c n pc)

end Sys2Proof.Machine
end

