-- ==== Sys2Proof/Machine/Vector.lean ====
section
/-!
DEFINITION. The issue of vector-engine instructions: majors 0x7 to 0xA, ACDRAIN and ACFILL (R141, R142). What they
compute is `vecVal`; they start by ENGINE_START and commit by OPERATION_COMMIT.
-/
namespace Sys2Proof.Machine

/-- A frame offset at issue (R179): `n` bytes at O = G(gb) + 8 imm9, aligned to `al`; O travels with the operation. -/
def preOff (imm : BitVec 9) (n al : Nat) (v : List Word) (o : Op) (s : State) : Pre :=
  let off := frameOff (v.getD 0 0) imm
  match offFault off n al with
  | some c => preFault s (pipeFault s c)
  | none => .ok ({ o with gv := [BitVec.ofNat 64 off] }, s)

/-- The lane of VLANE at issue, and its pending destination (R154). -/
def preLane (t : Ty) (gd : BitVec 8) (imm : BitVec 9) (v : List Word) (o : Op) (s : State) : Pre :=
  let l := (v.getD 0 0).toNat + imm.toNat
  if t.lpr ≤ l then preFault s (pipeFault s 0x06)
  else
    let st := s.strmOf s.cur
    .ok ({ o with gv := [BitVec.ofNat 64 l], reg := gd.toNat },
      s.setMe { st with pend := if gd = 0 then st.pend else st.pend ||| ((1 : BitVec 32) <<< gd.toNat) })

/-- VLDS at issue (R183): COUNT elements STRIDE apart, both the stride and O multiples of the element size.
Both are tested under a true guard alone, though the stride depends on no g operand (DEDUCED, assumption 57). -/
def preLds (t : Ty) (imm : BitVec 9) (stride : BitVec 16) (count : BitVec 10) (v : List Word) (o : Op) (s : State) : Pre :=
  let n := if count = 0 then t.lpr else count.toNat
  let w := Ty.w t / 8
  let off := frameOff (v.getD 0 0) imm
  match offFault off ((n - 1) * stride.toNat + w) w with
  | some c => preFault s (pipeFault s c)
  | none => if stride.toNat % w != 0 then preFault s (pipeFault s 0x0C) else .ok ({ o with gv := [BitVec.ofNat 64 off] }, s)

def execVadd (h : Header) (ty : Ty) (d : Dst) (a : Src) (b : Src) (s : State) : Out :=
  issueOp h 7 8 (.vadd h ty d a b) none noPre enqueue s
def execVsub (h : Header) (ty : Ty) (d : Dst) (a : Src) (b : Src) (s : State) : Out :=
  issueOp h 7 8 (.vsub h ty d a b) none noPre enqueue s
def execVmul (h : Header) (ty : Ty) (d : Dst) (a : Src) (b : Src) (s : State) : Out :=
  issueOp h 7 8 (.vmul h ty d a b) none noPre enqueue s
def execVmin (h : Header) (ty : Ty) (d : Dst) (a : Src) (b : Src) (s : State) : Out :=
  issueOp h 7 8 (.vmin h ty d a b) none noPre enqueue s
def execVmax (h : Header) (ty : Ty) (d : Dst) (a : Src) (b : Src) (s : State) : Out :=
  issueOp h 7 8 (.vmax h ty d a b) none noPre enqueue s
def execVand (h : Header) (ty : Ty) (d : Dst) (a : Src) (b : Src) (s : State) : Out :=
  issueOp h 7 8 (.vand h ty d a b) none noPre enqueue s
def execVor (h : Header) (ty : Ty) (d : Dst) (a : Src) (b : Src) (s : State) : Out :=
  issueOp h 7 8 (.vor h ty d a b) none noPre enqueue s
def execVxor (h : Header) (ty : Ty) (d : Dst) (a : Src) (b : Src) (s : State) : Out :=
  issueOp h 7 8 (.vxor h ty d a b) none noPre enqueue s
def execVshl (h : Header) (ty : Ty) (d : Dst) (a : Src) (b : Src) (s : State) : Out :=
  issueOp h 7 8 (.vshl h ty d a b) none noPre enqueue s
def execVshr (h : Header) (ty : Ty) (d : Dst) (a : Src) (b : Src) (s : State) : Out :=
  issueOp h 7 8 (.vshr h ty d a b) none noPre enqueue s
def execVsra (h : Header) (ty : Ty) (d : Dst) (a : Src) (b : Src) (s : State) : Out :=
  issueOp h 7 8 (.vsra h ty d a b) none noPre enqueue s
def execVwmul (h : Header) (ty : Ty) (d : Dst) (a : Src) (b : Src) (s : State) : Out :=
  issueOp h 7 8 (.vwmul h ty d a b) none noPre enqueue s
def execVwadd (h : Header) (ty : Ty) (d : Dst) (a : Src) (b : Src) (s : State) : Out :=
  issueOp h 7 8 (.vwadd h ty d a b) none noPre enqueue s
def execVfma (h : Header) (ty : Ty) (d : Dst) (a : Src) (b : Src) (c : Src) (s : State) : Out :=
  issueOp h 7 16 (.vfma h ty d a b c) none noPre enqueue s
def execVabs (h : Header) (ty : Ty) (d : Dst) (a : Src) (s : State) : Out :=
  issueOp h 7 8 (.vabs h ty d a) none noPre enqueue s
def execVneg (h : Header) (ty : Ty) (d : Dst) (a : Src) (s : State) : Out :=
  issueOp h 7 8 (.vneg h ty d a) none noPre enqueue s
def execVnot (h : Header) (ty : Ty) (d : Dst) (a : Src) (s : State) : Out :=
  issueOp h 7 8 (.vnot h ty d a) none noPre enqueue s
def execVcmp (h : Header) (cond : Cond) (ty : Ty) (d : Dst) (a : Src) (b : Src) (s : State) : Out :=
  issueOp h 7 16 (.vcmp h cond ty d a b) none noPre enqueue s
def execVsel (h : Header) (ty : Ty) (d : Dst) (a : Src) (b : Src) (c : Src) (s : State) : Out :=
  issueOp h 7 16 (.vsel h ty d a b c) none noPre enqueue s
def execVbcast (h : Header) (ty : Ty) (d : Dst) (gb : G) (s : State) : Out :=
  issueOp h 7 8 (.vbcast h ty d gb) none noPre enqueue s
def execVlane (h : Header) (ty : Ty) (gd : BitVec 8) (a : Src) (gb : G) (imm : BitVec 9) (s : State) : Out :=
  issueOp h 7 8 (.vlane h ty gd a gb imm) (some (gd.setWidth 6)) (preLane ty gd imm) enqueue s
def execVperm (h : Header) (d : Dst) (a : Src) (b : Src) (s : State) : Out :=
  issueOp h 7 8 (.vperm h d a b) none noPre enqueue s
def execViota (h : Header) (ty : Ty) (d : Dst) (s : State) : Out :=
  issueOp h 7 8 (.viota h ty d) none noPre enqueue s
def execVexp2 (h : Header) (d : Dst) (a : Src) (s : State) : Out :=
  issueOp h 7 8 (.vexp2 h d a) none noPre enqueue s
def execVrcp (h : Header) (d : Dst) (a : Src) (s : State) : Out :=
  issueOp h 7 8 (.vrcp h d a) none noPre enqueue s
def execVrsq (h : Header) (d : Dst) (a : Src) (s : State) : Out :=
  issueOp h 7 8 (.vrsq h d a) none noPre enqueue s
def execVsqrt (h : Header) (d : Dst) (a : Src) (s : State) : Out :=
  issueOp h 7 8 (.vsqrt h d a) none noPre enqueue s
def execVcvt (h : Header) (toT : Ty) (fr : Ty) (rnd : BitVec 3) (d : Dst) (a : Src) (s : State) : Out :=
  issueOp h 8 8 (.vcvt h toT fr rnd d a) none noPre enqueue s
def execVquant (h : Header) (ty : Ty) (src : BitVec 4) (d : Dst) (a : Src) (s : State) : Out :=
  issueOp h 8 16 (.vquant h ty src d a) none noPre enqueue s
def execVquant2 (h : Header) (ty : Ty) (d : Dst) (c : Dst) (a : Src) (s : State) : Out :=
  issueOp h 8 16 (.vquant2 h ty d c a) none noPre enqueue s
def execVdeq (h : Header) (ty : Ty) (toT : BitVec 4) (d : Dst) (a : Src) (s : State) : Out :=
  issueOp h 8 16 (.vdeq h ty toT d a) none noPre enqueue s
def execVsclr (h : Header) (d : Dst) (s : State) : Out :=
  issueOp h 9 8 (.vsclr h d) none noPre enqueue s
def execVstat (h : Header) (lg : BitVec 4) (d : Dst) (a : Src) (b : Src) (s : State) : Out :=
  issueOp h 9 8 (.vstat h lg d a b) none noPre enqueue s
def execVstatw (h : Header) (lg : BitVec 4) (d : Dst) (a : Src) (b : Src) (c : Src) (s : State) : Out :=
  issueOp h 9 16 (.vstatw h lg d a b c) none noPre enqueue s
def execVsmerge (h : Header) (d : Dst) (a : Src) (b : Src) (s : State) : Out :=
  issueOp h 9 8 (.vsmerge h d a b) none noPre enqueue s
def execVsdrain (h : Header) (opt : BitVec 3) (fill : Bool) (d : Dst) (a : Src) (b : Src) (s : State) : Out :=
  issueOp h 9 8 (.vsdrain h opt fill d a b) none noPre enqueue s
def execVsdrainNorm (h : Header) (fill : Bool) (d : Dst) (a : Src) (b : Src) (c : Src) (eps : BitVec 32) (aff : Bool) (lg : BitVec 3) (s : State) : Out :=
  issueOp h 9 16 (.vsdrainNorm h fill d a b c eps aff lg) none noPre enqueue s
def execVredmax (h : Header) (ty : Ty) (d : Dst) (a : Src) (s : State) : Out :=
  issueOp h 9 8 (.vredmax h ty d a) none noPre enqueue s
def execVredmin (h : Header) (ty : Ty) (d : Dst) (a : Src) (s : State) : Out :=
  issueOp h 9 8 (.vredmin h ty d a) none noPre enqueue s
def execVhist (h : Header) (d : Dst) (a : Src) (b : Src) (s : State) : Out :=
  issueOp h 9 8 (.vhist h d a b) none noPre enqueue s
def execVrank (h : Header) (d : Dst) (a : Src) (b : Src) (s : State) : Out :=
  issueOp h 9 8 (.vrank h d a b) none noPre enqueue s
def execVamerge (h : Header) (d : Dst) (a : Src) (b : Src) (s : State) : Out :=
  issueOp h 9 8 (.vamerge h d a b) none noPre enqueue s
def execVafin (h : Header) (d : Dst) (a : Src) (s : State) : Out :=
  issueOp h 9 8 (.vafin h d a) none noPre enqueue s
def execVld (h : Header) (ty : Ty) (d : Dst) (a : Src) (gb : G) (imm : BitVec 9) (s : State) : Out :=
  issueOp h 10 8 (.vld h ty d a gb imm) none (preOff imm (512 * regN ty) 8) enqueue s
def execVst (h : Header) (d : Dst) (gb : G) (imm : BitVec 9) (a : Src) (s : State) : Out :=
  issueOp h 10 8 (.vst h d gb imm a) none (preOff imm 512 8) enqueue s
def execVlds (h : Header) (ty : Ty) (d : Dst) (a : Src) (gb : G) (imm : BitVec 9) (stride : BitVec 16) (count : BitVec 10) (s : State) : Out :=
  issueOp h 10 16 (.vlds h ty d a gb imm stride count) none (preLds ty imm stride count) enqueue s
def execVgath (h : Header) (ty : Ty) (d : Dst) (a : Src) (b : Src) (s : State) : Out :=
  issueOp h 10 8 (.vgath h ty d a b) none noPre enqueue s
def execVscat (h : Header) (ty : Ty) (d : Dst) (a : Src) (b : Src) (s : State) : Out :=
  issueOp h 10 8 (.vscat h ty d a b) none noPre enqueue s
def execVldo (h : Header) (d : Dst) (a : Src) (row : BitVec 9) (s : State) : Out :=
  issueOp h 10 8 (.vldo h d a row) none noPre enqueue s
def execVsto (h : Header) (d : Dst) (row : BitVec 9) (a : Src) (s : State) : Out :=
  issueOp h 10 8 (.vsto h d row a) none noPre enqueue s
def execVqrd (h : Header) (d : Dst) (qn : BitVec 9) (s : State) : Out :=
  issueOp h 10 8 (.vqrd h d qn) none noPre enqueue s
def execAcdrain (h : Header) (ty : Ty) (band : BitVec 2) (now : Bool) (rnd : BitVec 2) (relu : Bool) (d : Dst) (a : Src) (s : State) : Out :=
  issueOp h 11 8 (.acdrain h ty band now rnd relu d a) none noPre enqueue s
def execAcfill (h : Header) (band : BitVec 2) (d : Dst) (a : Src) (s : State) : Out :=
  issueOp h 11 8 (.acfill h band d a) none noPre enqueue s

end Sys2Proof.Machine
end

