-- ==== Sys2Proof/Machine/Dispatch.lean ====
section
/-!
DEFINITION. One arm per constructor of `Instr`, each a direct call of its meaning.
-/
namespace Sys2Proof.Machine

def exec (i : Instr) (s : State) : Host.Outcome State Fault Refusal :=
  match i with
  | .nop h => Sys2Proof.Machine.execNop h s
  | .halt h => Sys2Proof.Machine.execHalt h s
  | .rdcs h gd r => Sys2Proof.Machine.execRdcs h gd r s
  | .wrcs h r ga => Sys2Proof.Machine.execWrcs h r ga s
  | .setfpc h img => Sys2Proof.Machine.execSetfpc h img s
  | .rdcyc h gd => Sys2Proof.Machine.execRdcyc h gd s
  | .brkpt h => Sys2Proof.Machine.execBrkpt h s
  | .tlbinv h ga kind => Sys2Proof.Machine.execTlbinv h ga kind s
  | .ctxsave h ga => Sys2Proof.Machine.execCtxsave h ga s
  | .ctxload h ga => Sys2Proof.Machine.execCtxload h ga s
  | .add h gd ga gb => Sys2Proof.Machine.execAdd h gd ga gb s
  | .sub h gd ga gb => Sys2Proof.Machine.execSub h gd ga gb s
  | .mul h gd ga gb => Sys2Proof.Machine.execMul h gd ga gb s
  | .mulh h gd ga gb => Sys2Proof.Machine.execMulh h gd ga gb s
  | .mulhn h gd ga gb => Sys2Proof.Machine.execMulhn h gd ga gb s
  | .div h gd ga gb => Sys2Proof.Machine.execDiv h gd ga gb s
  | .divn h gd ga gb => Sys2Proof.Machine.execDivn h gd ga gb s
  | .and h gd ga gb => Sys2Proof.Machine.execAnd h gd ga gb s
  | .or h gd ga gb => Sys2Proof.Machine.execOr h gd ga gb s
  | .xor h gd ga gb => Sys2Proof.Machine.execXor h gd ga gb s
  | .andn h gd ga gb => Sys2Proof.Machine.execAndn h gd ga gb s
  | .shl h gd ga gb => Sys2Proof.Machine.execShl h gd ga gb s
  | .shr h gd ga gb => Sys2Proof.Machine.execShr h gd ga gb s
  | .sra h gd ga gb => Sys2Proof.Machine.execSra h gd ga gb s
  | .min h gd ga gb => Sys2Proof.Machine.execMin h gd ga gb s
  | .max h gd ga gb => Sys2Proof.Machine.execMax h gd ga gb s
  | .clz h gd ga => Sys2Proof.Machine.execClz h gd ga s
  | .popc h gd ga => Sys2Proof.Machine.execPopc h gd ga s
  | .sel h gd ga gb ps => Sys2Proof.Machine.execSel h gd ga gb ps s
  | .addi h gd ga imm => Sys2Proof.Machine.execAddi h gd ga imm s
  | .muli h gd ga imm => Sys2Proof.Machine.execMuli h gd ga imm s
  | .andi h gd ga imm => Sys2Proof.Machine.execAndi h gd ga imm s
  | .ori h gd ga imm => Sys2Proof.Machine.execOri h gd ga imm s
  | .xori h gd ga imm => Sys2Proof.Machine.execXori h gd ga imm s
  | .shli h gd ga imm => Sys2Proof.Machine.execShli h gd ga imm s
  | .shri h gd ga imm => Sys2Proof.Machine.execShri h gd ga imm s
  | .srai h gd ga imm => Sys2Proof.Machine.execSrai h gd ga imm s
  | .li h gd imm => Sys2Proof.Machine.execLi h gd imm s
  | .lih h gd imm => Sys2Proof.Machine.execLih h gd imm s
  | .cmpeq h pd ga gb => Sys2Proof.Machine.execCmpeq h pd ga gb s
  | .cmpne h pd ga gb => Sys2Proof.Machine.execCmpne h pd ga gb s
  | .cmplt h pd ga gb => Sys2Proof.Machine.execCmplt h pd ga gb s
  | .cmple h pd ga gb => Sys2Proof.Machine.execCmple h pd ga gb s
  | .cmpltn h pd ga gb => Sys2Proof.Machine.execCmpltn h pd ga gb s
  | .cmplen h pd ga gb => Sys2Proof.Machine.execCmplen h pd ga gb s
  | .cmpeqi h pd ga imm => Sys2Proof.Machine.execCmpeqi h pd ga imm s
  | .cmplti h pd ga imm => Sys2Proof.Machine.execCmplti h pd ga imm s
  | .cmpltni h pd ga imm => Sys2Proof.Machine.execCmpltni h pd ga imm s
  | .pand h pd pa pb => Sys2Proof.Machine.execPand h pd pa pb s
  | .por h pd pa pb => Sys2Proof.Machine.execPor h pd pa pb s
  | .pxor h pd pa pb => Sys2Proof.Machine.execPxor h pd pa pb s
  | .pnot h pd pa => Sys2Proof.Machine.execPnot h pd pa s
  | .ld h sz g ga disp => Sys2Proof.Machine.execLd h sz g ga disp s
  | .st h sz g ga disp => Sys2Proof.Machine.execSt h sz g ga disp s
  | .lda h sz g ga disp => Sys2Proof.Machine.execLda h sz g ga disp s
  | .sta h sz g ga disp => Sys2Proof.Machine.execSta h sz g ga disp s
  | .spld h g off => Sys2Proof.Machine.execSpld h g off s
  | .spst h g off => Sys2Proof.Machine.execSpst h g off s
  | .lsmark h => Sys2Proof.Machine.execLsmark h s
  | .waitc h l ss c t => Sys2Proof.Machine.execWaitc h l ss c t s
  | .fence h sc kind => Sys2Proof.Machine.execFence h sc kind s
  | .amo h op w64 sc ord gd ga gb => Sys2Proof.Machine.execAmo h op w64 sc ord gd ga gb s
  | .cas h w64 sc ord gd ga gb => Sys2Proof.Machine.execCas h w64 sc ord gd ga gb s
  | .amoa h op w64 sc ord gd ga gb => Sys2Proof.Machine.execAmoa h op w64 sc ord gd ga gb s
  | .casa h w64 sc ord gd ga gb => Sys2Proof.Machine.execCasa h w64 sc ord gd ga gb s
  | .pbr h bt off => Sys2Proof.Machine.execPbr h bt off s
  | .pbrg h bt ga => Sys2Proof.Machine.execPbrg h bt ga s
  | .br h bt => Sys2Proof.Machine.execBr h bt s
  | .brl h bt gl => Sys2Proof.Machine.execBrl h bt gl s
  | .trap h code => Sys2Proof.Machine.execTrap h code s
  | .tfence h => Sys2Proof.Machine.execTfence h s
  | .yield h clean mask => Sys2Proof.Machine.execYield h clean mask s
  | .eret h => Sys2Proof.Machine.execEret h s
  | .twait h spc x => Sys2Proof.Machine.execTwait h spc x s
  | .drop h spc x => Sys2Proof.Machine.execDrop h spc x s
  | .bump h spc x => Sys2Proof.Machine.execBump h spc x s
  | .tsync h spc obj => Sys2Proof.Machine.execTsync h spc obj s
  | .trel h spc obj => Sys2Proof.Machine.execTrel h spc obj s
  | .tview h gd spc obj => Sys2Proof.Machine.execTview h gd spc obj s
  | .barinit h bar count gang => Sys2Proof.Machine.execBarinit h bar count gang s
  | .bararr h bar => Sys2Proof.Machine.execBararr h bar s
  | .barwait h bar => Sys2Proof.Machine.execBarwait h bar s
  | .barsync h bar => Sys2Proof.Machine.execBarsync h bar s
  | .vadd h ty d a b => Sys2Proof.Machine.execVadd h ty d a b s
  | .vsub h ty d a b => Sys2Proof.Machine.execVsub h ty d a b s
  | .vmul h ty d a b => Sys2Proof.Machine.execVmul h ty d a b s
  | .vmin h ty d a b => Sys2Proof.Machine.execVmin h ty d a b s
  | .vmax h ty d a b => Sys2Proof.Machine.execVmax h ty d a b s
  | .vand h ty d a b => Sys2Proof.Machine.execVand h ty d a b s
  | .vor h ty d a b => Sys2Proof.Machine.execVor h ty d a b s
  | .vxor h ty d a b => Sys2Proof.Machine.execVxor h ty d a b s
  | .vshl h ty d a b => Sys2Proof.Machine.execVshl h ty d a b s
  | .vshr h ty d a b => Sys2Proof.Machine.execVshr h ty d a b s
  | .vsra h ty d a b => Sys2Proof.Machine.execVsra h ty d a b s
  | .vwmul h ty d a b => Sys2Proof.Machine.execVwmul h ty d a b s
  | .vwadd h ty d a b => Sys2Proof.Machine.execVwadd h ty d a b s
  | .vfma h ty d a b c => Sys2Proof.Machine.execVfma h ty d a b c s
  | .vabs h ty d a => Sys2Proof.Machine.execVabs h ty d a s
  | .vneg h ty d a => Sys2Proof.Machine.execVneg h ty d a s
  | .vnot h ty d a => Sys2Proof.Machine.execVnot h ty d a s
  | .vcmp h cond ty d a b => Sys2Proof.Machine.execVcmp h cond ty d a b s
  | .vsel h ty d a b c => Sys2Proof.Machine.execVsel h ty d a b c s
  | .vbcast h ty d gb => Sys2Proof.Machine.execVbcast h ty d gb s
  | .vlane h ty gd a gb imm => Sys2Proof.Machine.execVlane h ty gd a gb imm s
  | .vperm h d a b => Sys2Proof.Machine.execVperm h d a b s
  | .viota h ty d => Sys2Proof.Machine.execViota h ty d s
  | .vexp2 h d a => Sys2Proof.Machine.execVexp2 h d a s
  | .vrcp h d a => Sys2Proof.Machine.execVrcp h d a s
  | .vrsq h d a => Sys2Proof.Machine.execVrsq h d a s
  | .vsqrt h d a => Sys2Proof.Machine.execVsqrt h d a s
  | .vcvt h toT fr rnd d a => Sys2Proof.Machine.execVcvt h toT fr rnd d a s
  | .vquant h ty src d a => Sys2Proof.Machine.execVquant h ty src d a s
  | .vquant2 h ty d c a => Sys2Proof.Machine.execVquant2 h ty d c a s
  | .vdeq h ty toT d a => Sys2Proof.Machine.execVdeq h ty toT d a s
  | .vsclr h d => Sys2Proof.Machine.execVsclr h d s
  | .vstat h lg d a b => Sys2Proof.Machine.execVstat h lg d a b s
  | .vstatw h lg d a b c => Sys2Proof.Machine.execVstatw h lg d a b c s
  | .vsmerge h d a b => Sys2Proof.Machine.execVsmerge h d a b s
  | .vsdrain h opt fill d a b => Sys2Proof.Machine.execVsdrain h opt fill d a b s
  | .vsdrainNorm h fill d a b c eps aff lg => Sys2Proof.Machine.execVsdrainNorm h fill d a b c eps aff lg s
  | .vredmax h ty d a => Sys2Proof.Machine.execVredmax h ty d a s
  | .vredmin h ty d a => Sys2Proof.Machine.execVredmin h ty d a s
  | .vhist h d a b => Sys2Proof.Machine.execVhist h d a b s
  | .vrank h d a b => Sys2Proof.Machine.execVrank h d a b s
  | .vamerge h d a b => Sys2Proof.Machine.execVamerge h d a b s
  | .vafin h d a => Sys2Proof.Machine.execVafin h d a s
  | .vld h ty d a gb imm => Sys2Proof.Machine.execVld h ty d a gb imm s
  | .vst h d gb imm a => Sys2Proof.Machine.execVst h d gb imm a s
  | .vlds h ty d a gb imm stride count => Sys2Proof.Machine.execVlds h ty d a gb imm stride count s
  | .vgath h ty d a b => Sys2Proof.Machine.execVgath h ty d a b s
  | .vscat h ty d a b => Sys2Proof.Machine.execVscat h ty d a b s
  | .vldo h d a row => Sys2Proof.Machine.execVldo h d a row s
  | .vsto h d row a => Sys2Proof.Machine.execVsto h d row a s
  | .vqrd h d qn => Sys2Proof.Machine.execVqrd h d qn s
  | .mma h ty d a b o => Sys2Proof.Machine.execMma h ty d a b o s
  | .mmas h ty d a b o => Sys2Proof.Machine.execMmas h ty d a b o s
  | .mgath h ty d a b ti tj o pm1 => Sys2Proof.Machine.execMgath h ty d a b ti tj o pm1 s
  | .mgroup h ty d a b fx off9 o => Sys2Proof.Machine.execMgroup h ty d a b fx off9 o s
  | .acalloc h gd count => Sys2Proof.Machine.execAcalloc h gd count s
  | .acfree h obj => Sys2Proof.Machine.execAcfree h obj s
  | .acband h obj bands strms => Sys2Proof.Machine.execAcband h obj bands strms s
  | .aczero h d => Sys2Proof.Machine.execAczero h d s
  | .acdrain h ty band now rnd relu d a => Sys2Proof.Machine.execAcdrain h ty band now rnd relu d a s
  | .acfill h band d a => Sys2Proof.Machine.execAcfill h band d a s
  | .cp h spc d gs gc doff part => Sys2Proof.Machine.execCp h spc d gs gc doff part s
  | .cpst h spc gs gc a band => Sys2Proof.Machine.execCpst h spc gs gc a band s
  | .cpg h d gs c => Sys2Proof.Machine.execCpg h d gs c s
  | .cps h gs a c => Sys2Proof.Machine.execCps h gs a c s
  | .cpq h qn gs gc => Sys2Proof.Machine.execCpq h qn gs gc s
  | .cppub h spc obj => Sys2Proof.Machine.execCppub h spc obj s
  | .rfence h => Sys2Proof.Machine.execRfence h s
  | .qpost h d c gk gl qn sigma => Sys2Proof.Machine.execQpost h d c gk gl qn sigma s
  | .kvapp h gk gp a => Sys2Proof.Machine.execKvapp h gk gp a s
  | .coll h d gb => Sys2Proof.Machine.execColl h d gb s
  | .trigarm h gi gb => Sys2Proof.Machine.execTrigarm h gi gb s
  | .trigclr h gi => Sys2Proof.Machine.execTrigclr h gi s
  | .tsend h gdev gi => Sys2Proof.Machine.execTsend h gdev gi s
  | .nextit h pd => Sys2Proof.Machine.execNextit h pd s
  | .done h => Sys2Proof.Machine.execDone h s
  | .spawn h ga => Sys2Proof.Machine.execSpawn h ga s
  | .signal h ga => Sys2Proof.Machine.execSignal h ga s
  | .pendingValueArrival c n k => Sys2Proof.Machine.execPendingValueArrival c n k s
  | .accessPerformed c n k => Sys2Proof.Machine.execAccessPerformed c n k s
  | .targetFetchReady c n b => Sys2Proof.Machine.execTargetFetchReady c n b s
  | .engineStart c e => Sys2Proof.Machine.execEngineStart c e s
  | .readRetire u => Sys2Proof.Machine.execReadRetire u s
  | .kStep c => Sys2Proof.Machine.execKStep c s
  | .copyElementStep u => Sys2Proof.Machine.execCopyElementStep u s
  | .operationCommit u => Sys2Proof.Machine.execOperationCommit u s
  | .shadowPublish c spc idx => Sys2Proof.Machine.execShadowPublish c spc idx s
  | .barrierRelease c bar => Sys2Proof.Machine.execBarrierRelease c bar s
  | .waitLimitExpiry w => Sys2Proof.Machine.execWaitLimitExpiry w s
  | .stackScan u k => Sys2Proof.Machine.execStackScan u k s
  | .stackPartialReturn u k => Sys2Proof.Machine.execStackPartialReturn u k s
  | .qpostAnswerComplete u => Sys2Proof.Machine.execQpostAnswerComplete u s
  | .kvappPerformed u => Sys2Proof.Machine.execKvappPerformed u s
  | .collReceiveReduceStep u ii part => Sys2Proof.Machine.execCollReceiveReduceStep u ii part s
  | .collComplete u o => Sys2Proof.Machine.execCollComplete u o s
  | .collMemberTimeout u => Sys2Proof.Machine.execCollMemberTimeout u s
  | .triggerPacketArrival stack entry => Sys2Proof.Machine.execTriggerPacketArrival stack entry s
  | .triggerCommandStart stack => Sys2Proof.Machine.execTriggerCommandStart stack s
  | .triggerCommandComplete stack => Sys2Proof.Machine.execTriggerCommandComplete stack s
  | .kernelComplete lid => Sys2Proof.Machine.execKernelComplete lid s
  | .sqEntryRead q => Sys2Proof.Machine.execSqEntryRead q s
  | .dispatchPlace die => Sys2Proof.Machine.execDispatchPlace die s
  | .victimSelection die => Sys2Proof.Machine.execVictimSelection die s
  | .shuttleAssign lid => Sys2Proof.Machine.execShuttleAssign lid s
  | .nextitAnswer c n => Sys2Proof.Machine.execNextitAnswer c n s
  | .taskYield c k => Sys2Proof.Machine.execTaskYield c k s
  | .yieldDeadlineExpiry c k => Sys2Proof.Machine.execYieldDeadlineExpiry c k s
  | .scanOut c k => Sys2Proof.Machine.execScanOut c k s
  | .taskRestore token => Sys2Proof.Machine.execTaskRestore token s
  | .faultStop c k => Sys2Proof.Machine.execFaultStop c k s
  | .faultVectoring c k => Sys2Proof.Machine.execFaultVectoring c k s
  | .faultQueueEntry f => Sys2Proof.Machine.execFaultQueueEntry f s
  | .fqcmdResume f token => Sys2Proof.Machine.execFqcmdResume f token s
  | .fqcmdTerminate f token => Sys2Proof.Machine.execFqcmdTerminate f token s
  | .fqheadWrite f v => Sys2Proof.Machine.execFqheadWrite f v s
  | .eccCorrectableFreeze c => Sys2Proof.Machine.execEccCorrectableFreeze c s
  | .eccFreezeEnd c => Sys2Proof.Machine.execEccFreezeEnd c s
  | .onchipUncorrectableError c st idx => Sys2Proof.Machine.execOnchipUncorrectableError c st idx s
  | .patrolScrub stack loc corr => Sys2Proof.Machine.execPatrolScrub stack loc corr s
  | .bankSpare stack die bank => Sys2Proof.Machine.execBankSpare stack die bank s
  | .refresh stack bank => Sys2Proof.Machine.execRefresh stack bank s
  | .debugStopped ctx => Sys2Proof.Machine.execDebugStopped ctx s
  | .breakpointHit c n => Sys2Proof.Machine.execBreakpointHit c n s
  | .telemetryTick => Sys2Proof.Machine.execTelemetryTick s
  | .dumpWrite ctx => Sys2Proof.Machine.execDumpWrite ctx s
  | .checkpointEpochBegin f => Sys2Proof.Machine.execCheckpointEpochBegin f s
  | .checkpointEpochComplete f => Sys2Proof.Machine.execCheckpointEpochComplete f s
  | .replay f ep => Sys2Proof.Machine.execReplay f ep s
  | .scrubComplete q => Sys2Proof.Machine.execScrubComplete q s
  | .partmapWrite v => Sys2Proof.Machine.execPartmapWrite v s
  | .qmapWrite v => Sys2Proof.Machine.execQmapWrite v s
  | .ctxbindWrite ctx v => Sys2Proof.Machine.execCtxbindWrite ctx v s
  | .ctxrootWrite f ctx v => Sys2Proof.Machine.execCtxrootWrite f ctx v s
  | .savepoolWrite f ctx v => Sys2Proof.Machine.execSavepoolWrite f ctx v s
  | .contextEvbWrite f ctx v => Sys2Proof.Machine.execContextEvbWrite f ctx v s
  | .sqctlWrite f q v => Sys2Proof.Machine.execSqctlWrite f q v s
  | .dbell f q v => Sys2Proof.Machine.execDbell f q v s
  | .dbgctlStop f ctx => Sys2Proof.Machine.execDbgctlStop f ctx s
  | .dbgctlForce f ctx => Sys2Proof.Machine.execDbgctlForce f ctx s
  | .dbgctlGo f ctx => Sys2Proof.Machine.execDbgctlGo f ctx s
  | .ttrigWrite f ctx v => Sys2Proof.Machine.execTtrigWrite f ctx v s
  | .dumpctlGo f ctx => Sys2Proof.Machine.execDumpctlGo f ctx s
  | .cktgtWrite f v => Sys2Proof.Machine.execCktgtWrite f v s
  | .pwrctlPp v => Sys2Proof.Machine.execPwrctlPp v s
  | .pwrctlQgate v => Sys2Proof.Machine.execPwrctlQgate v s
  | .pwrctlSref v => Sys2Proof.Machine.execPwrctlSref v s
  | .ppTransitionComplete => Sys2Proof.Machine.execPpTransitionComplete s
  | .srefExitComplete stack => Sys2Proof.Machine.execSrefExitComplete stack s
  | .pmcsrD3hot => Sys2Proof.Machine.execPmcsrD3hot s
  | .junctionTrip jmax => Sys2Proof.Machine.execJunctionTrip jmax s
  | .getDebugNonce => Sys2Proof.Machine.execGetDebugNonce s
  | .debugUnlock tok => Sys2Proof.Machine.execDebugUnlock tok s
  | .lockInterfaceRequest f => Sys2Proof.Machine.execLockInterfaceRequest f s
  | .getDeviceInterfaceReport f => Sys2Proof.Machine.execGetDeviceInterfaceReport f s
  | .startInterfaceRequest f nonce => Sys2Proof.Machine.execStartInterfaceRequest f nonce s
  | .stopInterfaceRequest f => Sys2Proof.Machine.execStopInterfaceRequest f s
  | .frozenItemWrite f => Sys2Proof.Machine.execFrozenItemWrite f s
  | .keyProg f set key => Sys2Proof.Machine.execKeyProg f set key s
  | .kSetGo f set => Sys2Proof.Machine.execKSetGo f set s
  | .kSetStop f set => Sys2Proof.Machine.execKSetStop f set s
  | .keyset f k key => Sys2Proof.Machine.execKeyset f k key s
  | .getMeasurements => Sys2Proof.Machine.execGetMeasurements s
  | .vfFlr f => Sys2Proof.Machine.execVfFlr f s
  | .pf0Flr => Sys2Proof.Machine.execPf0Flr s
  | .perstDeassert => Sys2Proof.Machine.execPerstDeassert s
  | .bringupComplete ok => Sys2Proof.Machine.execBringupComplete ok s
  | .bar2Access f op off size v => Sys2Proof.Machine.execBar2Access f op off size v s
  | .linkFlitReceive port fl good => Sys2Proof.Machine.execLinkFlitReceive port fl good s
  | .portRetrain port two => Sys2Proof.Machine.execPortRetrain port two s
  | .laneRestore port => Sys2Proof.Machine.execLaneRestore port s
  | .e2eResend port => Sys2Proof.Machine.execE2eResend port s
  | .ingressRequest port fl => Sys2Proof.Machine.execIngressRequest port fl s
  | .registerWrite f r v => Sys2Proof.Machine.execRegisterWrite f r v s
  | .salendCommand cmd => Sys2Proof.Machine.execSalendCommand cmd s
  | .hostInvalidation ctx va => Sys2Proof.Machine.execHostInvalidation ctx va s
  | .firmwarePlacement c n pc => Sys2Proof.Machine.execFirmwarePlacement c n pc s

end Sys2Proof.Machine
end

