-- ==== Sys2Proof/Machine/Sched.lean ====
section
/-!
DEFINITION. Who moves next where the schedule names nobody: the earliest due of the acts that change something. Of those of one
cycle, arrivals and commits go first, then issues in the rotation of R290, then what comes after a cycle's issues.
-/
namespace Sys2Proof.Machine

/-- An act with its earliest cycle and its place among those of one cycle. -/
abbrev Cand := Nat × Nat × Act

/-- The order of candidates. -/
def candLt (a b : Cand) : Bool := a.1 < b.1 || (a.1 == b.1 && a.2.1 < b.2.1)

/-- An event as a candidate. -/
def evAt (due : Nat) (i : Instr) : Cand := (due, 0, .ev i)

/-- An event that comes after the issues of its cycle (R21, R291, R297). -/
def evEnd (due : Nat) (i : Instr) : Cand := (due, 20, .ev i)

/-- The numbers of a list's elements. -/
def idxs (l : List α) : List Nat := List.range l.length

/-- What a stream may do, and what happens to what it has in flight. -/
def strmCands (s : State) (k : Nat) (st : Stream) : List Cand :=
  let c := k / 8
  let n := k % 8
  (if s.canIssue k && !s.stall.contains k then [(s.issueDue k, 1 + s.rotPos k (s.issueDue k), .issue c n)] else [])
    ++ (List.zip (idxs st.arr) st.arr).map (fun x => evAt (max s.now x.2.due) (.pendingValueArrival c n x.1))
    ++ ((idxs st.mq).filter (mayPerform s k)).map (fun i => evAt s.now (.accessPerformed c n i))
    ++ st.b.filterMap (fun e => match e.2.st with
      | .due d => some (evAt d (.targetFetchReady c n e.1))
      | _ => none)
    ++ (match st.barW with
      | some b =>
        let x := s.barOf b
        [evAt (max s.now (x.rel + barLat x b c)) (.barrierRelease c (b % 64))]
      | none => [])
    ++ (match st.wait with
      | some w => if s.stall.contains k then [evEnd (w.since + (s.taskAt k).wlim + 1) (.waitLimitExpiry (.stream c n))] else []
      | none => [])
    ++ (if st.atNext then
        (match (mget {} s.ctl.grps (s.grpKey k)).asg[st.nx.taken]? with
          | some a =>
            let t := s.issueDue k
            [(max t a.1, 1 + s.rotPos k t, .ev (.nextitAnswer c n))]
          | none => [])
      else [])

/-- What may happen to an operation. -/
def opCands (s : State) (o : Op) : List Cand :=
  let due := max s.now o.due
  let u := o.uid
  let limit : List Cand := match o.wait with
    | some w => [evEnd (w + (s.taskOf o.tk).wlim + 1) (.waitLimitExpiry (.op u))]
    | none => []
  let pub : List Cand := o.dsts.filterMap fun x =>
    let k := s.opKey o x.1 x.2.1
    if (x.1 == .o || x.1 == .f) && o.ph == .tail then some (evAt s.now (.shadowPublish o.core x.1 (k % 256))) else none
  limit ++ (match o.ph, o.eng with
    | .queued, e => (match s.nextHead o.core e with
        | some x => if x.uid = u then [evEnd (s.startAt o.core e o) (.engineStart o.core e)] else []
        | none => if (s.headOf o.sk e).map (·.uid) = some u then [evEnd s.now (.engineStart o.core e)] else [])
    | _, .vec => [evAt (max s.now o.rdue) (.readRetire u), evAt due (.operationCommit u)] ++ pub
    | .run, .mat => [evAt due (.kStep o.core)]
    | .tail, .mat => [evAt s.now (.readRetire u), evAt due (.operationCommit u)]
    | .run, .cpy => [evAt due (.copyElementStep u)]
    | .tail, .cpy => pub ++ (o.alsoNames.map fun x => evAt s.now (.shadowPublish o.core x.1 (s.opKey o x.1 x.2 % 256)))
    | _, .near =>
      (match o.i with
        | .qpost _ _ _ _ _ _ _ => (idxs (opStacks s o)).map (fun k => evAt due (.stackScan u k))
            ++ (List.range 8).map (fun k => evAt due (.stackPartialReturn u k)) ++ [evAt due (.qpostAnswerComplete u)]
        | .kvapp _ _ _ _ => [evAt due (.kvappPerformed u)]
        | .coll _ _ _ => evAt due (.collComplete u (.ok false false false))
            :: if o.guard then [evAt (o.at0 + 270000000) (.collMemberTimeout u)] else []
        | _ => []))

/-- What may happen to a task. -/
def taskCands (s : State) (tk : Nat) (t : Task) : List Cand :=
  let c := tk / 4
  let k := tk % 4
  let after (x : Option FaultRec) : Nat := max s.now ((x.map fun f => f.fcyc + 1).getD 0)
  (if t.stat = .stopping then [evAt (after t.fault) (.faultStop c k)] else [])
    ++ (if t.stat = .stopped then [evAt s.now (.faultVectoring c k)] else [])
    ++ (match t.yreq with
      | some d => [evAt s.now (.taskYield c k), evAt (max s.now (d + 1)) (.yieldDeadlineExpiry c k)]
      | none => [])

/-- What a die's control complex may do: serve a queue, place or restore an instance, scan out what a placement claims, ask for
yields. -/
def dieCands (s : State) (d : Nat) : List Cand :=
  let due := max s.now (mget 0 s.ctl.placeC d)
  ((s.sqNext d).map fun q => evAt s.now (.sqEntryRead q)).toList
    ++ (match s.nextPlace d with
      | some (i, p) => ((toScan s i p).map fun x => evAt s.now (.scanOut x.1 x.2.1))
          ++ (match i.token with
            | some t => [evAt due (.taskRestore t)]
            | none => [evAt due (.dispatchPlace d)])
      | none => [])
    ++ (if s.ctl.pendI.any (fun i => i.die == d) || s.task.any (fun e => e.1 / 320 == d && e.2.yreq.isSome) then
      [evAt s.now (.victimSelection d)] else [])

/-- What a port may do: serve its next request, and have what it sent before it went down sent again. -/
def portCands (s : State) (e : Nat × Port) : List Cand :=
  ((nextRequest s e.1).map fun fl => evAt s.now (.ingressRequest e.1 fl)).toList
    ++ (if !e.2.redo.isEmpty && !(healthyPorts s).isEmpty then [evAt s.now (.e2eResend e.1)] else [])

/-- What the device around the cores may do. -/
def devCands (s : State) : List Cand :=
  let at' (i : Instr) : Cand := evAt s.now i
  s.ctl.lnch.flatMap (fun l => (if l.total ≤ l.ended then [at' (.kernelComplete l.lid)] else [])
      ++ (match leastBy reqLt l.sh.reqs with
        | some r => [evAt (max s.now (max r.1 l.sh.next + 1)) (.shuttleAssign l.lid)]
        | none => []))
    ++ [0, 1].flatMap (dieCands s) ++ s.dev.ports.flatMap (portCands s)
    ++ (s.dev.stks.flatMap fun e => [at' (.triggerCommandComplete e.1), at' (.triggerCommandStart e.1)])
    ++ (s.dev.stks.filterMap fun e => if e.2.srefX then some (at' (.srefExitComplete e.1)) else none)
    ++ s.dev.funs.flatMap (fun e => (if e.2.fqpend.isEmpty then [] else [at' (.faultQueueEntry e.1)])
      ++ (if e.2.epoch.isSome then [at' (.checkpointEpochComplete e.1)] else [])
      ++ (if epochReady e.2 then [evAt (max s.now (epochDue s e.2)) (.checkpointEpochBegin e.1)] else []))
    ++ s.dev.ctxs.flatMap (fun e => (if e.2.dbgStop then [at' (.debugStopped e.1)] else []) ++ [at' (.dumpWrite e.1)])
    ++ (s.core.filterMap fun e => e.2.frz.map fun d => evAt (max s.now d) (.eccFreezeEnd e.1))
    ++ ([0, 1, 2, 3].filter fun q => bitN s.dev.pf0.scrub.toNat q).map (fun q => at' (.scrubComplete q))
    ++ (if s.dev.pf0.newPP.isSome then [at' .ppTransitionComplete] else [])
    ++ (match tickK s with
      | some k => [evAt (nextTick s k) .telemetryTick]
      | none => [])

/-- Whether an act changes the state beside which streams are to try again. -/
def acts (exec : Instr → State → Out) (s : State) : Act → Bool
  | .ev i => match exec i s with
    | .next t => t.wake != s.wake
    | _ => true
  | _ => true

/-- The first of the sorted candidates that changes something. -/
def firstAct (exec : Instr → State → Out) (s : State) : List Cand → Option Cand
  | [] => none
  | c :: r => if acts exec s c.2.2 then some c else firstAct exec s r

/-- The earliest cycle in which a stalled stream's fixed-latency result lands or a count instruction sees a change of counts. -/
def nextLand (s : State) : Option Nat :=
  let cs := if s.stall.any fun k => (s.strmOf k).wait.isSome then
      s.obj.cnts.flatMap fun e => [e.2.wc + 1, e.2.wc + 2, e.2.lc + 1, e.2.lc + 2]
    else []
  leastBy (fun a b => a < b) (((s.stall.flatMap fun k => (s.strmOf k).land.map (·.due)) ++ cs).filter (s.now < ·))

/-- The next act of an empty schedule (DESIGN CHOICE, assumption 1). -/
def auto (exec : Instr → State → Out) (s : State) : Act :=
  let l := s.strm.flatMap (fun e => strmCands s e.1 e.2) ++ s.ops.flatMap (opCands s) ++ s.task.flatMap (fun e => taskCands s e.1 e.2)
    ++ devCands s
  match s.ctl.rels, firstAct exec s (sortBy candLt l), nextLand s with
  | _ :: _, _, _ => .idle 1
  | [], none, none => .idle 1
  | [], none, some d => .idle (d - s.now)
  | [], some c, none => c.2.2
  | [], some c, some d => if d ≤ c.1 then .idle (d - s.now) else c.2.2

end Sys2Proof.Machine
end

