-- ==== Sys2Proof/Machine/Step.lean ====
section
/-!
DEFINITION. One step of the machine: the act that the schedule names, or the earliest due; and where an
instruction stands that the next step is to run.
-/
namespace Sys2Proof.Machine

/-- Nobody moves for some cycles: stalled streams try again, and asked-for releases are applied. -/
def idle (s : State) (n : Nat) : State := settleGraph { s with now := s.now + n, stall := [] }

/-- Perform an act. -/
def doAct (a : Act) (s : State) : Host.Outcome State Fault Refusal :=
  match a with
  | .issue c n => issueStep exec (8 * c + n) s
  | .ev i => exec i s
  | .idle n => .next (idle s n)

/-- What a step adds to an act: the counted waits that have passed 1,024 cycles with it are events (R351). -/
def told (s : State) (o : Host.Outcome State Fault Refusal) : Host.Outcome State Fault Refusal :=
  match o with
  | .next t => .next (passWaits s t)
  | x => x

/-- One step. With every clock stopped only PERST# acts (R375). -/
def step (s : State) : Host.Outcome State Fault Refusal :=
  match s.sched with
  | a :: r => if s.dev.pf0.trip && a != .ev .perstDeassert then .fault .clocksStopped else told s (doAct a { s with sched := r })
  | [] => if s.dev.pf0.trip then .fault .clocksStopped else told s (doAct (auto exec s) s)

/-- A window of every object, for a task that is placed to run one instruction. -/
def wholeWin : BitVec 64 := mkWin 0 256 0 192 64 0 256 0 64

/-- The state whose next step fetches and runs an instruction: stream 0 of core 0 runs a task in slot 0 (one is placed with
whole windows where the slot holds none) at address 0, which its translation cache maps to memory that holds the
words, in a context that is bound; it is the stream whose turn it is, and a privileged instruction finds it in handler mode
(DESIGN CHOICE, assumption 4). -/
def State.withFetchWord (s : State) (_nbits w : Nat) : State :=
  let t := s.taskOf 0
  let st := s.strmOf 0
  let priv := privWord (w % 2^64)
  let t1 : Task := { (if t.stat = .empty then { token := 1, phys := [0], gslots := [0], win := wholeWin } else t) with
    stat := if priv then .handler else .run }
  let st1 : Stream := { st with
    run := .run, slot := 0, tnum := 0, mode := if priv then .handler else .task, pc := 0, dstop := false, nextIss := 0, barW := none }
  let c := s.coreOf 0
  let e : Tlb := ⟨t1.ctx, 0, 0, 0x19F, 0⟩
  let x := s.ctxOf t1.ctx
  let s1 := (((s.setTask 0 t1).setStrm 0 st1).setCore 0
    { c with tlb := e :: c.tlb.filter fun y => !y.hits t1.ctx 0, frz := none, hold := false }).setCtx t1.ctx
    { x with dbgStop := false, dbgctl := x.dbgctl &&& ~~~1, bind := if x.bind.toNat % 8 = 7 then 0 else x.bind }
  let s2 := s1.setPf0 { s1.dev.pf0 with newPP := none, trip := false }
  { s2.setMem (writeN s2.mem (memKey ⟨.dev (s2.ownerC t1.ctx), 0⟩) 16 w) with sched := [.issue 0 0], stall := [1, 2, 3, 4, 5, 6, 7] }

end Sys2Proof.Machine
end

