-- ==== Sys2Proof/Safety.lean ====
section
/-!
DEFINITION. The terms in which claims are stated: the canonical form of memory as the invariant of a state, a run that goes on,
what a register reads in a cycle, when an instruction may issue, and what an issue changes and leaves.
-/
namespace Sys2Proof.Machine

/-- Memory is in canonical form. -/
abbrev State.memOk (s : State) : Prop := memWf s.mem

/-- `n` steps of the machine answer a next state. -/
abbrev safeRun (n : Nat) (s : State) : Prop := ∃ t, Sys2Proof.core.run n s = .next t

/-- The value of g register `r` as an instruction of the stream issued in cycle `c` finds it (R89 rule 1). -/
def gAt (st : Stream) (c r : Nat) : Word := mget 0 (settle st c).g r

/-- The value of predicate `i` as an instruction of the stream issued in cycle `c` finds it (R89 rule 1). -/
def pAt (st : Stream) (c i : Nat) : Bool := bitN (settle st c).p.toNat i

/-- The current stream runs, in a mode that may issue an instruction of major `mj` (R331). -/
abbrev State.mayRun (s : State) (mj : Nat) : Prop := s.me.run = .run ∧ (s.me.mode = .handler → mj < 6)

/-- The current stream runs, in a mode that may issue an instruction of major `mj` (R331), and the guard holds (R48). -/
abbrev State.runs (s : State) (h : Header) (mj : Nat) : Prop := s.mayRun mj ∧ s.me.guard h = true

/-- The current stream with its landed results: what an instruction acts on. -/
def State.start (s : State) : Stream := s.me

/-- The stream after an issue (R49, R50): its PC at `pc`, its next issue, SW, no wait, and, in task mode, SYNCARR clear (R137). -/
def Stream.after (st : Stream) (h : Header) (now : Nat) (pc : Word) : Stream :=
  { st with pc := pc, nextIss := now + 1 + h.gap.toNat, iss0 := now + 1, sw := h.sw, wait := none, wtc := none, bphit := false
            syncArr := if st.mode = .task then false else st.syncArr }

/-- What an issue that acts on its own stream alone leaves: every byte of memory; every other stream; the tasks, the counted
objects and their counts, the barriers, the engine operations, the translation caches, the records; the control
complexes and the device around the cores. Of its core it changes the accounts of issues only (R290, R350). -/
def State.ownOnly (s t : State) : Prop :=
  (∀ a, readB t.mem a = readB s.mem a) ∧ (∀ k, k ≠ s.cur → t.strmOf k = s.strmOf k) ∧ t.task = s.task ∧ t.obj = s.obj
    ∧ t.ops = s.ops ∧ t.clus = s.clus ∧ t.mpois = s.mpois ∧ t.dirty = s.dirty ∧ t.ctl = s.ctl ∧ t.dev = s.dev ∧ t.now = s.now
    ∧ t.cur = s.cur ∧ ∀ c, (t.coreOf c).tlb = (s.coreOf c).tlb ∧ (t.coreOf c).recs = (s.coreOf c).recs
      ∧ (t.coreOf c).frz = (s.coreOf c).frz ∧ (t.coreOf c).busy = (s.coreOf c).busy

/-- `t` is what an issue leaves that gives the current stream of `s` the form `st` and control the PC `pc`, and turns the rest
of the machine into `u`'s: the core's latest issue is this one (R49, R290), and stalled streams try again. -/
def State.issues (s u : State) (h : Header) (pc : Word) (st : Stream) (t : State) : Prop :=
  u.ownOnly t ∧ t.strmOf s.cur = st.after h s.now pc ∧ (t.coreOf s.myCore).issC = s.now ∧ (t.coreOf s.myCore).last = s.cur % 8
    ∧ t.stall = []

/-- The current stream is one of its task's, in a slot of its core, where its streams are. -/
abbrev State.placed (s : State) : Prop := s.me.slot < 4 ∧ bitN s.myTask.out.toNat 0 = false ∧ s.cur % 8 ∈ s.myTask.phys ∧ s.myTask.phys.Nodup
  ∧ ∀ n ∈ s.myTask.phys, n < 8

/-- A fault of the current stream's task mode goes to its handler, with the frame page at location `l` and `u` what its
translation leaves: the task runs with an EVB and no fault reported, no other stream of it may still fault in this cycle,
nothing it issued to the vector engine has started and no matrix operation of it is in a step, its context neither samples nor traces
faults, and the frame page can be written, in a block that no epoch has still to copy (R24, R327, R328, R331, R343, R349, R351). -/
def State.vectorsTo (s : State) (l : Loc) (u : State) : Prop :=
  s.placed ∧ s.me.mode = .task ∧ s.myTask.stat = .run ∧ s.myTask.fault = none ∧ s.myTask.evb ≠ 0 ∧
    (s.ctxOf s.myCtx).ttrig = 0 ∧ sampleK (s.ctxOf s.myCtx) = none ∧ s.mayStill (s.tkey s.cur) s.cur = false ∧
    (∀ o ∈ s.ops, o.core = s.myCore → o.slot = s.me.slot → (o.eng = .vec → o.ph = .queued) ∧ o.inStep s.now = false) ∧
    reachable s s.myCtx l = true ∧ s.ckHold (memKey l) = false ∧
    ∃ e, translate s s.myCore s.myCtx (s.myTask.evb.toNat + 4096) .w = .ok l e u

/-- `t` is what taking fault `f` of the current stream leaves where it enters the handler (R329, R331): its task is in its
handler, and keeps the fault; the stream is in handler mode with FINFO and the handler's PC; the frame page at memory key
`k` holds FINFO, FADDR and FCYC at 0, 8 and 16. Beside that page, memory is what the translation of the page left (`u`);
every other task and every stream of another task, the counted objects and the control complexes stay as they were, the device but for
the order of its ports' hot words and the count of its accesses (R350, R368), and the operations, but that those of the task are in no
counted wait. -/
def State.vectors (s u : State) (f : FaultRec) (k : Nat) (t : State) : Prop :=
  t.taskOf (s.tkey s.cur) = { s.myTask with stat := .handler, fault := none, kept := some f, gate0 := s.now } ∧
    t.strmOf s.cur = { s.me with mode := .handler, finfo := f.finfo, pc := s.myTask.evb + BitVec.ofNat 64 (64 * f.cause)
                                 nextIss := s.now + 1, wait := none, barW := none } ∧
    readN t.mem k 8 = f.finfo.toNat ∧ readN t.mem (k + 8) 8 = f.faddr.toNat ∧ readN t.mem (k + 16) 8 = s.now % 2^64 ∧
    (∀ a, a < k ∨ k + 4096 ≤ a → readB t.mem a = readB u.mem a) ∧ (∀ j, j ≠ s.tkey s.cur → t.taskOf j = s.taskOf j) ∧
    (∀ j, j / 8 ≠ s.myCore ∨ j % 8 ∉ s.myTask.phys → t.strmOf j = s.strmOf j) ∧
    t.obj = s.obj ∧ t.ops = s.ops.map (fun o => if o.core = s.myCore ∧ o.slot = s.me.slot then { o with wait := none } else o) ∧
    t.ctl = s.ctl ∧ t.dev = { s.dev with ports := t.dev.ports, hbm := t.dev.hbm } ∧ t.now = s.now

end Sys2Proof.Machine
end

