-- ==== Sys2Proof/Certificates/Slice0/Obligations.lean ====
section
/-!
DEFINITION. What is claimed of the machine: the spec's own account of each group of instructions and steps, written down
apart from the meanings, and the statements.
-/
namespace Sys2Proof.Claim
open Sys2Proof.Machine

/-! ### Scalar computation (R109 to R112) -/

/-- A scalar computation as the spec gives it: its header, major, destination, g sources in operand order, latency, and its
value by the sources' values and the predicates. -/
structure AluRow where
  h    : Header
  mj   : Nat
  gd   : G
  srcs : List G
  lat  : Nat
  val  : List Word → (P → Bool) → Word

/-- The natural number that an operand holds. -/
def nat (v : List Word) (i : Nat) : Nat := (v.getD i 0).toNat
/-- The signed number that an operand holds. -/
def int (v : List Word) (i : Nat) : Int := (v.getD i 0).toInt
/-- A number modulo 2^64. -/
def ofN (n : Nat) : Word := BitVec.ofNat 64 n
/-- An integer modulo 2^64. -/
def ofI (n : Int) : Word := BitVec.ofInt 64 n
/-- All ones. -/
def ones : Word := BitVec.allOnes 64

/-- R109 and R110. -/
def aluRow : Instr → Option AluRow
  | .add h gd ga gb => some ⟨h, 1, gd, [ga, gb], 1, fun v _ => ofN (nat v 0 + nat v 1)⟩
  | .sub h gd ga gb => some ⟨h, 1, gd, [ga, gb], 1, fun v _ => ofI (int v 0 - int v 1)⟩
  | .mul h gd ga gb => some ⟨h, 1, gd, [ga, gb], 3, fun v _ => ofN (nat v 0 * nat v 1)⟩
  | .mulh h gd ga gb => some ⟨h, 1, gd, [ga, gb], 3, fun v _ => ofI (int v 0 * int v 1 / 2^64)⟩
  | .mulhn h gd ga gb => some ⟨h, 1, gd, [ga, gb], 3, fun v _ => ofN (nat v 0 * nat v 1 / 2^64)⟩
  | .div h gd ga gb => some ⟨h, 1, gd, [ga, gb], 20, fun v _ =>
      if nat v 1 = 0 then ones else ofI ((int v 0).tdiv (int v 1))⟩
  | .divn h gd ga gb => some ⟨h, 1, gd, [ga, gb], 20, fun v _ => if nat v 1 = 0 then ones else ofN (nat v 0 / nat v 1)⟩
  | .and h gd ga gb => some ⟨h, 1, gd, [ga, gb], 1, fun v _ => ofN (nat v 0 &&& nat v 1)⟩
  | .or h gd ga gb => some ⟨h, 1, gd, [ga, gb], 1, fun v _ => ofN (nat v 0 ||| nat v 1)⟩
  | .xor h gd ga gb => some ⟨h, 1, gd, [ga, gb], 1, fun v _ => ofN (nat v 0 ^^^ nat v 1)⟩
  | .andn h gd ga gb => some ⟨h, 1, gd, [ga, gb], 1, fun v _ => ofN (nat v 0 &&& (2^64 - 1 - nat v 1))⟩
  | .shl h gd ga gb => some ⟨h, 1, gd, [ga, gb], 1, fun v _ => ofN (nat v 0 * 2^(nat v 1 % 64))⟩
  | .shr h gd ga gb => some ⟨h, 1, gd, [ga, gb], 1, fun v _ => ofN (nat v 0 / 2^(nat v 1 % 64))⟩
  | .sra h gd ga gb => some ⟨h, 1, gd, [ga, gb], 1, fun v _ => ofI (int v 0 / 2^(nat v 1 % 64))⟩
  | .min h gd ga gb => some ⟨h, 1, gd, [ga, gb], 1, fun v _ => ofI (min (int v 0) (int v 1))⟩
  | .max h gd ga gb => some ⟨h, 1, gd, [ga, gb], 1, fun v _ => ofI (max (int v 0) (int v 1))⟩
  | .clz h gd ga => some ⟨h, 1, gd, [ga], 1, fun v _ => ofN ((List.range 64).countP fun k => nat v 0 < 2^k)⟩
  | .popc h gd ga => some ⟨h, 1, gd, [ga], 1, fun v _ => ofN ((List.range 64).countP (nat v 0).testBit)⟩
  | .sel h gd ga gb ps => some ⟨h, 1, gd, [ga, gb], 1, fun v p => if p ps then v.getD 0 0 else v.getD 1 0⟩
  | .addi h gd ga imm => some ⟨h, 2, gd, [ga], 1, fun v _ => ofI (int v 0 + imm.toInt)⟩
  | .muli h gd ga imm => some ⟨h, 2, gd, [ga], 3, fun v _ => ofI (int v 0 * imm.toInt)⟩
  | .andi h gd ga imm => some ⟨h, 2, gd, [ga], 1, fun v _ => v.getD 0 0 &&& ofI imm.toInt⟩
  | .ori h gd ga imm => some ⟨h, 2, gd, [ga], 1, fun v _ => v.getD 0 0 ||| ofI imm.toInt⟩
  | .xori h gd ga imm => some ⟨h, 2, gd, [ga], 1, fun v _ => v.getD 0 0 ^^^ ofI imm.toInt⟩
  | .shli h gd ga imm => some ⟨h, 2, gd, [ga], 1, fun v _ => ofN (nat v 0 * 2^(imm.toNat % 64))⟩
  | .shri h gd ga imm => some ⟨h, 2, gd, [ga], 1, fun v _ => ofN (nat v 0 / 2^(imm.toNat % 64))⟩
  | .srai h gd ga imm => some ⟨h, 2, gd, [ga], 1, fun v _ => ofI (int v 0 / 2^(imm.toNat % 64))⟩
  | .li h gd imm => some ⟨h, 2, gd, [], 1, fun _ _ => ofI imm.toInt⟩
  | .lih h gd imm => some ⟨h, 2, gd, [gd], 1, fun v _ => ofN (imm.toNat * 2^33 + nat v 0 % 2^33)⟩
  | _ => none

/-- A compare or predicate operation as the spec gives it (R111, R112). -/
structure PredRow where
  h    : Header
  pd   : P
  srcs : List G
  val  : List Word → (P → Bool) → Bool

/-- R111 and R112. -/
def predRow : Instr → Option PredRow
  | .cmpeq h pd ga gb => some ⟨h, pd, [ga, gb], fun v _ => nat v 0 = nat v 1⟩
  | .cmpne h pd ga gb => some ⟨h, pd, [ga, gb], fun v _ => nat v 0 ≠ nat v 1⟩
  | .cmplt h pd ga gb => some ⟨h, pd, [ga, gb], fun v _ => int v 0 < int v 1⟩
  | .cmple h pd ga gb => some ⟨h, pd, [ga, gb], fun v _ => int v 0 ≤ int v 1⟩
  | .cmpltn h pd ga gb => some ⟨h, pd, [ga, gb], fun v _ => nat v 0 < nat v 1⟩
  | .cmplen h pd ga gb => some ⟨h, pd, [ga, gb], fun v _ => nat v 0 ≤ nat v 1⟩
  | .cmpeqi h pd ga imm => some ⟨h, pd, [ga], fun v _ => int v 0 = imm.toInt⟩
  | .cmplti h pd ga imm => some ⟨h, pd, [ga], fun v _ => int v 0 < imm.toInt⟩
  | .cmpltni h pd ga imm => some ⟨h, pd, [ga], fun v _ => nat v 0 < (ofI imm.toInt).toNat⟩
  | .pand h pd pa pb => some ⟨h, pd, [], fun _ p => p pa && p pb⟩
  | .por h pd pa pb => some ⟨h, pd, [], fun _ p => p pa || p pb⟩
  | .pxor h pd pa pb => some ⟨h, pd, [], fun _ p => xor (p pa) (p pb)⟩
  | .pnot h pd pa => some ⟨h, pd, [], fun _ p => !p pa⟩
  | _ => none


/-- The opcode of a scalar computation, 64 × MAJ + MIN: the high half of its base, without the header (R109 to R112). -/
def scalarCode : Instr → Nat
  | .add .. => 64 | .sub .. => 65 | .mul .. => 66 | .mulh .. => 67 | .mulhn .. => 68 | .div .. => 69 | .divn .. => 70 | .and .. => 71
  | .or .. => 72 | .xor .. => 73 | .andn .. => 74 | .shl .. => 75 | .shr .. => 76 | .sra .. => 77 | .min .. => 78 | .max .. => 79
  | .clz .. => 80 | .popc .. => 81 | .sel .. => 82
  | .addi .. => 128 | .muli .. => 129 | .andi .. => 130 | .ori .. => 131 | .xori .. => 132 | .shli .. => 133 | .shri .. => 134 | .srai .. => 135
  | .li .. => 136 | .lih .. => 137
  | .cmpeq .. => 144 | .cmpne .. => 145 | .cmplt .. => 146 | .cmple .. => 147 | .cmpltn .. => 148 | .cmplen .. => 149 | .cmpeqi .. => 150 | .cmplti .. => 151
  | .cmpltni .. => 152
  | .pand .. => 160 | .por .. => 161 | .pxor .. => 162 | .pnot .. => 163
  | _ => 0

/-! ### SYS, waits, flow (R102 to R107, R117 to R120, R125 to R132) -/

/-- Instructions that name no counted operand and that a false guard turns into an issue with no other effect (R48, R88), with
their header and major. -/
def guardedRow : Instr → Option (Header × Nat)
  | .nop h | .rdcs h _ _ | .wrcs h _ _ | .setfpc h _ | .rdcyc h _ | .brkpt h => some (h, 0)
  | .ld h _ _ _ _ | .st h _ _ _ _ | .lda h _ _ _ _ | .sta h _ _ _ _ | .spld h _ _ | .spst h _ _ | .lsmark h
  | .waitc h _ _ _ _ | .fence h _ _ => some (h, 3)
  | .amo h _ _ _ _ _ _ _ | .cas h _ _ _ _ _ _ | .amoa h _ _ _ _ _ _ _ | .casa h _ _ _ _ _ _ => some (h, 4)
  | .pbr h _ _ | .pbrg h _ _ | .br h _ | .brl h _ _ | .trap h _ | .tfence h | .yield h _ _ => some (h, 5)
  | .barinit h _ _ _ | .bararr h _ | .barwait h _ => some (h, 6)
  | .nextit h _ | .done h | .spawn h _ | .signal h _ => some (h, 14)
  | i => match aluRow i, predRow i with
    | some r, _ => some (r.h, r.mj)
    | none, some r => some (r.h, 2)
    | none, none => none

/-- The privileged instructions (R69), with their header and major. -/
def privilegedRow : Instr → Option (Header × Nat)
  | .halt h | .tlbinv h _ _ | .ctxsave h _ | .ctxload h _ => some (h, 0)
  | .eret h => some (h, 5)
  | _ => none

/-- Where an instruction of the pipeline has no effect but its issue: header, major and condition. -/
def plainRow (s : State) : Instr → Option (Header × Nat × Prop)
  | .nop h => some (h, 0, True)
  | .brkpt h => some (h, 0, h.sp = false ∨ bitN (s.ctxOf s.myCtx).dbgctl.toNat 0 = false ∨ s.me.bphit = true ∨ s.me.mode ≠ .task)
  | .waitc h l ss c t => some (h, 3, (l.toNat = 63 ∨ s.me.cntL.toNat ≤ l.toNat) ∧ (ss.toNat = 63 ∨ s.me.cntS.toNat ≤ ss.toNat)
      ∧ (c.toNat = 63 ∨ s.me.cntC.toNat ≤ c.toNat) ∧ (t.toNat = 63 ∨ s.me.cntT.toNat ≤ t.toNat))
  | .fence h sc k => some (h, 3, match k with
      | .full => sc = .strm ∨ ∀ a ∈ s.me.mq, a.kind = .mark
      | .st => sc = .strm ∨ ∀ a ∈ s.me.mq, a.kind = .mark ∨ a.isLd = true
      | .ld => sc = .strm ∨ (∀ a ∈ s.me.mq, a.loads = false) ∧ ∀ a ∈ s.me.arr, a.load = false
      | .eng => (∀ a ∈ s.me.mq, a.kind = .mark) ∧ ∀ o ∈ s.ops, 8 * o.core + o.strm = s.cur → o.uncnt = true)
  | .tfence h => some (h, 5, (∀ o ∈ s.ops, 8 * o.core + o.strm = s.cur → o.uncnt = true)
      ∧ bits s.me.flg.toNat 0 5 &&& bits s.me.fpc.toNat 8 5 = 0)
  | .yield h _ _ => some (h, 5, s.me.mode ≠ .task ∨ s.myTask.yreq = none)
  | _ => none

/-- The value of a control and status register (R92). -/
def csrValue (s : State) : Csr → Word
  | .fpc => ofN s.me.fpc.toNat
  | .flg => ofN s.me.flg.toNat
  | .seed => ofN s.me.seed.toNat
  | .win => s.myTask.win
  | .tid => ofN (s.me.tnum + 2^3 * s.myTask.grank + 2^6 * (s.myTask.gsize - 1) + 2^9 * (s.myTask.phys.length - 1)
      + 2^12 * s.me.slot + 2^14 * s.myCtx + 2^20 * (s.myCore % 80) + 2^27 * (s.myCore / 80))
  | .cyc => ofN s.now
  | .finfo => s.me.finfo
  | .evb => s.myTask.evb

end Sys2Proof.Claim

open Sys2Proof Sys2Proof.Machine Sys2Proof.Claim

/-- R42, R88 to R90, R109, R110: a scalar computation issues, and from LAT cycles after its issue on its destination reads the value
that the operation gives, before them the value that it had; with a stream register among its sources it takes one element for each such source, and its result is
pending: it comes LAT cycles after the issue, and no sooner than 2. g0 stays as it is; every other g register and every predicate reads
as before in every cycle; FLG is as it was, and nothing but its own stream and the accounts of issues changes. Its word carries the
opcode of its base. -/
def Obligations.ScalarResult : Prop :=
  (∀ (i : Instr) (r : AluRow), aluRow i = some r → ∃ w, encode i = [w] ∧ bits w.toNat 45 10 = scalarCode i) ∧
  ∀ (i : Instr) (r : AluRow) (s : State), aluRow i = some r → i.wf = true → s.runs r.h r.mj →
    canRead s s.me { srcs := r.srcs, dst := some r.gd } = true →
    (r.srcs.any G.isQ = false →
      ∃ t st, exec i s = .next t ∧ s.issues s r.h (s.me.pc + 8) st t ∧ st = { s.start with land := st.land } ∧
        (r.gd ≠ 0 → gAt st (s.now + r.lat) r.gd.toNat = r.val (readGs s s.me r.srcs).1 s.me.pr) ∧
        (∀ c, c < s.now + r.lat → gAt st c r.gd.toNat = gAt s.me c r.gd.toNat) ∧
        (∀ c k, k < 32 → k ≠ r.gd.toNat ∨ k = 0 → gAt st c k = gAt s.me c k) ∧ ∀ c k, k < 8 → pAt st c k = pAt s.me c k) ∧
    (r.srcs.any G.isQ = true →
      ∃ t st, exec i s = .next t ∧ s.issues s r.h (s.me.pc + 8) st t ∧
        st = { s.start with q := (readGs s s.me r.srcs).2.q, pend := st.pend, arr := st.arr } ∧
        st.pend = (if r.gd = 0 then s.me.pend else s.me.pend ||| 1 <<< r.gd.toNat) ∧
        st.arr = (if r.gd = 0 then s.me.arr
          else s.me.arr ++ [{ reg := r.gd.toNat, due := s.now + max r.lat 2, val := r.val (readGs s s.me r.srcs).1 s.me.pr }]) ∧
        ∀ n, n < 4 → (mget [] st.q n).length + r.srcs.countP (fun f => f.toNat == 32 + n) = (mget [] s.me.q n).length)

/-- R42, R88, R90, R111, R112: a compare or a predicate operation issues, and its destination reads the value from the next issue
cycle on, from the one after where a source was a stream register, and before that the value that it had; p0 stays; every other predicate and every g register
reads as before in every cycle. Its word carries the opcode of its base. -/
def Obligations.PredicateResult : Prop :=
  (∀ (i : Instr) (r : PredRow), predRow i = some r → ∃ w, encode i = [w] ∧ bits w.toNat 45 10 = scalarCode i) ∧
  ∀ (i : Instr) (r : PredRow) (s : State), predRow i = some r → s.runs r.h 2 → canRead s s.me { srcs := r.srcs } = true →
    ∃ t st, exec i s = .next t ∧ s.issues s r.h (s.me.pc + 8) st t ∧
      st = { s.start with land := st.land, q := (readGs s s.me r.srcs).2.q } ∧
      (r.pd ≠ 0 → pAt st (s.now + if r.srcs.any G.isQ then 2 else 1) r.pd.toNat = r.val (readGs s s.me r.srcs).1 s.me.pr) ∧
      (∀ c, (c < s.now + if r.srcs.any G.isQ then 2 else 1) → pAt st c r.pd.toNat = pAt s.me c r.pd.toNat) ∧
      (∀ c k, k < 8 → k ≠ r.pd.toNat ∨ k = 0 → pAt st c k = pAt s.me c k) ∧ ∀ c k, k < 32 → gAt st c k = gAt s.me c k

/-- R48, R88, R102, R106, R137: under a false guard an instruction that names no counted operand issues and has no other effect: no
arrival and no wait of a barrier instruction, and no act of a privileged one outside task mode. A BARSYNC leaves the stream's arrival
where that stands for the barrier that it names. -/
def Obligations.FalseGuardOnlyIssues : Prop :=
  ∀ (h : Header) (s : State), s.me.guard h = false →
    (∀ (i : Instr) (mj : Nat), guardedRow i = some (h, mj) → s.mayRun mj →
      ∃ t, exec i s = .next t ∧ s.issues s h (s.me.pc + 8) s.start t) ∧
    (∀ (i : Instr) (mj : Nat), privilegedRow i = some (h, mj) → s.mayRun mj → s.me.mode ≠ .task →
      ∃ t, exec i s = .next t ∧ s.issues s h (s.me.pc + 8) s.start t) ∧
    ∀ b : BitVec 8, s.mayRun 6 → ∃ t, exec (.barsync h b) s = .next t ∧ s.ownOnly t ∧
      t.strmOf s.cur = { s.start.after h s.now (s.me.pc + 8) with
        syncArr := s.me.syncArr && (s.me.mode ≠ .task || s.me.syncBar = b.toNat) } ∧
      (t.coreOf s.myCore).issC = s.now ∧ (t.coreOf s.myCore).last = s.cur % 8 ∧ t.stall = []

/-- R102, R119, R120, R129 to R131: NOP, BRKPT without SP, outside debug or where it resumes from its stop (and
outside task mode, the model's reading, assumption 61), WAITC and FENCE once their condition holds, TFENCE with drained engines and no
unmasked flag, and YIELD with no request issue and have no other effect. A YIELD outside task mode issues also with a request (the
model's reading, assumption 33), and a request is one to the instance (the model's choice, assumption 55). -/
def Obligations.PlainInstructionsIssue : Prop :=
  ∀ (i : Instr) (h : Header) (mj : Nat) (c : Prop) (s : State), plainRow s i = some (h, mj, c) → c → s.runs h mj →
    ∃ t, exec i s = .next t ∧ s.issues s h (s.me.pc + 8) s.start t

/-- R92, R97, R103: RDCYC's destination reads the cycle of its issue from the next cycle on; RDCS makes its destination pending,
and the register's value comes two cycles after the issue. -/
def Obligations.RegisterReadResult : Prop :=
  (∀ (h : Header) (gd : G) (s : State), gd.toNat < 32 → s.runs h 0 → canRead s s.me { dst := some gd } = true →
    ∃ t st, exec (.rdcyc h gd) s = .next t ∧ s.issues s h (s.me.pc + 8) st t ∧ st = { s.start with land := st.land } ∧
      (gd ≠ 0 → gAt st (s.now + 1) gd.toNat = ofN s.now) ∧
      (∀ c k, k < 32 → k ≠ gd.toNat ∨ k = 0 → gAt st c k = gAt s.me c k) ∧ ∀ c k, k < 8 → pAt st c k = pAt s.me c k) ∧
  ∀ (h : Header) (gd : G) (r : Csr) (s : State), s.runs h 0 → canRead s s.me { dst := some gd, var := true } = true →
    ∃ t, exec (.rdcs h gd r) s = .next t ∧ s.issues s h (s.me.pc + 8)
      { s.start with pend := if gd = 0 then s.me.pend else s.me.pend ||| 1 <<< gd.toNat
                     arr := if gd = 0 then s.me.arr else s.me.arr ++ [{ reg := gd.toNat, due := s.now + 2, val := csrValue s r }] } t

/-- R93 to R95, R99, R101, R104, R105: WRCS of FPC, FLG, SEED, FINFO and EVB, and SETFPC, write the register with its reserved
bits 0 (SEED also sets the 128 lane states; EVB is the task's), and nothing else; FINFO and EVB outside task mode, FLG
and SEED once the stream's operations have committed, EVB a multiple of 4,096. -/
def Obligations.RegisterWriteResult : Prop :=
  ∀ (h : Header) (s : State), s.runs h 0 →
    (∀ img : BitVec 14, ∃ t, exec (.setfpc h img) s = .next t ∧
      s.issues s h (s.me.pc + 8) { s.start with fpc := img.setWidth 32 &&& 0x3F1F } t) ∧
    ∀ ga : G, canRead s s.me { srcs := [ga] } = true →
      let v := (readGs s s.me [ga]).1.getD 0 0
      let st : Stream := { s.start with q := (readGs s s.me [ga]).2.q }
      (∃ t, exec (.wrcs h .fpc ga) s = .next t ∧ s.issues s h (s.me.pc + 8) { st with fpc := v.setWidth 32 &&& 0x3F1F } t) ∧
      ((∀ o ∈ s.ops, 8 * o.core + o.strm = s.cur → o.uncnt = true) →
        (∃ t, exec (.wrcs h .flg ga) s = .next t ∧ s.issues s h (s.me.pc + 8) { st with flg := v.setWidth 32 &&& 0xFF } t) ∧
        ∃ t, exec (.wrcs h .seed ga) s = .next t ∧ s.issues s h (s.me.pc + 8)
          { st with seed := v.setWidth 32, lanes := seedLanesFrom (v.setWidth 32) 128 } t) ∧
      (s.me.mode ≠ .task →
        (∃ t, exec (.wrcs h .finfo ga) s = .next t ∧ s.issues s h (s.me.pc + 8) { st with finfo := v &&& 0xFF0FFFFFFF } t) ∧
        (v.toNat % 4096 = 0 → ∃ t, exec (.wrcs h .evb ga) s = .next t ∧
          s.issues (s.setTask (s.tkey s.cur) { s.myTask with evb := v }) h (s.me.pc + 8) st t))

/-- R117, R334: SPST writes an 8-byte word of the stream's spill memory, which clears poison from it, and SPLD reads one, with no
poison in it, at the latency of a fixed result. -/
def Obligations.SpillResult : Prop :=
  (∀ (h : Header) (g : G) (off : BitVec 30) (s : State), s.runs h 3 → canRead s s.me { srcs := [g] } = true →
    ∃ t, exec (.spst h g off) s = .next t ∧ s.issues { s with obj := { s.obj with
        poison := s.obj.poison.filter (· != (s.myCore, 5, s.cur % 8, off.toNat / 8)) } } h (s.me.pc + 8)
      { s.start with q := (readGs s s.me [g]).2.q
                     spill := mput 0 s.me.spill (off.toNat / 8) ((readGs s s.me [g]).1.getD 0 0) } t) ∧
  ∀ (h : Header) (g : G) (off : BitVec 30) (s : State), g.toNat < 32 → s.runs h 3 → canRead s s.me { dst := some g } = true →
    s.chipPoison s.myCore 5 (s.cur % 8) off.toNat 8 = false →
    ∃ t st, exec (.spld h g off) s = .next t ∧ s.issues s h (s.me.pc + 8) st t ∧ st = { s.start with land := st.land } ∧
      (g ≠ 0 → gAt st (s.now + 1) g.toNat = mget 0 s.me.spill (off.toNat / 8)) ∧
      (∀ c k, k < 32 → k ≠ g.toNat ∨ k = 0 → gAt st c k = gAt s.me c k) ∧ ∀ c k, k < 8 → pAt st c k = pAt s.me c k

/-- R118: an LSMARK issues, also while a queue of the stream is full. Where an earlier store or atomic waits it stands behind it, and
no load that enters after it may be performed yet; where none waits there is nothing to hold, and no marker stays. -/
def Obligations.MarkerEnters : Prop :=
  ∀ (h : Header) (s : State), s.runs h 3 →
    ∃ t q, exec (.lsmark h) s = .next t ∧ s.issues s h (s.me.pc + 8) { s.start with mq := q } t ∧
      q.filter (fun a => !a.isMark) = s.me.mq.filter (fun a => !a.isMark) ∧
      (s.me.mq.any (fun a => a.stores || a.isAtom) = true → (∃ a, q.getLast? = some a ∧ a.isMark = true) ∧
        ∀ a, a.isLd = true → mayPerform (t.setStrm t.cur { t.strmOf t.cur with mq := q ++ [a] }) t.cur q.length = false) ∧
      (s.me.mq.all (fun a => a.isLd || a.isMark) = true → q.all (fun a => !a.isMark) = true)

/-- R125 to R127: PBR and PBRG write a target register and start its fetch, which is ready 4 cycles later. BR and BRL with a
fetched, aligned target send control there; BRL's link register reads the address of the following instruction from the next
cycle on. -/
def Obligations.BranchPreparedAndTaken : Prop :=
  (∀ (h : Header) (bt : P) (s : State), s.runs h 5 →
    (∀ off : BitVec 33, ∃ t, exec (.pbr h bt off) s = .next t ∧ s.issues s h (s.me.pc + 8)
      { s.start with b := mput {} s.me.b bt.toNat ⟨ofI (s.me.pc.toInt + 8 * off.toInt), .due (s.now + 4)⟩ } t) ∧
    ∀ ga : G, canRead s s.me { srcs := [ga] } = true → ∃ t, exec (.pbrg h bt ga) s = .next t ∧ s.issues s h (s.me.pc + 8)
      { s.start with q := (readGs s s.me [ga]).2.q
                     b := mput {} s.me.b bt.toNat ⟨(readGs s s.me [ga]).1.getD 0 0, .due (s.now + 4)⟩ } t) ∧
  ∀ (h : Header) (bt : P) (s : State) (b : BReg), s.runs h 5 → mget {} s.me.b bt.toNat = b → b.st = .ready → b.tgt.toNat % 8 = 0 →
    (∃ t, exec (.br h bt) s = .next t ∧ s.issues s h b.tgt s.start t) ∧
    ∀ gl : G, gl.toNat < 32 → canRead s s.me { dst := some gl } = true →
      ∃ t st, exec (.brl h bt gl) s = .next t ∧ s.issues s h b.tgt st t ∧ st = { s.start with land := st.land } ∧
        (gl ≠ 0 → gAt st (s.now + 1) gl.toNat = s.me.pc + 8) ∧
        (∀ c k, k < 32 → k ≠ gl.toNat ∨ k = 0 → gAt st c k = gAt s.me c k) ∧ ∀ c k, k < 8 → pAt st c k = pAt s.me c k

namespace Sys2Proof.Claim
/-! ### Faults, handlers and the end of tasks (R68 to R71, R99, R132, R326 to R333) -/

/-- When an instruction of the pipeline takes a fault for what the stream itself holds, with its cause, FADDR and code: a TRAP
(R128), a TFENCE with drained engines and an unmasked flag (R129), a WRCS of a register that cannot be written (R104), a branch to an
unaligned target (R127), and, under any guard, a privileged instruction in task mode (R69, R70). -/
def trapRow (s : State) : Instr → Option (Prop × Nat × Word × Nat)
  | .trap h code => some (s.runs h 5, 0x0E, 0, code.toNat)
  | .tfence h => some (s.runs h 5 ∧ (∀ o ∈ s.ops, 8 * o.core + o.strm = s.cur → o.uncnt = true)
      ∧ bits s.me.flg.toNat 0 5 &&& bits s.me.fpc.toNat 8 5 ≠ 0, 0x0D, 0, 0)
  | .wrcs h r _ => some (s.runs h 0 ∧ r ≠ .fpc ∧ r ≠ .flg ∧ r ≠ .seed, if r = .finfo ∨ r = .evb then 0x03 else 0x0B, 0, 0)
  | .br h bt | .brl h bt _ => some (s.runs h 5 ∧ (mget {} s.me.b bt.toNat).tgt.toNat % 8 ≠ 0, 0x0C, (mget {} s.me.b bt.toNat).tgt, 0)
  | .halt _ | .tlbinv _ _ _ | .ctxsave _ _ | .ctxload _ _ | .eret _ => some (s.me.run = .run, 0x03, 0, 0)
  | _ => none

/-- The record of a fault that the pipeline takes (R99): cause, task stream and code in FINFO, FADDR, and the cycle. -/
def trapRecord (s : State) (cause : Nat) (faddr : Word) (code : Nat) : FaultRec :=
  { finfo := ofN (cause + 2^8 * (s.me.tnum % 8) + 2^32 * code), faddr := faddr, fcyc := s.now, strm := s.me.tnum }

/-- SKIP of engine record e of stream n in a frame page (R330, R332). -/
def skipBit (page e n : Nat) : Bool := bitN page (8 * (128 + 16 * (8 * e + n)) + 73)

/-- The engine records that a frame page asks to skip, for a task of `n` streams: engine and stream. -/
def skipped (page n : Nat) : List (Nat × Nat) :=
  (List.range 4).flatMap fun e => ((List.range n).filter fun a => skipBit page e a).map fun a => (e, a)

/-- What stands of the operations when the heads of some records of a task are gone (R332), and those heads. -/
def skipHeads (s : State) (tk : Nat) (l : List (Nat × Nat)) : List Op × List Op :=
  l.foldl (fun x r => match (recOps { s with ops := x.1 } tk r.1 r.2).head? with
    | none => x
    | some o => (x.1.filter fun y => y.uid ≠ o.uid, x.2 ++ [o])) (s.ops, [])

/-- Whether an instruction is a VLANE, whose g register is pending until it commits (R154). -/
def isVlane : Instr → Bool
  | .vlane .. => true
  | _ => false

/-- The pages of a save area of `n` bytes at an address of a context lie one after another, its first byte at memory key `K`, with A and
D set. -/
def areaLies (s : State) (ctx va n K : Nat) : Prop :=
  ∀ p ∈ pagesOf va n, ∃ l e, peek s ctx (65536 * p) = .ok (l, e) ∧ memKey l + va % 65536 = K + 65536 * (p - va / 65536) ∧
    pteA e = true ∧ pteD e = true

end Sys2Proof.Claim

/-- R71, R99, R128, R327, R329, R331: a fault that the pipeline takes for what the stream holds enters the task's handler: in
handler mode at EVB + 64 × cause, with FINFO, and with FINFO, FADDR and FCYC in the frame page; the instruction itself
has had no effect. -/
def Obligations.FaultEntersHandler : Prop :=
  ∀ (i : Instr) (c : Prop) (cause : Nat) (faddr : Word) (code : Nat) (s u : State) (l : Loc),
    trapRow s i = some (c, cause, faddr, code) → c → s.vectorsTo l u →
    ∃ t, exec i s = .next t ∧ s.vectors u (trapRecord s cause faddr code) (memKey l) t

/-- R132, R332: ERET in handler mode resumes the task: of every engine record whose SKIP bit is set in the frame page the head is gone,
completed for the counters of its stream and with nothing written, and all other operations stand as they stood, but for the cycles
in which their waits and steps end. The task runs with no fault kept, and every stream of it goes on at the restart address that the
page holds (bits [2:0] are taken as 0, the model's choice, assumption 21), the handler's own in task mode and after the ERET's GAP. -/
def Obligations.HandlerReturns : Prop :=
  ∀ (h : Header) (s u : State) (l : Loc) (e : Nat), s.runs h 5 → s.me.mode = .handler → s.placed →
    translate s s.myCore s.myCtx (s.myTask.evb.toNat + 4096) .r = .ok l e u → reachable s s.myCtx l = true →
    u.poisoned (memKey l) 4096 = false →
    let page := readN u.mem (memKey l) 4096
    let gone := (skipHeads s (s.tkey s.cur) (skipped page s.myTask.phys.length)).2
    ∃ t, exec (.eret h) s = .next t ∧ t.taskOf (s.tkey s.cur) = { s.myTask with stat := .run, fault := none, kept := none } ∧ t.mem = u.mem ∧
      (∀ j, j ≠ s.tkey s.cur → t.taskOf j = s.taskOf j) ∧
      (∀ r ∈ skipped page s.myTask.phys.length, ∀ o, (recOps s (s.tkey s.cur) r.1 r.2).head? = some o → ∀ x ∈ t.ops, x.uid ≠ o.uid) ∧
      t.ops.map (fun o => { o with wait := none, due := 0 })
        = (skipHeads s (s.tkey s.cur) (skipped page s.myTask.phys.length)).1.map (fun o => { o with wait := none, due := 0 }) ∧
      t.obj.tregs = s.obj.tregs ∧ t.obj.slotF = s.obj.slotF ∧ t.obj.sideF = s.obj.sideF ∧ t.obj.banks = s.obj.banks ∧
      t.obj.frmF = s.obj.frmF ∧ t.obj.bars = s.obj.bars ∧ (∀ k, (t.cntOf k).w = (s.cntOf k).w) ∧ (gone = [] → t.obj = s.obj) ∧
      (∀ n ∈ s.myTask.phys,
        let k := 8 * s.myCore + n
        let b := if k = s.cur then s.me else s.strmOf k
        let mine := gone.filter fun o => 8 * o.core + o.strm = k
        t.strmOf k = { b with
          pc := ofN (bits page (8 * (64 + 8 * b.tnum)) 64) &&& ~~~7#64, mode := if b.mode = .handler then .task else b.mode
          nextIss := max b.nextIss (s.now + 1 + if b.mode = .handler then h.gap.toNat else 0)
          dstop := false, wait := none, barW := none, nx := { b.nx with at' := none }
          cntT := b.cntT - BitVec.ofNat 10 (mine.countP fun o => !o.uncnt && (o.eng = .vec || o.eng = .mat))
          cntC := b.cntC - BitVec.ofNat 10 (mine.countP fun o => !o.uncnt && (o.eng = .cpy || o.eng = .near))
          pend := mine.foldl (fun v o => if isVlane o.i then v &&& ~~~(1#32 <<< o.reg) else v) b.pend }) ∧
      ∀ k, k / 8 ≠ s.myCore ∨ k % 8 ∉ s.myTask.phys → (∀ o ∈ gone, 8 * o.core + o.strm ≠ k) → t.strmOf k = s.strmOf k

/-- R102, R333: HALT in handler mode ends the task, whose gang is this core's part, without DONE: the slot is empty, its streams
are absent, it has no operations, the launch counts an instance that was terminated, and a fault-queue entry of kind 2
reports FINFO, in the order of the cycles of detection. In firmware mode it ends the routine. -/
def Obligations.HaltEndsTask : Prop :=
  ∀ (h : Header) (s : State), s.runs h 0 →
    (s.me.mode = .firmware → ∃ t, exec (.halt h) s = .next t ∧ t.strmOf s.cur = { s.start with run := .absent, mode := .task } ∧
      t.task = s.task ∧ t.ops = s.ops ∧ t.obj = s.obj ∧ t.mem = s.mem ∧ (t.coreOf s.myCore).issC = s.now) ∧
    (s.me.mode = .handler → s.placed → s.gangKeys s.myTask.token = [s.tkey s.cur] →
      (∀ n ∈ s.myTask.phys, (s.strmOf (8 * s.myCore + n)).mq = []) → bitN (s.ctxOf s.myCtx).dumpctl.toNat 1 = false →
      ∃ t x, exec (.halt h) s = .next t ∧ t.taskOf (s.tkey s.cur) = {} ∧ (∀ j, j ≠ s.tkey s.cur → t.taskOf j = s.taskOf j) ∧
        (∀ n ∈ s.myTask.phys, (t.strmOf (8 * s.myCore + n)).run = .absent) ∧
        (∀ o, o ∈ t.ops ↔ o ∈ s.ops ∧ ¬(o.core = s.myCore ∧ o.slot = s.me.slot)) ∧ t.mem = s.mem ∧
        t.ctl.lnch = s.ctl.lnch.map (fun l => if l.lid = s.myTask.lid then { l with ended := l.ended + 1, term := true } else l) ∧
        (t.funOf (s.ownerC s.myCtx)).fqpend = (s.funOf (s.ownerC s.myCtx)).fqpend.filter (fun y => y.cyc ≤ x.cyc)
          ++ x :: (s.funOf (s.ownerC s.myCtx)).fqpend.filter (fun y => x.cyc < y.cyc) ∧ x.cyc = (s.myTask.kept.getD {}).fcyc ∧ x.kind = 2 ∧ x.ctx = s.myCtx ∧
        x.token = s.myTask.token ∧ x.finfo = s.me.finfo ∧ (t.coreOf s.myCore).issC = s.now)

/-- R107: TLBINV drops entries from the translation caches of its core and cluster: those of a context (its own, or any in
firmware mode), those that serve an address of its own context, or all of them. -/
def Obligations.TlbInvalidate : Prop :=
  ∀ (h : Header) (ga : G) (kind : BitVec 33) (s : State) (p : Tlb → Bool), s.runs h 0 → s.me.mode ≠ .task →
    canRead s s.me { srcs := [ga] } = true →
    let v := (readGs s s.me [ga]).1.getD 0 0
    (kind = 0 ∧ (v.toNat % 64 = s.myCtx ∨ s.me.mode = .firmware) ∧ (p = fun e => e.ctx == v.toNat % 64)) ∨
      (kind = 1 ∧ p = fun e => e.ctx == s.myCtx && e.page == v.toNat / 2^(16 + 10 * e.lvl) * 2^(16 + 10 * e.lvl)) ∨
      (kind = 2 ∧ s.me.mode = .firmware ∧ p = fun _ => true) →
    ∃ t, exec (.tlbinv h ga kind) s = .next t ∧
      s.issues { s.setCore s.myCore { s.coreOf s.myCore with tlb := (s.coreOf s.myCore).tlb.filter fun e => !p e } with
          clus := mput [] s.clus (s.myCore / 8) ((mget [] s.clus (s.myCore / 8)).filter fun e => !p e) } h (s.me.pc + 8)
        { s.start with q := (readGs s s.me [ga]).2.q } t

/-- R108, R338, R339: CTXSAVE in handler or firmware mode, of another occupied slot of the core, whose area's pages are PIN and may be
written, gates the task's gang and saves the task to its area: the area takes the writes that the model lists for a whole context; the
slot holds no task that runs but keeps its windows, and the device keeps what the area does not hold under the number that the
area's suspension section names. Where no operation and no access of the task is under way and it has no other part, the area holds,
byte by byte, the header, each stream's PC and g registers, and each tile register with its count, nothing beside the area is written,
and the CTXSAVE has issued, its own stream otherwise as it was. That a saved slot keeps its windows is the model's choice (assumption
42), and so is that firmware mode may name any slot and context (assumption 54). -/
def Obligations.ContextSaved : Prop :=
  ∀ (h : Header) (ga : G) (s : State), s.runs h 0 → s.me.mode ≠ .task → canRead s s.me { srcs := [ga] } = true →
    let v := ((readGs s s.me [ga]).1.getD 0 0).toNat
    let area := v / 4096 * 4096
    let tk := 4 * s.myCore + v % 4
    let t0 := s.taskOf tk
    bits v 2 10 = 0 → (v % 4 ≠ s.me.slot ∨ s.me.mode = .firmware) → t0.stat ∉ [.empty, .saved, .ended] →
    (t0.ctx = s.myCtx ∨ s.me.mode = .firmware) → areaOk s t0.ctx area (areaOf t0.win t0.phys.length).size true = true →
    let st : Stream := { s.start with q := (readGs s s.me [ga]).2.q }
    let u := s.setMe st
    let ks := s.gangKeys t0.token
    let x := ks.foldl quiesce (ks.foldl gatePart u)
    let y := x.taskOf tk
    ∃ t, exec (.ctxsave h ga) s = .next t ∧ t.taskOf tk = { y with stat := .saved, fault := none, yreq := none, out := 0 } ∧
      (∃ z ∈ t.ctl.saves, z.id = x.fresh ∧ z.area = ofN area ∧ z.hnd = true ∧ z.task.token = y.token) ∧
      t.mem = (putArea x y.ctx area (cellBytes x y s.myCore (v % 4)
        ++ areaWrites x y s.myCore (v % 4) x.fresh (allParts - (allParts &&& y.out.toNat)) 2 0x7FF ++ [(13312, 3072, x.fresh)])).mem ∧
      (∀ K, t0.out = 0 → ks = [tk] → s.taskOps tk = [] → t0.phys.Nodup → s.cur % 8 ∉ t0.phys → (∀ n ∈ t0.phys, n < 8) →
        (∀ n (hn : n < t0.phys.length), let b := s.strmOf (8 * s.myCore + t0.phys[n])
          b.tnum = n ∧ b.mq = [] ∧ b.arr = [] ∧ b.land = []) → areaLies s t0.ctx area (areaOf t0.win t0.phys.length).size K →
        let w := t.taskOf tk
        let a := areaOf t0.win t0.phys.length
        w.win = t0.win ∧ w.phys = t0.phys ∧ w.ctx = t0.ctx ∧ w.token = t0.token ∧ w.amap = t0.amap ∧ w.evb = t0.evb ∧
        t.strmOf s.cur = st.after h s.now (s.me.pc + 8) ∧
        (∀ k, k < K ∨ K + a.size ≤ k → readB t.mem k = readB s.mem k) ∧
        readN t.mem K 4 = 0x45564153 ∧ readN t.mem (K + 4) 2 = 1 ∧ readN t.mem (K + 6) 1 = 2 ∧ readN t.mem (K + 8) 8 = t0.win.toNat ∧
        readN t.mem (K + 20) 1 = t0.ctx % 256 ∧ readN t.mem (K + 32) 8 = t0.amap.toNat ∧ readN t.mem (K + 40) 8 = t0.evb.toNat ∧
        (∀ n (hn : n < t0.phys.length), n < 8 → let b := s.strmOf (8 * s.myCore + t0.phys[n])
          readN t.mem (K + 512 + 512 * n) 8 = b.pc.toNat ∧ ∀ r, r < 32 → readN t.mem (K + 520 + 512 * n + 8 * r) 8 = (mget 0 b.g r).toNat) ∧
        ∀ i, i < (winOf t0.win .t).2 → let k := okey s.myCore .t ((winOf t0.win .t).1 + i)
          readN t.mem (K + a.trs + 512 * i) 512 = (mget 0 s.obj.tregs k).toNat ∧
          readN t.mem (K + 16384 + 32 * i) 2 = (s.cntOf k).w.toNat)

/-- R108, R338, R339: CTXLOAD in handler or firmware mode, of an area that holds a whole save of its context, into a saved slot of that
context whose windows have the sizes of the saved ones and as many streams, or an empty slot to which the dispatcher allots such
windows: the task stands there with the area's context, allocation map and EVB, each stream with the PC and g registers of its record,
each tile register with its bytes and its count, and the CTXLOAD has issued; where no other part of its gang is away, the task goes
on as it stood when it was gated. What the dispatcher allots to an empty slot and how the rest of a gang waits are the model's choice
(assumption 42), and so is what firmware mode may name (assumption 54). -/
def Obligations.ContextLoaded : Prop :=
  ∀ (h : Header) (ga : G) (s : State) (b0 b : Nat) (p : Plot), s.runs h 0 → s.me.mode ≠ .task → canRead s s.me { srcs := [ga] } = true →
    let v := ((readGs s s.me [ga]).1.getD 0 0).toNat
    let area := v / 4096 * 4096
    let room := s.taskOf (4 * s.myCore + v % 4)
    let win := ofN (fld b0 8 8)
    let n := bits (fld b0 16 4) 9 3 + 1
    let a := areaOf win n
    bits v 2 10 = 0 → (v % 4 ≠ s.me.slot ∨ s.me.mode = .firmware) → (room.stat = .empty ∨ room.stat = .saved ∧ room.ctx = fld b0 20 1) →
    readArea s s.myTask area [(0, 16384)] [] = .ok b0 → fld b0 0 4 = 0x45564153 → fld b0 4 2 = 1 → fld b0 6 1 = 2 →
    (fld b0 20 1 = s.myCtx ∨ s.me.mode = .firmware) → loadPlot s s.myCore (v % 4) win n = some p → areaOk s s.myCtx area a.size false = true →
    readArea s { s.myTask with win := win, phys := p.phys } area (areaRanges win n allParts) (savedFor s b0).pois = .ok b →
    ∃ t, exec (.ctxload h ga) s = .next t ∧
      let w := t.taskOf (4 * s.myCore + v % 4)
      w.win = p.win ∧ w.phys = p.phys ∧ w.ctx = fld b 20 1 % 64 ∧ w.amap = ofN (fld b 32 8) ∧ w.evb = ofN (fld b 40 8) ∧ w.out = 0 ∧
        ((∀ z ∈ s.ctl.saves, z.task.token = (savedFor s b).task.token → z.hnd = true ∧ z.task.grank = (savedFor s b).task.grank) →
          w.stat = (savedFor s b).task.was) ∧
        (s.cur % 8 ∉ p.phys → t.strmOf s.cur = Stream.after { s.start with q := (readGs s s.me [ga]).2.q } h s.now (s.me.pc + 8)) ∧
        (s.cur % 8 ∉ p.phys → p.phys.Nodup → ∀ i (hi : i < p.phys.length), let b' := t.strmOf (8 * s.myCore + p.phys[i])
          b'.pc = ofN (fld b (512 + 512 * i) 8) ∧ ∀ r, 0 < r → r < 32 → mget 0 b'.g r = ofN (fld b (520 + 512 * i + 8 * r) 8)) ∧
        ∀ i, i < (winOf p.win .t).2 → (winOf p.win .t).1 + i < 256 → let k := okey s.myCore .t ((winOf p.win .t).1 + i)
          mget 0 t.obj.tregs k = BitVec.ofNat 4096 (fld b (a.trs + 512 * i) 512) ∧ (t.cntOf k).w = BitVec.ofNat 16 (fld b (16384 + 32 * i) 2)

namespace Sys2Proof.Claim
/-! ### Loads, stores, atomics, SPAWN and SIGNAL (R18, R113 to R116, R121 to R124, R233, R305 to R309) -/

/-- An access as the spec gives it: header, major, operands, whether it loads, its address, size and alignment, the right it
needs, its shortest latency, and what enters the queue beside its place, address and number. -/
structure AccRow where
  h    : Header
  mj   : Nat
  use  : Use
  load : Bool
  addr : List Word → Word
  size : Nat
  al   : Nat
  need : Need
  ent  : List Word → Acc
  lat  : Nat
  host : Bool := true           -- host memory permits it

/-- Bytes and sign of a scalar access size (R62). -/
def szOf : Sz → Nat × Bool
  | .s8 => (1, true)
  | .n8 => (1, false)
  | .s16 => (2, true)
  | .n16 => (2, false)
  | .s32 => (4, true)
  | .n32 => (4, false)
  | .b64 => (8, false)

/-- A queue entry but for its place, size, address and number. -/
def ent (kind : AccKind) (due : Nat) (reg : G) (val cmp : Word) (sc : Scope) (ord : Ord) : Acc :=
  { kind := kind, place := .frm 0 0 0, size := 0, reg := reg.toNat, val := val, cmp := cmp, scope := sc, ord := ord, due := due }

/-- The accesses to memory; a value comes back after 320 cycles at the earliest (R42). -/
def memRow (now : Nat) : Instr → Option AccRow
  | .ld h sz g ga d => some ⟨h, 3, { srcs := [ga], dst := some g, var := true }, true, fun v => ofI (int v 0 + d.toInt), (szOf sz).1,
      (szOf sz).1, .r, fun _ => ent (.ld (szOf sz).2) (now + 320) g 0 0 .strm .rlx, 320, true⟩
  | .st h sz g ga d => some ⟨h, 3, { srcs := [ga, g] }, false, fun v => ofI (int v 0 + d.toInt), (szOf sz).1, (szOf sz).1, .w,
      fun v => ent .st now 0 (v.getD 1 0) 0 .strm .rlx, 0, true⟩
  | .amo h op w sc ord gd ga gb => some ⟨h, 4, { srcs := [ga, gb], dst := some gd, var := true }, true, fun v => v.getD 0 0,
      if w then 8 else 4, if w then 8 else 4, .rw, fun v => ent (.amo op) (now + 320) gd (v.getD 1 0) 0 sc ord, 320, op = .add ∨ op = .xchg⟩
  | .cas h w sc ord gd ga gb => some ⟨h, 4, { srcs := [ga, gb, gd], dst := some gd, var := true }, true, fun v => v.getD 0 0,
      if w then 8 else 4, if w then 8 else 4, .rw, fun v => ent .cas (now + 320) gd (v.getD 1 0) (v.getD 2 0) sc ord, 320, true⟩
  | .spawn h ga => some ⟨h, 14, { srcs := [ga] }, false, fun v => v.getD 0 0, 8, 64, .r, fun _ => ent .spawn 0 0 0 0 .strm .rlx, 0, true⟩
  | .signal h ga => some ⟨h, 14, { srcs := [ga] }, false, fun v => v.getD 0 0, 8, 64, .r, fun _ => ent .signal 0 0 0 0 .strm .rlx, 0, true⟩
  | _ => none

/-- The accesses to the frames of the gang, with, for an atomic, its scope; a value comes back after 6 cycles at the earliest, 40
from another core (R18, R42, R124). -/
def abfRow : Instr → Option (AccRow × Option Scope)
  | .lda h sz g ga d => some (⟨h, 3, { srcs := [ga], dst := some g, var := true }, true, fun v => ofI (int v 0 + d.toInt), (szOf sz).1,
      (szOf sz).1, .r, fun _ => ent (.ld (szOf sz).2) 0 g 0 0 .strm .rlx, 6, true⟩, none)
  | .sta h sz g ga d => some (⟨h, 3, { srcs := [ga, g] }, false, fun v => ofI (int v 0 + d.toInt), (szOf sz).1, (szOf sz).1, .w,
      fun v => ent .st 0 0 (v.getD 1 0) 0 .strm .rlx, 0, true⟩, none)
  | .amoa h op w sc ord gd ga gb => some (⟨h, 4, { srcs := [ga, gb], dst := some gd, var := true }, true, fun v => v.getD 0 0,
      if w then 8 else 4, if w then 8 else 4, .rw, fun v => ent (.amo op) 0 gd (v.getD 1 0) 0 sc ord, 6, true⟩, some sc)
  | .casa h w sc ord gd ga gb => some (⟨h, 4, { srcs := [ga, gb, gd], dst := some gd, var := true }, true, fun v => v.getD 0 0,
      if w then 8 else 4, if w then 8 else 4, .rw, fun v => ent .cas 0 gd (v.getD 1 0) (v.getD 2 0) sc ord, 6, true⟩, some sc)
  | _ => none

/-- The cached translation that serves an access of a core: the core's own, else its cluster's; none where a write needs D set first
(R305, R309). -/
def serves (s : State) (core ctx va : Nat) (n : Need) : Option Tlb :=
  (((s.coreOf core).tlb.find? (·.hits ctx va)).or ((mget [] s.clus (core / 8)).find? (·.hits ctx va))).filter fun x =>
    n = .r ∨ n = .x ∨ bitN x.pte.toNat 3 = false ∨ bitN x.pte.toNat 8 = true

/-- The place in memory of the table entry that maps an address for an access. -/
def leafPlace (s : State) (core ctx va : Nat) (n : Need) : Option Nat :=
  match serves s core ctx va n with
  | some x => some x.ploc
  | none => match walk s ctx va with
    | .ok (_, _, k) => some k
    | .error _ => none

/-- An entry of the load queue, or of the store queue, is free (R116). -/
def lsFree (st : Stream) (load : Bool) : Prop :=
  if load then st.mq.countP (fun a => a.loads || a.isMark) + st.arr.countP (·.load) < 32
  else st.mq.countP (fun a => a.stores || a.isMark) < 32

/-- The stream once an access has entered: the entry stands last, the counter of its class is one more, and a load's
destination is pending (R12, R89, R113). -/
def entered (s : State) (r : AccRow) (a : Acc) : Stream :=
  { s.start with q := (readGs s s.me r.use.srcs).2.q, mq := s.me.mq ++ [a]
                 cntL := if r.load then s.me.cntL + 1 else s.me.cntL, cntS := if r.load then s.me.cntS else s.me.cntS + 1
                 pend := if r.load ∧ a.reg ≠ 0 then s.me.pend ||| 1 <<< a.reg else s.me.pend }

end Sys2Proof.Claim

/-- R113 to R116, R121 to R123, R233, R307, R318, R367: a load, store, atomic, SPAWN or SIGNAL whose address is aligned and translates
to a place that permits it and can be reached, with a queue entry free, and of a SPAWN an input free at its sequencer (the model's
choice, assumption 64), enters the queue of its stream: nothing of memory changes but what the translation marked, the entry holds place,
address, size and data, and the access's counter goes up. That the place is found, the marks are made and poison is met at issue is the
model's reading (assumption 6). -/
def Obligations.MemoryAccessEnters : Prop :=
  ∀ (i : Instr) (r : AccRow) (s u : State) (l : Loc) (e : Nat), memRow s.now i = some r → s.runs r.h r.mj →
    canRead s s.me r.use = true → lsFree s.me r.load →
    let v := (readGs s s.me r.use.srcs).1
    (r.addr v).toNat % r.al = 0 → translate s s.myCore s.myCtx (r.addr v).toNat r.need = .ok l e u →
    reachable s s.myCtx l = true → (l.home = .host → r.host = true) → ((r.ent v).kind = .spawn → s.ctl.rels = []) →
    u.poisoned (memKey l) r.size = false →
    ∃ t, exec i s = .next t ∧ s.issues u r.h (s.me.pc + 8)
      (entered s r { r.ent v with place := .mem l, size := r.size, va := r.addr v, seq := s.fresh }) t

/-- R18, R113, R114, R124: an access to the frames, at an offset inside the task's window of its own core or, for an atomic of a
wider scope, of a core of its gang, aligned and clear of poison where it reads, enters the queue of its stream in the
same way, with the frame and the byte that the address names. -/
def Obligations.FrameAccessEnters : Prop :=
  ∀ (i : Instr) (r : AccRow) (sc : Option Scope) (s : State), abfRow i = some (r, sc) → s.runs r.h r.mj →
    canRead s s.me r.use = true → lsFree s.me r.load →
    let v := (readGs s s.me r.use.srcs).1
    let a := (r.addr v).toNat
    let rank := bits a 20 3
    let off := bits a 0 20
    let c := s.myTask.gbase + rank
    let f := (winOf (s.taskOf (4 * c + s.myTask.gslots.getD rank 0)).win .f).1 + off / 4096
    a < 2^23 → (if sc = none ∨ sc = some .core then rank = s.myTask.grank else True) → (sc ≠ none → rank < s.myTask.gsize) →
    off < (winOf s.myTask.win .f).2 * 4096 → off % r.al = 0 → (r.load = true → s.chipPoison c 3 f (off % 4096) r.size = false) →
    ∃ t, exec i s = .next t ∧ s.issues s r.h (s.me.pc + 8)
      (entered s r { r.ent v with
        place := .frm c f (off % 4096), size := r.size, va := r.addr v, seq := s.fresh
        due := s.now + if rank = s.myTask.grank ∨ r.load = false then r.lat else 40 }) t

/-- R305 to R309: a translation that succeeds changes nothing but the translation caches of the core and its cluster, and, of
memory, at most the table entry of the page's leaf, as the cached entry that serves the access names it or else the walk finds it, in
which it sets A, and D where it writes. That a cached entry serves until it is invalidated is the model's reading (assumption 13). -/
def Obligations.TranslationMarksOnly : Prop :=
  ∀ (s u : State) (core ctx va : Nat) (n : Need) (l : Loc) (e : Nat), translate s core ctx va n = .ok l e u →
    u = { s with core := u.core, clus := u.clus, mem := u.mem } ∧ bitN e 7 = true ∧ (n = .w ∨ n = .rw → bitN e 8 = true) ∧
      ((n = .r → bitN e 2 = true) ∧ (n = .w → bitN e 3 = true) ∧ (n = .rw → bitN e 2 = true ∧ bitN e 3 = true) ∧ (n = .x → bitN e 4 = true)) ∧
      (∀ c, c ≠ core → u.coreOf c = s.coreOf c) ∧
      (∃ k, leafPlace s core ctx va n = some k ∧ (∀ a, a < k ∨ k + 8 ≤ a → readB u.mem a = readB s.mem a) ∧
        (∀ b, b < 64 → b ≠ 7 → b ≠ 8 → bitN (readN u.mem k 8) b = bitN (readN s.mem k 8) b) ∧
        (n = .r ∨ n = .x → bitN (readN u.mem k 8) 8 = bitN (readN s.mem k 8) 8)) ∧
      ∀ v lvl k, serves s core ctx va n = none → walk s ctx va = .ok (v, lvl, k) → bitN (readN u.mem k 8) 7 = true ∧
        (n = .w ∨ n = .rw → bitN (readN u.mem k 8) 8 = true)

namespace Sys2Proof.Claim
/-! ### Counts and barriers (R25 to R32, R133 to R137) -/

/-- The counts and the view that a count instruction works on are those of an object in the task's window that no earlier
operation of its stream holds (R15, R25). -/
def countsOn (s : State) (spc : Spc) (i k : Nat) : Prop :=
  nameFault s.myTask spc i = none ∧ k = nameKey s.myTask s.myCore s.me.slot spc i ∧ s.viewBlocked s.cur k s.fresh = false

/-- A unit of the pipeline sees the latest change of counts now (R42). -/
def sees (s : State) (cyc maker : Nat) : Prop := maker = 0 ∨ cyc + (if maker = 16 + s.cur then 1 else 2) ≤ s.now

end Sys2Proof.Claim

/-- R26, R28, R31, R133, R134: TWAIT and DROP of the version that the tag names, V + TAG = W, issue once the pipeline sees it: the view
takes that count; DROP also consumes one read of a version that is not held, and leaves the reads in flight as they were.
With tag 63 both only issue. BUMP of an object that no reader holds issues once the pipeline sees it free, where no write has
committed to it in this cycle and no operation or BUMP that goes first (R29) can write it now: W goes up by one, D and L take the read count, 15 holds the version instead, and the view follows. -/
def Obligations.CountedWaitsAndBumps : Prop :=
  (∀ (h : Header) (spc : Spc) (x : Src) (k : Nat) (s : State), s.mayRun 6 → nameFault s.myTask spc x.obj.toNat = none →
    (x.tag = 63 → (∃ t, exec (.twait h spc x) s = .next t ∧ s.issues s h (s.me.pc + 8) s.start t) ∧
      ∃ t, exec (.drop h spc x) s = .next t ∧ s.issues s h (s.me.pc + 8) s.start t) ∧
    (x.tag ≠ 63 → countsOn s spc x.obj.toNat k →
      let c := s.cntOf k
      (c.view s.me.tnum + x.tag.setWidth 16) = c.w → sees s c.wc c.wu →
      (∃ t, exec (.twait h spc x) s = .next t ∧
        s.issues (s.setCnt k (c.setView s.me.tnum c.w)) h (s.me.pc + 8) s.start t) ∧
      ∃ t, exec (.drop h spc x) s = .next t ∧
        s.issues (s.setCnt k { c.setView s.me.tnum c.w with
          l := if c.h = false ∧ c.l ≠ 0 then c.l - 1 else c.l, lc := s.now, lu := 16 + s.cur }) h (s.me.pc + 8) s.start t)) ∧
  ∀ (h : Header) (spc : Spc) (x : Dst) (k : Nat) (s : State), s.mayRun 6 → countsOn s spc x.obj.toNat k →
    let c := s.cntOf k
    c.h = false → c.l = 0 → c.rif = 0 → sees s c.lc c.lu → c.wu = 0 ∨ c.wc ≠ s.now →
    (∀ p ∈ s.ops, (∃ y ∈ s.opDsts p, y.1 = k) → s.now < p.due ∨ s.cur % 8 < p.strm) →
    (∀ n, n < s.cur % 8 → s.bumpNow (8 * s.myCore + n) ≠ some k) →
    (∀ e ∈ s.strm, ∀ a ∈ e.2.arr, a.view ≠ some (k, s.now)) →
    ∃ (t : State) (d : Cnt), exec (.bump h spc x) s = .next t ∧ s.issues (s.setCnt k (d.setView s.me.tnum (c.w + 1))) h (s.me.pc + 8) s.start t ∧
      d.w = c.w + 1 ∧ d.d = x.rc ∧ d.l = (if x.rc = 15 then 0 else x.rc) ∧ d.h = (x.rc == 15) ∧ d.rif = 0 ∧ d.v = c.v

/-- R30 to R32, R134, R135: under a true guard TSYNC sets the view to W, TREL releases a held version, and TVIEW's destination is
pending and its value, the view with W, D, L and H, comes after two cycles; under a false guard the three only issue. -/
def Obligations.CountedControl : Prop :=
  ∀ (h : Header) (spc : Spc) (o : BitVec 8) (gd : G) (k : Nat) (s : State), s.mayRun 6 → nameFault s.myTask spc o.toNat = none →
    (s.me.guard h = false → ∀ i ∈ [Instr.tsync h spc o, .trel h spc o, .tview h gd spc o],
      ∃ t, exec i s = .next t ∧ s.issues s h (s.me.pc + 8) s.start t) ∧
    (s.me.guard h = true → countsOn s spc o.toNat k →
      let c := s.cntOf k
      (∃ t, exec (.tsync h spc o) s = .next t ∧ s.issues (s.setCnt k (c.setView s.me.tnum c.w)) h (s.me.pc + 8) s.start t) ∧
      (c.h = true → ∃ t, exec (.trel h spc o) s = .next t ∧
        s.issues (s.setCnt k { c with h := false, d := 0, l := 0, lc := s.now, lu := 16 + s.cur }) h (s.me.pc + 8) s.start t) ∧
      (canRead s s.me { dst := some gd, var := true } = true → ∃ t, exec (.tview h gd spc o) s = .next t ∧
        s.issues s h (s.me.pc + 8)
          { s.start with pend := if gd = 0 then s.me.pend else s.me.pend ||| 1 <<< gd.toNat
                         arr := if gd = 0 then s.me.arr
                                else s.me.arr ++ [{ reg := gd.toNat, due := s.now + 2, view := some (k, s.now), val := ofN ((c.view s.me.tnum).toNat + 2^16 * c.w.toNat + 2^32 * c.d.toNat + 2^36 * c.l.toNat + 2^40 * c.h.toNat) }] } t))

/-- R26, R28, R70: a TWAIT or DROP of a version whose count has passed takes cause 0x05 with its object, and a BUMP of a name
outside the window cause 0x04, or 0x06 where there is no such object: the task's handler is entered. That a difference of exactly
-32,768 is a passed version is the model's choice (assumption 52). -/
def Obligations.CountedFaults : Prop :=
  ∀ (h : Header) (spc : Spc) (s u : State) (l : Loc), s.me.run = .run → s.vectorsTo l u →
    let rec' (cause : Nat) (o : BitVec 8) : FaultRec :=
      { trapRecord s cause 0 0 with finfo := ofN (cause + 2^8 * (s.me.tnum % 8) + 2^14 * spc.code.toNat + 2^16 * o.toNat + 2^24) }
    (∀ (x : Src) (k : Nat), countsOn s spc x.obj.toNat k → x.tag ≠ 63 →
      ((s.cntOf k).view s.me.tnum + x.tag.setWidth 16 - (s.cntOf k).w).toInt < 0 →
      ∀ i ∈ [Instr.twait h spc x, .drop h spc x], ∃ t, exec i s = .next t ∧ s.vectors u (rec' 0x05 x.obj) (memKey l) t) ∧
    ∀ (x : Dst), (winOf s.myTask.win spc).2 ≤ x.obj.toNat →
      ∃ t, exec (.bump h spc x) s = .next t ∧
        s.vectors u (rec' (if x.obj.toNat < spaceSize spc then 0x04 else 0x06) x.obj) (memKey l) t

/-- R136, R137: BARINIT initialises a barrier of the task's window, or the gang's, which is kept at rank 0: N, GANG, no arrivals,
every stream's target the next phase, GEN as it was. BARARR on an initialised barrier makes an arrival for its stream, and the
arrival that reaches N starts the next phase. -/
def Obligations.BarrierArrivals : Prop :=
  (∀ (h : Header) (i : BitVec 8) (n : BitVec 18) (gang : Bool) (s : State), s.runs h 6 → i.toNat < 64 → i.toNat < (winBar s.myTask.win).2 →
    let t0 := s.taskOf (4 * s.myTask.gbase + s.myTask.gslots.getD 0 0)
    let k := if gang then 64 * s.myTask.gbase + (winBar t0.win).1 + i.toNat else 64 * s.myCore + (winBar s.myTask.win).1 + i.toNat
    ∃ (t : State) (b : Bar), exec (.barinit h i n gang) s = .next t ∧ s.issues (s.setBar k b) h (s.me.pc + 8) s.start t ∧ b.n = n.setWidth 32 ∧
      b.gang = gang ∧ b.a = 0 ∧ b.gen = (s.barOf k).gen ∧ ∀ j, j < 64 → bits b.t.toNat (16 * j) 16 = ((s.barOf k).gen + 1).toNat) ∧
  ∀ (h : Header) (i : BitVec 8) (s : State), s.runs h 6 → i.toNat < 64 → i.toNat < (winBar s.myTask.win).2 →
    let k := barOfName s i.toNat
    let b := s.barOf k
    b.n ≠ 0 → 128 * s.myTask.grank + 16 * s.me.tnum + 16 ≤ 1024 →
    ∃ (t : State) (c : Bar), exec (.bararr h i) s = .next t ∧ s.issues (s.setBar k c) h (s.me.pc + 8) s.start t ∧ c.n = b.n ∧ c.gang = b.gang ∧
      bits c.t.toNat (128 * s.myTask.grank + 16 * s.me.tnum) 16 = (b.gen + 1).toNat ∧
      (b.a + 1 = b.n → c.a = 0 ∧ c.gen = b.gen + 1 ∧ c.rel = s.now) ∧ (b.a + 1 ≠ b.n → c.a = b.a + 1 ∧ c.gen = b.gen ∧ c.rel = b.rel)

/-- R137: at a barrier whose phase for its stream has completed, BARWAIT and a BARSYNC that has arrived issue with SYNCARR 0, from
3 cycles after the completing arrival on, 40 at a gang barrier away from rank 0. Before its phase completes they wait.
A BARSYNC that has not arrived arrives first, with SYNCARR 1. -/
def Obligations.BarrierWaits : Prop :=
  ∀ (h : Header) (i : BitVec 8) (s : State), s.runs h 6 → i.toNat < 64 → i.toNat < (winBar s.myTask.win).2 →
    let k := barOfName s i.toNat
    let b := s.barOf k
    let place := 128 * s.myTask.grank + 16 * s.me.tnum
    let d := (b.gen - BitVec.ofNat 16 (bits b.t.toNat place 16)).toInt
    let held := s.me.syncArr = true ∧ s.me.syncBar = i.toNat
    b.n ≠ 0 → s.me.barW = none →
    (0 < d ∨ d = 0 ∧ b.rel + (if b.gang = true ∧ k / 64 ≠ s.myCore then 40 else 3) ≤ s.now →
      (∃ t, exec (.barwait h i) s = .next t ∧ s.issues s h (s.me.pc + 8) { s.start with syncArr := false } t) ∧
      (held → ∃ t, exec (.barsync h i) s = .next t ∧ s.issues s h (s.me.pc + 8) { s.start with syncArr := false } t)) ∧
    (d < 0 → ∃ t, exec (.barwait h i) s = .next t ∧ (t.strmOf s.cur).pc = s.me.pc ∧ (t.strmOf s.cur).barW = some k ∧ t.obj = s.obj) ∧
    (¬held → s.me.wait = none → place + 16 ≤ 1024 →
      ∃ t, exec (.barsync h i) s = .next t ∧ (t.strmOf s.cur).syncArr = true ∧ (t.strmOf s.cur).syncBar = i.toNat ∧
        (t.strmOf s.cur).pc = s.me.pc ∧ t.barOf k = barArrive b place s.now)

namespace Sys2Proof.Claim
/-! ### The issue of engine operations (R20, R70, R141 to R143, R380) -/

/-- The engine instructions: header, major, bytes and engine. -/
def engRow : Instr → Option (Header × Nat × Nat × Eng)
  | .vadd h _ _ _ _ | .vsub h _ _ _ _ | .vmul h _ _ _ _ | .vmin h _ _ _ _ | .vmax h _ _ _ _ | .vand h _ _ _ _
  | .vor h _ _ _ _ | .vxor h _ _ _ _ | .vshl h _ _ _ _ | .vshr h _ _ _ _ | .vsra h _ _ _ _ | .vwmul h _ _ _ _
  | .vwadd h _ _ _ _ | .vabs h _ _ _ | .vneg h _ _ _ | .vnot h _ _ _ | .vbcast h _ _ _ | .vlane h _ _ _ _ _
  | .vperm h _ _ _ | .viota h _ _ | .vexp2 h _ _ | .vrcp h _ _ | .vrsq h _ _ | .vsqrt h _ _
    => some (h, 7, 8, .vec)
  | .vfma h _ _ _ _ _ | .vcmp h _ _ _ _ _ | .vsel h _ _ _ _ _ => some (h, 7, 16, .vec)
  | .vcvt h _ _ _ _ _ => some (h, 8, 8, .vec)
  | .vquant h _ _ _ _ | .vquant2 h _ _ _ _ | .vdeq h _ _ _ _ => some (h, 8, 16, .vec)
  | .vsclr h _ | .vstat h _ _ _ _ | .vsmerge h _ _ _ | .vsdrain h _ _ _ _ _ | .vredmax h _ _ _ | .vredmin h _ _ _
  | .vhist h _ _ _ | .vrank h _ _ _ | .vamerge h _ _ _ | .vafin h _ _ => some (h, 9, 8, .vec)
  | .vstatw h _ _ _ _ _ | .vsdrainNorm h _ _ _ _ _ _ _ _ => some (h, 9, 16, .vec)
  | .vld h _ _ _ _ _ | .vst h _ _ _ _ | .vgath h _ _ _ _ | .vscat h _ _ _ _ | .vldo h _ _ _ | .vsto h _ _ _
  | .vqrd h _ _ => some (h, 10, 8, .vec)
  | .vlds h _ _ _ _ _ _ _ => some (h, 10, 16, .vec)
  | .acdrain h _ _ _ _ _ _ _ | .acfill h _ _ _ => some (h, 11, 8, .vec)
  | .mma h _ _ _ _ _ | .mmas h _ _ _ _ _ | .mgath h _ _ _ _ _ _ _ _ | .mgroup h _ _ _ _ _ _ _
    => some (h, 11, 16, .mat)
  | .acalloc h _ _ | .acfree h _ | .acband h _ _ _ | .aczero h _ => some (h, 11, 8, .mat)
  | .cp h _ _ _ _ _ _ | .cpst h _ _ _ _ _ | .cpq h _ _ _ | .cppub h _ _ | .rfence h => some (h, 12, 8, .cpy)
  | .cpg h _ _ _ | .cps h _ _ _ => some (h, 12, 16, .cpy)
  | .qpost h _ _ _ _ _ _ => some (h, 13, 16, .near)
  | .kvapp h _ _ _ | .coll h _ _ | .trigarm h _ _ | .trigclr h _ | .tsend h _ _ => some (h, 13, 8, .near)
  | _ => none

/-- Engine instructions with tests or effects of their own at issue. -/
def ownIssue : Instr → Bool
  | .vld _ _ _ _ _ _ | .vst _ _ _ _ _ | .vlds _ _ _ _ _ _ _ _ | .vlane _ _ _ _ _ _ | .acalloc _ _ _ | .acfree _ _ => true
  | .cp _ _ _ _ _ _ _ | .cpst _ _ _ _ _ _ | .cpq _ _ _ _ | .cppub _ _ _ | .cpg _ _ _ _ | .cps _ _ _ _ | .rfence _ => true
  | .qpost _ _ _ _ _ _ _ | .kvapp _ _ _ _ | .coll _ _ _ | .trigarm _ _ _ | .trigclr _ _ | .tsend _ _ _ => true
  | _ => false

/-- An engine instruction takes no cause of its names or fields, and its queue has room (R15, R20, R192, R200). -/
def queues (s : State) (i : Instr) (eng : Eng) : Prop :=
  (∀ x ∈ (tileOf i).names, nameFault s.myTask x.1 x.2 = none) ∧ fieldFault s.myTask i = none ∧ queueRoom s s.cur eng = true

/-- The operation that an issue puts into a queue: the instruction, its place, its PC, cycle, FPC and guard, and the values of its
g operands (R20, R23). -/
def issuedOp (s : State) (i : Instr) (eng : Eng) (g : Bool) (gv : List Word) : Op :=
  { uid := s.fresh, core := s.myCore, strm := s.cur % 8, slot := s.me.slot, tnum := s.me.tnum, ctx := s.myCtx, eng := eng, i := i
    pc := s.me.pc, cyc := s.now, fpc := s.me.fpc, guard := g, gv := gv }

/-- The stream with one more operation of an engine's class outstanding (R12). -/
def counts (st : Stream) : Eng → Stream
  | .vec | .mat => { st with cntT := st.cntT + 1 }
  | .cpy | .near => { st with cntC := st.cntC + 1 }

/-- The stream after it has read g operands. -/
def took (s : State) (l : List G) : Stream := { s.start with q := (readGs s s.me l).2.q }

end Sys2Proof.Claim

/-- R20, R88, R380: under a false guard every engine instruction still enters its queue, with the guard it had, and its counter
goes up; only a copy may open a fill. -/
def Obligations.FalseGuardQueues : Prop :=
  ∀ (i : Instr) (h : Header) (mj n : Nat) (eng : Eng) (s : State), engRow i = some (h, mj, n, eng) → s.mayRun mj →
    s.me.guard h = false → queues s i eng →
    ∃ (t : State) (op : Op), exec i s = .next t ∧ op = { issuedOp s i eng false [] with fill := op.fill } ∧
      s.issues { s with ops := s.ops ++ [op], fresh := s.fresh + 1, obj := t.obj } h (s.me.pc + ofN n) (counts s.start eng) t ∧
      (eng ≠ .cpy → t.obj = s.obj)

/-- R20, R23, R141: an engine instruction without tests of its own enters its queue with the values of its g operands, and its
counter goes up. -/
def Obligations.EngineIssues : Prop :=
  ∀ (i : Instr) (h : Header) (mj n : Nat) (eng : Eng) (s : State), engRow i = some (h, mj, n, eng) → ownIssue i = false → s.runs h mj →
    queues s i eng → canRead s s.me { srcs := (tileOf i).gs } = true →
    ∃ t, exec i s = .next t ∧
      s.issues { s with ops := s.ops ++ [issuedOp s i eng true (readGs s s.me (tileOf i).gs).1], fresh := s.fresh + 1 } h
        (s.me.pc + ofN n) (counts (took s (tileOf i).gs) eng) t

/-- R154, R179, R183: VLD, VST and VLDS with an offset O = G(gb) + 8 × imm9 whose bytes lie inside the frame, aligned, enter their
queue with O. VLANE of a lane that the register has enters its queue with the lane, and its destination is pending. -/
def Obligations.OffsetsAndLanesIssue : Prop :=
  (∀ (i : Instr) (h : Header) (gb : G) (imm : BitVec 9) (n bytes al : Nat) (s : State),
    ((∃ ty d a, i = .vld h ty d a gb imm ∧ n = 8 ∧ bytes = (if ty = .s64 then 1024 else 512) ∧ al = 8) ∨
      (∃ d a, i = .vst h d gb imm a ∧ n = 8 ∧ bytes = 512 ∧ al = 8) ∨
      ∃ ty d a st cnt, i = .vlds h ty d a gb imm st cnt ∧ n = 16 ∧ st.toNat % (Machine.Ty.w ty / 8) = 0 ∧ al = Machine.Ty.w ty / 8 ∧
        bytes = ((if cnt.toNat = 0 then ty.lpr else cnt.toNat) - 1) * st.toNat + Machine.Ty.w ty / 8) →
    s.runs h 10 → queues s i .vec → canRead s s.me { srcs := [gb] } = true →
    let o := (((readGs s s.me [gb]).1.getD 0 0).toNat + 8 * imm.toNat) % 2^64
    o + bytes ≤ 4096 → o % al = 0 →
    ∃ t, exec i s = .next t ∧
      s.issues { s with ops := s.ops ++ [issuedOp s i .vec true [ofN o]], fresh := s.fresh + 1 } h (s.me.pc + ofN n)
        (counts (took s [gb]) .vec) t) ∧
  ∀ (h : Header) (ty : Ty) (gd : BitVec 8) (a : Src) (gb : G) (imm : BitVec 9) (s : State), gd.toNat < 32 → s.runs h 7 →
    queues s (.vlane h ty gd a gb imm) .vec → canRead s s.me { srcs := [gb], dst := some (gd.setWidth 6), var := true } = true →
    let lane := ((readGs s s.me [gb]).1.getD 0 0).toNat + imm.toNat
    lane < ty.lpr →
    ∃ t, exec (.vlane h ty gd a gb imm) s = .next t ∧
      s.issues { s with ops := s.ops ++ [{ issuedOp s (.vlane h ty gd a gb imm) .vec true [ofN lane] with reg := gd.toNat }]
                        fresh := s.fresh + 1 } h (s.me.pc + 8)
        (counts { took s [gb] with pend := if gd = 0 then s.me.pend else s.me.pend ||| 1 <<< gd.toNat } .vec) t

/-- R198: ACALLOC marks the lowest run of COUNT names of the quota that are all free, and its destination receives the first,
or all ones where there is none; ACFREE unmarks its name. Both also enter the matrix queue. -/
def Obligations.AccumulatorNames : Prop :=
  (∀ (h : Header) (gd : G) (n : BitVec 7) (s : State), s.runs h 11 → queues s (.acalloc h gd n) .mat →
    canRead s s.me { dst := some gd, var := true } = true →
    let quota := bits s.myTask.win.toNat 26 7
    let fits := fun b => b + n.toNat ≤ quota ∧ ∀ i, i < n.toNat → bitN s.myTask.amap.toNat (b + i) = false
    let st (v : Word) : Stream := counts { s.start with
      pend := if gd = 0 then s.me.pend else s.me.pend ||| 1 <<< gd.toNat
      arr := if gd = 0 then s.me.arr else s.me.arr ++ [{ reg := gd.toNat, due := s.now + 2, val := v }] } .mat
    (∀ b, fits b → (∀ c, c < b → ¬fits c) → ∃ t, exec (.acalloc h gd n) s = .next t ∧
      s.issues { s.setTask (s.tkey s.cur) { s.myTask with amap := s.myTask.amap ||| BitVec.ofNat 64 ((2^n.toNat - 1) * 2^b) } with
          ops := s.ops ++ [{ issuedOp s (.acalloc h gd n) .mat true [] with img := [b, n.toNat] }], fresh := s.fresh + 1 } h
        (s.me.pc + 8) (st (ofN b)) t) ∧
    ((∀ b, ¬fits b) → ∃ t, exec (.acalloc h gd n) s = .next t ∧
      s.issues { s with ops := s.ops ++ [{ issuedOp s (.acalloc h gd n) .mat true [] with img := [0, 0] }], fresh := s.fresh + 1 } h
        (s.me.pc + 8) (st ones) t)) ∧
  ∀ (h : Header) (x : BitVec 8) (s : State), s.runs h 11 → queues s (.acfree h x) .mat →
    ∃ t, exec (.acfree h x) s = .next t ∧
      s.issues { s.setTask (s.tkey s.cur) { s.myTask with amap := s.myTask.amap &&& ~~~(1#64 <<< x.toNat) } with
          ops := s.ops ++ [issuedOp s (.acfree h x) .mat true []], fresh := s.fresh + 1 } h (s.me.pc + 8) (counts s.start .mat) t

namespace Sys2Proof.Claim

/-- The copies with their register of a shape record and, but for the indexed ones, their first coordinate register. -/
def copyRow : Instr → Option (G × Option G)
  | .cp _ _ _ gs gc _ _ | .cpst _ _ gs gc _ _ | .cpq _ _ gs gc => some (gs, some gc)
  | .cpg _ _ gs _ | .cps _ gs _ _ => some (gs, none)
  | _ => none

/-- What a near-memory command finds at issue beside its g operands' values `v`, in the state `x` in which it has read them:
the image that travels with it, and the state that reading its records left. -/
def nearRow (x : State) (v : List Word) (img : List Nat) (u : State) : Instr → Prop
  | .qpost _ _ c _ _ qn _ => ∃ r, readKv x (v.getD 0 0) = .ok (r, u) ∧ img = [r] ∧ 1 ≤ qn.toNat ∧ qn.toNat ≤ 8 ∧ qn.toNat * kvD r ≤ 1024 ∧
      nat v 1 ≤ kvCap r ∧
      attnBad x x.myCtx r 0 0 = false ∧ ∀ i, i < ceilDiv (qn.toNat * kvD r) 256 → nameFault x.myTask .t (c.obj.toNat + i) = none
  | .kvapp _ _ _ a => ∃ r, readKv x (v.getD 0 0) = .ok (r, u) ∧ img = [r] ∧ nat v 1 < kvCap r ∧
      attnBad x x.myCtx r (kvAddr r (nat v 1)) (kvAddr r (nat v 1) + kvBytes r) = false ∧ ∀ i, i < ceilDiv (2 * kvD r * kvEsize r) 512 → nameFault x.myTask .t (a.obj.toNat + i) = none
  | .coll _ _ _ => ∃ b e l x1 x2 x3, nat v 0 % 128 = 0 ∧ issueRead 2 x (nat v 0) 128 = .ok (b, x1) ∧ collBad b = false ∧
      let tab := (x.ctxOf x.myCtx).grptab.toNat
      collGroup b < bits tab 0 12 ∧ issueRead 2 x1 (bits tab 12 52 * 2^12 + 16 * collGroup b) 16 = .ok (e, x2) ∧ bits e 0 16 ≤ 576 ∧
      bits e 32 32 = 0 ∧ issueRead 3 x2 (bits e 64 64) (2 * bits e 0 16) = .ok (l, x3) ∧
      groupBad x b (bits e 0 16) (bits e 16 16) (unpack 16 (bits e 0 16) l) = false ∧
      (x.funOf (x.ownerC x.myCtx)).balOut ≠ none ∧ u = { x3 with free := x3.free + 1 } ∧
      img = [b, bits e 0 16, bits e 16 16, collAlg x3 b (bits e 0 16)] ++ unpack 16 (bits e 0 16) l
  | .trigarm _ _ _ => ∃ c, nat v 0 < 2^11 ∧ bits (nat v 0) 8 3 ∈ x.stacksOf (x.ownerC x.myCtx) ∧ nat v 1 % 64 = 0 ∧
      issueRead 2 x (nat v 1) 64 = .ok (c, u) ∧ cmdBad c = false ∧ img = [c]
  | .trigclr _ _ => nat v 0 < 2^11 ∧ bits (nat v 0) 8 3 ∈ x.stacksOf (x.ownerC x.myCtx) ∧ img = [] ∧ u = x
  | .tsend _ _ _ => nat v 1 < 2^11 ∧ x.inDomain (bits (nat v 0) 0 10) = true ∧ img = [] ∧ u = x ∧
      (if bits (nat v 0) 0 10 = bits x.dev.pf0.domain.toNat 0 10 then bits (nat v 1) 8 3 ∈ x.stacksOf (x.ownerC x.myCtx)
        else (x.funOf (x.ownerC x.myCtx)).balOut ≠ none)
  | _ => False

end Sys2Proof.Claim

/-- R219, R222, R226 to R230, R369: a near-memory command whose records can be read and keep their rules enters its queue with them. That a lack
of ATTN in the page of KVAPP's own token comes when the token is written, with cause 0x0B, is the model's reading (assumption 30). -/
def Obligations.NearCommandsIssue : Prop :=
  ∀ (i : Instr) (h : Header) (n : Nat) (img : List Nat) (s u : State), engRow i = some (h, 13, n, .near) → s.runs h 13 →
    queues s i .near → canRead s s.me { srcs := (tileOf i).gs } = true →
    nearRow (s.setMe (took s (tileOf i).gs)) (readGs s s.me (tileOf i).gs).1 img u i →
    ∃ t, exec i s = .next t ∧
      s.issues { u with ops := s.ops ++ [{ issuedOp s i .near true (readGs s s.me (tileOf i).gs).1 with img := img }]
                        fresh := s.fresh + 1 } h (s.me.pc + ofN n) (counts (took s (tileOf i).gs) .near) t

/-- R205, R210, R212, R213, R218: a copy whose record the core holds or can read, with its coordinates not pending, enters the copy
queue with the record and, but for CPG and CPS, the coordinates; CPPUB enters it with the fill it closes. RFENCE with every
earlier store of its stream performed enters it and empties the record cache of its core (when it does so is the model's reading,
assumption 10). -/
def Obligations.CopiesIssue : Prop :=
  ((∀ (i : Instr) (h : Header) (n r : Nat) (gs : G) (gc : Option G) (s u : State), engRow i = some (h, 12, n, .cpy) →
    copyRow i = some (gs, gc) → s.runs h 12 → queues s i .cpy → canRead s s.me { srcs := [gs] } = true →
    readRec (s.setMe (took s [gs])) ((readGs s s.me [gs]).1.getD 0 0) = .ok (r, u) →
    (∀ g ∈ gc, g.toNat + recRank r ≤ 32 ∧ ∀ d, d < recRank r → bitN s.me.pend.toNat (g.toNat + d) = false) →
    ∃ (t : State) (op : Op), exec i s = .next t ∧
      op = { issuedOp s i .cpy true ((readGs s s.me [gs]).1 ++ match gc with
          | some g => (List.range (recRank r)).map fun d => if g.toNat + d = 0 then 0 else mget 0 s.me.g (g.toNat + d)
          | none => []) with img := [r], fill := op.fill } ∧
      s.issues { u with ops := s.ops ++ [op], fresh := s.fresh + 1, obj := t.obj } h (s.me.pc + ofN n) (counts (took s [gs]) .cpy) t) ∧
  ∀ (h : Header) (spc : Spc) (x : BitVec 8) (s : State), s.runs h 12 → queues s (.cppub h spc x) .cpy →
    ∃ t, exec (.cppub h spc x) s = .next t ∧
      s.issues { s with ops := s.ops ++ [{ issuedOp s (.cppub h spc x) .cpy true [] with
            fill := joinGen s (nameKey s.myTask s.myCore s.me.slot spc x.toNat) }], fresh := s.fresh + 1 } h (s.me.pc + 8)
        (counts s.start .cpy) t) ∧
  ∀ (h : Header) (s : State), s.runs h 12 → queues s (.rfence h) .cpy → (∀ a ∈ s.me.mq, a.kind = .mark ∨ a.isLd = true) →
    ∃ t, exec (.rfence h) s = .next t ∧
      s.issues { s.setCore s.myCore { s.coreOf s.myCore with recs := [] } with
        ops := s.ops ++ [issuedOp s (.rfence h) .cpy true []], fresh := s.fresh + 1 } h (s.me.pc + 8) (counts s.start .cpy) t

/-- R131, R231, R232: while a request stands, YIELD stops its stream with its PC where it is; a stream with nothing outstanding
that executes DONE has ended, which ends its task once every stream of the gang has; and NEXTIT asks for an assignment. -/
def Obligations.StreamStops : Prop :=
  ∀ (h : Header) (s : State),
    (∀ (clean : Bool) (mask : BitVec 32), s.runs h 5 → s.me.mode = .task → s.myTask.yreq ≠ none →
      ∃ t, exec (.yield h clean mask) s = .next t ∧ s.ownOnly t ∧ t.core = s.core ∧ t.strmOf s.cur =
        { s.start with run := .yielded, yclean := clean, ymask := mask, wait := none, syncArr := false, nextIss := s.now + 1 + h.gap.toNat }) ∧
    (s.runs h 14 → s.me.cntL = 0 → s.me.cntS = 0 → s.me.cntC = 0 → s.me.cntT = 0 →
      (allDone (s.setMe { s.start with run := .done, wait := none }) s.myTask.token = false →
        ∃ t, exec (.done h) s = .next t ∧ s.ownOnly t ∧ t.strmOf s.cur = { s.start with run := .done, wait := none } ∧
          (t.coreOf s.myCore).issC = s.now ∧ (t.coreOf s.myCore).last = s.cur % 8) ∧
      (allDone (s.setMe { s.start with run := .done, wait := none }) s.myTask.token = true → s.placed →
        s.gangKeys s.myTask.token = [s.tkey s.cur] → (∀ n ∈ s.myTask.phys, (s.strmOf (8 * s.myCore + n)).mq = []) →
        ∃ t, exec (.done h) s = .next t ∧ t.taskOf (s.tkey s.cur) = {} ∧ (t.strmOf s.cur).run = .absent ∧ t.mem = s.mem ∧
          t.ctl.lnch = s.ctl.lnch.map (fun l => if l.lid = s.myTask.lid then { l with ended := l.ended + 1 } else l))) ∧
    ∀ pd : P, s.runs h 14 → s.me.nx.owed = false → bits s.me.pend.toNat 24 8 = 0 → (∀ l ∈ s.me.land, l.reg < 24 ∨ 32 ≤ l.reg ∧ (pd = 0 ∨ l.reg ≠ 32 + pd.toNat)) →
      s.me.nx.taken ≤ (mget {} s.ctl.grps (8 * s.myTask.token + s.me.tnum / s.myTask.sper)).reqd →
      ∃ t, exec (.nextit h pd) s = .next t ∧ (t.strmOf s.cur).pc = s.me.pc ∧ (t.strmOf s.cur).g = s.me.g ∧
        (t.strmOf s.cur).nx = { s.me.nx with owed := true, pd := pd, gap := h.gap, sw := h.sw, at' := some s.me.pc } ∧
        s.me.nx.taken < (mget {} t.ctl.grps (8 * s.myTask.token + s.me.tnum / s.myTask.sper)).reqd

namespace Sys2Proof.Claim
/-! ### Results that arrive, accesses at their homes, engines at work (R18, R21 to R37, R89, R113 to R124, R252 to R256) -/

/-- The new contents of a location under an atomic of `w` bits (R62, R121). -/
def amoNew (op : AmoOp) (w old b : Nat) : Nat :=
  let i (x : Nat) : Int := if x < 2^(w - 1) then x else x - 2^w
  match op with
  | .add => (old + b) % 2^w
  | .and => old &&& b
  | .or => old ||| b
  | .xor => old ^^^ b
  | .min => if i b < i old then b else old
  | .max => if i old < i b then b else old
  | .minn => if b < old then b else old
  | .maxn => if old < b then b else old
  | .xchg => b
  | .fadd => (fadd f32F {} (fdec f32F false old) (fdec f32F false b)).1

/-- A stream with its queue one access shorter, and a value on its way where the access has one. -/
def performed (st : Stream) (c k now : Nat) (a : Acc) (v : Option Word) (t : Stream) : Prop :=
  t = { st with mq := t.mq, arr := t.arr, cntS := if a.stores then st.cntS - 1 else st.cntS } ∧
    t.mq.filter (fun x => !x.isMark) = (st.mq.eraseIdx k).filter (fun x => !x.isMark) ∧
    t.arr = match v with
      | some v => st.arr ++ [{ reg := a.reg, due := max now a.due, val := v, load := true, own := a.place.onCore c }]
      | none => st.arr

/-- `t` is `u` but for what a performed access changes on its way: the device's ports, with the number of the request that goes to
a peer, and the count of accesses; stalled streams try again. -/
def onlyPerforms (s t u : State) : Prop :=
  t = { u with stall := [], fresh := t.fresh, dev := { s.dev with ports := t.dev.ports, hbm := t.dev.hbm } }

/-- A location or a place of a frame that holds `n` bytes whole. -/
def placeOk (p : Place) (n : Nat) : Prop :=
  match p with
  | .mem _ => True
  | .frm _ _ o => o + n ≤ 4096

end Sys2Proof.Claim

/-- R42, R89, R126, R137: a pending value that arrives is written to its register, which is no longer pending and which alone
changes; a load's arrival lowers the load count. A target register whose fetch is due becomes fetched, and keeps its target.
A stream that waits for the release of a barrier whose phase has completed, since 3 cycles or 40 from another core of the
gang, goes on; no other stream changes but for its own release. -/
def Obligations.ArrivalsAndReleases : Prop :=
  (∀ (c n : Nat) (s : State), s.coreRuns c = true →
    let k := 8 * c + n
    let st := s.strmOf k
    (∀ (i : Nat) (a : Arr), st.arr[i]? = some a →
      ∃ (t : State) (d : Stream), exec (.pendingValueArrival c n i) s = .next t ∧ t = { s with now := max s.now a.due, strm := t.strm, stall := [] } ∧
        t.strmOf k = d ∧ (∀ j, j ≠ k → t.strmOf j = s.strmOf j) ∧
        d = { st with g := d.g, pend := d.pend, arr := st.arr.eraseIdx i, cntL := if a.load then st.cntL - 1 else st.cntL } ∧
        (∀ r, mget 0 d.g r = if r = a.reg ∧ r ≠ 0 then a.val else mget 0 st.g r) ∧
        ∀ r, r < 32 → bitN d.pend.toNat r = (bitN st.pend.toNat r && r != a.reg)) ∧
    ∀ (b due : Nat), b < 8 → (mget {} st.b b).st = .due due →
      ∃ (t : State) (d : Stream), exec (.targetFetchReady c n b) s = .next t ∧ t = { s with now := max s.now due, strm := t.strm, stall := [] } ∧
        t.strmOf k = d ∧ (∀ j, j ≠ k → t.strmOf j = s.strmOf j) ∧ d = { st with b := d.b } ∧
        ∀ r, mget {} d.b r = if r = b then ⟨(mget {} st.b b).tgt, .ready⟩ else mget {} st.b r) ∧
  ∀ (c n b : Nat) (s : State), n < 8 → s.coreRuns c = true →
    let st := s.strmOf (8 * c + n)
    let x := s.barOf b
    let place := 128 * (s.taskAt (8 * c + n)).grank + 16 * st.tnum
    let d := (x.gen - BitVec.ofNat 16 (bits x.t.toNat place 16)).toInt
    st.barW = some b → st.run = .run → (s.taskAt (8 * c + n)).stat = .run →
    (0 < d ∨ d = 0 ∧ x.rel + (if x.gang = true ∧ b / 64 ≠ c then 40 else 3) ≤ s.now) →
    ∃ t, exec (.barrierRelease c (b % 64)) s = .next t ∧ t = { s with strm := t.strm, stall := [] } ∧
      (t.strmOf (8 * c + n)).barW = none ∧ ∀ j, t.strmOf j = s.strmOf j ∨ t.strmOf j = { s.strmOf j with barW := none }

/-- R116, R118, R121, R122, R252, R255, R256: an access that nothing of its stream's order holds, with a port to its peer, is performed
at its home; of the device only its ports may change, which it goes through, and the count of its accesses (R350). That it is performed
in one act, at the place found at issue and for every scope at once, is the model's reading (assumption 6). A load
that no earlier queued store meets reads memory, and one inside the youngest such store takes that store's bytes; its
value, extended, returns. A store, after every earlier load has returned, writes its bytes and no other. An atomic returns
the old contents and writes the new ones; CAS writes only where they equal the compared value. -/
def Obligations.AccessPerformed : Prop :=
  ∀ (c n k : Nat) (a : Acc) (s : State),
    let sk := 8 * c + n
    let st := s.strmOf sk
    let old := placeRead s a.place a.size
    st.mq[k]? = some a → (s.coreOf c).frz = none → placeOk a.place a.size → (a.toPeer ≠ none → healthyPorts s ≠ []) →
    (mayPerform s sk k = true → (a.isAtom = true → atomRival s sk a = false) →
      ∃ t, exec (.accessPerformed c n k) s = .next t ∧ t = (performAt s sk k).wake) ∧
    (∀ sg, a.kind = .ld sg → (∀ b ∈ st.mq.take k, b.loads = false ∧ b.isMark = false) →
      ((∀ b ∈ st.mq.take k, b.kind = .st → b.meets a = false) →
        ∃ t, exec (.accessPerformed c n k) s = .next t ∧ onlyPerforms s t { s with strm := t.strm } ∧
          performed st c k s.now a (some (if sg then BitVec.ofInt 64 (sgn old (8 * a.size)) else ofN old)) (t.strmOf sk)) ∧
      ∀ p b q, st.mq.take k = p ++ b :: q → b.kind = .st → b.meets a = true → a.within b = true →
        (∀ x ∈ q, x.kind = .st → x.meets a = false) →
        let v := bits b.val.toNat (8 * (a.place.key - b.place.key)) (8 * a.size)
        ∃ t, exec (.accessPerformed c n k) s = .next t ∧ onlyPerforms s t { s with strm := t.strm } ∧
          performed st c k s.now a (some (if sg then BitVec.ofInt 64 (sgn v (8 * a.size)) else ofN v)) (t.strmOf sk)) ∧
    ((∀ b ∈ st.mq.take k, b.isMark = true) → (∀ x ∈ st.arr, x.load = false) →
      (∀ l, a.place = .mem l → s.ckHold (memKey l) = false) →
      (∀ e ∈ s.strm, e.1 ≠ sk → ∀ b, e.2.mq.head? = some b → b.isAtom = true → b.meets a = false) →
      let holds (t : State) (v : Nat) : Prop := placeRead t a.place a.size = v % 2^(8 * a.size) ∧
        (∀ l, a.place = .mem l → ∀ x, x < memKey l ∨ memKey l + a.size ≤ x → readB t.mem x = readB s.mem x) ∧
        (∀ d f o, a.place = .frm d f o → t.mem = s.mem) ∧
        (a.size < 32 → t.mpois = s.mpois) ∧
        onlyPerforms s t { s with
          mem := t.mem, dirty := t.dirty, mpois := t.mpois, obj := { s.obj with frmF := t.obj.frmF }, strm := t.strm }
      (a.kind = .st → ∃ t, exec (.accessPerformed c n k) s = .next t ∧ holds t a.val.toNat ∧ performed st c k s.now a none (t.strmOf sk)) ∧
      (∀ op, a.kind = .amo op → ∃ t, exec (.accessPerformed c n k) s = .next t ∧
        holds t (amoNew op (8 * a.size) old (a.val.toNat % 2^(8 * a.size))) ∧ performed st c k s.now a (some (ofN old)) (t.strmOf sk)) ∧
      (a.kind = .cas → ∃ t, exec (.accessPerformed c n k) s = .next t ∧
        holds t (if old = a.cmp.toNat % 2^(8 * a.size) then a.val.toNat else old) ∧ performed st c k s.now a (some (ofN old)) (t.strmOf sk)))

namespace Sys2Proof.Claim

/-- The head of an engine's queue of its stream may start (R25, R26, R28, R30, R35, R199): its task and core run; no bank that it names
is being allocated; nothing earlier of its stream stands in program order on its objects; each tracked source holds the version its tag names; its destinations,
its own reads taken as made, are not held and have no reader; nothing else holds it; under a true guard its data take no
cause. -/
def mayStart (s : State) (o : Op) : Prop :=
  s.opLive o = true ∧ (s.taskOf o.tk).stat = .run ∧ o.banks.any (s.allocating o) = false ∧ ((∀ h spc x, o.i ≠ .cppub h spc x) → ∀ k ∈ s.opNames o, s.blocked o k = false) ∧
    (∀ x ∈ s.opSrcs o, x.2 = 63 ∨ (s.cntOf x.1).view o.tnum + x.2.setWidth 16 = (s.cntOf x.1).w) ∧
    (∀ x ∈ s.opDsts o, shadowed o = true ∨ s.dstOpen o x.1 = true) ∧
    (∀ h x, o.i = .acfree h x → o.guard = true → s.dstOpen o (s.opKey o .a x.toNat) = true) ∧
    s.holds o = false ∧ s.vqOk o = true ∧ (o.guard = true → startCause s o = none)

/-- An engine's only queue head in a core, which has not been found waiting. -/
def onlyHead (s : State) (c : Nat) (e : Eng) (o : Op) : Prop := o.core = c ∧ o.eng = e ∧ s.heads c e = [o] ∧ o.wait = none

/-- Lane `i` of `w` bits of a register, and the number that it holds in a type (R138). -/
def laneAt (w v i : Nat) : Nat := bits v (w * i) w
def laneInt (ty : Ty) (x : Nat) : Int :=
  if (ty = .s8 ∨ ty = .s16 ∨ ty = .s32) ∧ 2^(Machine.Ty.w ty - 1) ≤ x then x - 2^(Machine.Ty.w ty) else x

/-- A condition of VCMP between two numbers (R151). -/
def condOf : Cond → Int → Int → Bool
  | .eq, a, b => a = b
  | .ne, a, b => a ≠ b
  | .lt, a, b => a < b
  | .le, a, b => a ≤ b
  | .gt, a, b => b < a
  | .ge, a, b => b ≤ a

/-- The integer and bitwise lane operations, VSEL, VBCAST, VPERM and VIOTA on registers of integer lanes: the lane width, and what lane
`i` of the result is by the source registers and the captured g operand (R145, R148, R150 to R153, R155). -/
def laneRow : Instr → Option (Nat × (List Nat → List Word → Nat → Nat))
  | .vadd _ ty _ _ _ => of ty fun w a b => (a + b) % 2^w
  | .vsub _ ty _ _ _ => of ty fun w a b => (a + (2^w - b)) % 2^w
  | .vmul _ ty _ _ _ => of ty fun w a b => a * b % 2^w
  | .vmin _ ty _ _ _ => of ty fun _ a b => if laneInt ty a ≤ laneInt ty b then a else b
  | .vmax _ ty _ _ _ => of ty fun _ a b => if laneInt ty a ≤ laneInt ty b then b else a
  | .vand _ ty _ _ _ => of ty fun _ a b => a &&& b
  | .vor _ ty _ _ _ => of ty fun _ a b => a ||| b
  | .vxor _ ty _ _ _ => of ty fun _ a b => a ^^^ b
  | .vshl _ ty _ _ _ => of ty fun w a b => a * 2^(b % w) % 2^w
  | .vshr _ ty _ _ _ => of ty fun w a b => a / 2^(b % w)
  | .vabs _ ty _ _ => of ty fun w a _ => (laneInt ty a).natAbs % 2^w
  | .vneg _ ty _ _ => of ty fun w a _ => (2^w - a) % 2^w
  | .vnot _ ty _ _ => of ty fun w a _ => 2^w - 1 - a
  | .vcmp _ c ty _ _ _ => of ty fun w a b => if condOf c (laneInt ty a) (laneInt ty b) then 2^w - 1 else 0
  | .vsel _ ty _ _ _ _ => if ty.isI then
      some (Machine.Ty.w ty, fun v _ i =>
        if laneAt (Machine.Ty.w ty) (v.getD 2 0) i ≠ 0 then laneAt (Machine.Ty.w ty) (v.getD 0 0) i else laneAt (Machine.Ty.w ty) (v.getD 1 0) i) else none
  | .vbcast _ ty _ _ => if ty.isI then some (Machine.Ty.w ty, fun _ g _ => (g.getD 0 0).toNat % 2^(Machine.Ty.w ty)) else none
  | .viota _ ty _ => if ty.isI then some (Machine.Ty.w ty, fun _ _ i => i % 2^(Machine.Ty.w ty)) else none
  | .vperm _ _ _ _ => some (32, fun v _ i => if laneAt 32 (v.getD 1 0) i < 128 then laneAt 32 (v.getD 0 0) (laneAt 32 (v.getD 1 0) i) else 0)
  | _ => none
where
  /-- A function of two lanes. -/
  of (ty : Ty) (f : Nat → Nat → Nat → Nat) : Option (Nat × (List Nat → List Word → Nat → Nat)) :=
    if ty.isI then some (Machine.Ty.w ty, fun v _ i =>
      f (Machine.Ty.w ty) (laneAt (Machine.Ty.w ty) (v.getD 0 0) i) (laneAt (Machine.Ty.w ty) (v.getD 1 0) i)) else none

end Sys2Proof.Claim

/-- R21, R22, R23, R26, R145, R147, R148, R150 to R153, R155: the only head of an engine, when it may start, starts. The reads of its tracked sources start, one
more in flight each, and consume where the version is counted. A vector operation is settled by what its sources then
hold: its results and flags, and its due cycle; of integer lanes each lane of the result is stated here by the lanes of the sources. A
matrix operation, a copy and a near-memory command begin their steps. That contention for ports adds no cycle to the latency, and that a
copy's first step is due in the cycle after its start, is the model's choice (assumption 23). -/
def Obligations.EngineStarts : Prop :=
  ∀ (c : Nat) (e : Eng) (o : Op) (s : State), onlyHead s c e o → mayStart s o →
    let T := s.startAt c e o
    ∃ t, exec (.engineStart c e) s = .next t ∧ t.now = max s.now T ∧ t.stall = [] ∧
      (∀ k, k ∉ s.tracked o → t.cntOf k = s.cntOf k) ∧
      (e = .vec → (∀ h d r a, o.i ≠ .vsto h d r a) → t.mem = s.mem ∧ t.task = s.task ∧ t.obj = { s.obj with cnts := t.obj.cnts } ∧
        (∀ k ∈ s.tracked o, (s.tracked o).count k = 1 → (t.cntOf k).rif = (s.cntOf k).rif + 1 ∧ (t.cntOf k).w = (s.cntOf k).w ∧
          (t.cntOf k).l = if (s.cntOf k).h = false ∧ (s.cntOf k).l ≠ 0 then (s.cntOf k).l - 1 else (s.cntOf k).l) ∧
        ∃ p, t.opOf o.uid = some p ∧ p.i = o.i ∧ p.ph = .run ∧ p.at0 = T ∧ p.due = T + (tileOf o.i).lat ∧ p.rds = s.tracked o ∧
          (o.guard = false → p.res = []) ∧
          ∀ r, o.guard = true → vecVal o.i o.fpc o.gv (s.strmOf o.sk).lanes (s.images o) = .ok r →
            p.res = r.dst ∧ p.flags = BitVec.ofNat 8 r.fl ∧ (∀ ls, r.lanes = some ls → (t.strmOf o.sk).lanes = ls)) ∧
      (∀ w f, e = .vec → o.guard = true → laneRow o.i = some (w, f) → ∃ p x, t.opOf o.uid = some p ∧ p.res = [[(0, 512, x)]] ∧ p.flags = 0 ∧
        ∀ i, i < 4096 / w → laneAt w x i = f ((s.opSrcs o).map fun y => objVal s y.1) o.gv i) ∧
      (∀ ty x, e = .mat → mmaOpt o.i = some (ty, x) → ∃ p, t.opOf o.uid = some p ∧ p.i = o.i ∧ p.step = o.step ∧ p.at0 = T ∧
        (o.guard = false → p.ph = .tail) ∧ (o.guard = true → (∀ h ty d a b fx off x, o.i ≠ .mgroup h ty d a b fx off x) → p.ph = .run)) ∧
      (∀ h spc d gs gc off part, o.i = .cp h spc d gs gc off part →
        ∃ p, t.opOf o.uid = some p ∧ p = { o with ph := .run, at0 := T, due := T + 1, rds := [], cw := p.cw }) ∧
      ∀ h gk gp a, o.i = .kvapp h gk gp a → o.guard = true →
        ∃ p, t.opOf o.uid = some p ∧ p.ph = .run ∧ p.at0 = T ∧ p.gv = o.gv ∧ p.rcd = o.rcd ∧
          p.img.getD 1 0 = pack 4096 (s.images o) % 2^(8 * kvBytes o.rcd)

namespace Sys2Proof.Claim

/-- What a counted write by a task stream leaves of the counts it finds (R28): W up by one, D and L the read count, or the
version held, and the stream's view at W. -/
def written (c d : Cnt) (tnum : Nat) (n : BitVec 4) : Prop :=
  d.w = c.w + 1 ∧ d.d = n ∧ d.h = (n == 15) ∧ d.l = (if n = 15 then 0 else n) ∧ (tnum < 8 → d.view tnum = c.w + 1)

end Sys2Proof.Claim

/-- R22, R24, R26, R29, R30, R36, R195: a started operation of the vector engine that has read its sources retires its reads. At its
due cycle, or the next where one of its objects took a write in that one, the first of its engine in start order and with no other
write of its objects to be made then, it commits when its destinations are ready, as a matrix operation does after its last step: the operation leaves, its counter goes down, its
flags are added under a true guard, and each destination takes one counted write, with its data under a true guard alone. That a
started operation waits for its destinations is the model's reading (assumption 22). -/
def Obligations.OperationCommits : Prop :=
  ∀ (u : Nat) (o : Op) (s : State), s.opOf u = some o → s.coreRuns o.core = true → o.nowDrain = false →
    (∀ h d r a, o.i ≠ .vsto h d r a) →
    (o.eng = .vec → o.ph = .run → o.rds ≠ [] →
      ∃ t, exec (.readRetire u) s = .next t ∧ t.now = max s.now o.rdue ∧ t.mem = s.mem ∧ t.opOf u = some { o with rds := [], step := 1 } ∧
        ∀ k, (t.cntOf k).rif = (s.cntOf k).rif - o.rds.count k ∧ (t.cntOf k).w = (s.cntOf k).w ∧ (t.cntOf k).l = (s.cntOf k).l ∧
          (t.cntOf k).h = (s.cntOf k).h ∧ (t.cntOf k).v = (s.cntOf k).v) ∧
    let T := s.writeAt (max s.now o.due) ((s.opDsts o).map (·.1))
    (((s.opDsts o).map (·.1)).Nodup → (s.upTo T).rivals o.core u ((s.opDsts o).map (·.1)) = [] →
      (∀ x ∈ s.opDsts o, (s.cntOf x.1).h = false ∧ (s.cntOf x.1).l = 0 ∧ (s.cntOf x.1).rif = o.rds.count x.1) →
      (o.eng = .vec ∧ o.ph = .run ∧ vecFirst s o = true ∧ s.vecGoes o = true ∧ (∀ h ty d a b i, o.i ≠ .vlane h ty d a b i) ∨
        o.eng = .mat ∧ o.ph = .tail ∧ s.matRun o.core = some o ∧ drainReads s o = false) →
      ∃ t, exec (.operationCommit u) s = .next t ∧ t.now = T ∧ (∀ p ∈ t.ops, p.uid ≠ u) ∧
        (t.strmOf o.sk).cntT = (if o.uncnt = true then (s.strmOf o.sk).cntT else (s.strmOf o.sk).cntT - 1) ∧
        (t.strmOf o.sk).flg = (if o.guard = true then (s.strmOf o.sk).flg ||| o.flags.setWidth 32 else (s.strmOf o.sk).flg) ∧
        (∀ i k n, (s.opDsts o)[i]? = some (k, n) → written (s.cntOf k) (t.cntOf k) o.tnum n ∧
          objVal t k = if o.guard = true then objVal (objPut s k (o.res.getD i [])) k else objVal s k) ∧
        ∀ k, k ∉ (s.opDsts o).map (·.1) → objVal t k = objVal s k)

namespace Sys2Proof.Claim

/-- What translating the addresses of a copy's step, one after another, leaves (R305 to R309). -/
def stepMarks (o : Op) (n : Need) (s : State) (l : List (Item × Nat × Nat × Nat)) : State :=
  l.foldl (fun x p => match translate x o.core o.ctx p.2.1 n with
    | .ok _ _ y => y
    | _ => x) s

/-- The places in memory of the parts of a copy's step, each with the memory that it is read from. -/
def stepPlaces (o : Op) (n : Need) : State → List (Item × Nat × Nat × Nat) → List (Nat × List Host.Cell × (Item × Nat × Nat × Nat))
  | _, [] => []
  | s, p :: r => match translate s o.core o.ctx p.2.1 n with
    | .ok l _ y => (memKey l, y.mem, p) :: stepPlaces o n y r
    | _ => []

/-- A copy whose elements are whole bytes, which brings no scales, and whose record and box keep their rules. -/
def plainBox (o : Op) : Prop := Machine.Ty.nib (recTy o.rcd) = false ∧ hasScales o = false ∧ copyBad o = false

/-- The operation of number `u` has completed: it is gone, and its stream's count of copies is one less. -/
def copyOver (s t : State) (o : Op) : Prop :=
  (∀ p ∈ t.ops, p.uid ≠ o.uid) ∧ (t.strmOf o.sk).cntC = if o.uncnt = true then (s.strmOf o.sk).cntC else (s.strmOf o.sk).cntC - 1

end Sys2Proof.Claim

/-- R11, R24, R193 to R195, R207 to R209, R211, R212, R216: the operation that holds the matrix sequencer of a core begins its next K-step, or
makes the one that it has begun. It counts the step, and has no step left after its last; only at the end of a group, and after the last
step, does its bank change. A copy into a slot or frame whose fill is open makes an element step: each element that the step reads stands
at its place in the shadow, as memory held it, the fronts and the counts stay, memory changes by the marks of the step's translations
alone, and after the last step the fill is closed, or, of a part, the copy has completed for its counter. A store copy's step writes
each element and scale at its address, and nothing else; after its last step it is over. A CPQ reads its next step once it has delivered
what it has, and delivers elements while its port has room. That a matrix operation's reads retire at its commit is the model's choice
(assumption 29), and which sectors a step acts on is too (assumption 58). -/
def Obligations.EngineSteps : Prop :=
  (∀ (c : Nat) (o : Op) (ty : Ty) (x : MmaOpt) (d : Spc × Nat × BitVec 4) (s : State), s.matRun c = some o → o.ph = .run →
    mmaOpt o.i = some (ty, x) → o.dsts.head? = some d →
    let per := (mmaSteps o.i ty x).1
    let all := (mmaSteps o.i ty x).2.1
    let k := s.opKey o d.1 d.2.1
    (o.due = 0 → ∃ t, exec (.kStep c) s = .next t ∧ t = { s with ops := t.ops, stall := [] } ∧
      t.opOf o.uid = some { o with due := s.now + stepTime o }) ∧
    (o.due ≠ 0 → (s.opLive o = true ∨ o.step + 1 ≠ all) →
      ∃ t p, exec (.kStep c) s = .next t ∧ t.now = max s.now o.due ∧ t.opOf o.uid = some p ∧ p.step = o.step + 1 ∧ p.rds = o.rds ∧
      p.ph = (if o.step + 1 = all then .tail else .run) ∧ t.mem = s.mem ∧ t.obj.cnts = s.obj.cnts ∧
      (∀ j, j ≠ k → objVal t j = objVal s j) ∧
      ((o.step + 1) % per ≠ 0 ∧ o.step + 1 ≠ all → objVal t k = objVal s k ∧ p.flags = o.flags))) ∧
  ∀ (u : Nat) (o : Op) (s : State), s.opOf u = some o → o.eng = .cpy → o.ph = .run → s.opLive o = true → o.guard = true →
    let s0 := s.upTo o.due
    let o1 := { o with step := o.step + 1, pos := o.pos + stepLen o o.pos, due := s0.now + 1 }
    ((∀ h q gs gc, o.i ≠ .cpq h q gs gc) →
      (∀ d v, (s.opDsts o).head? = some d → (s.fillOf d.1).opn = true → (s.fillOf d.1).gen = o.fill → readStep o d.1 s0 = .ok v →
        ∃ t, exec (.copyElementStep u) s = .next t ∧ t.now = s0.now ∧
          (o1.pos < copyEnd o ∨ o.samp = none → t.mem = (stepMarks o .r s0 o.parts).mem) ∧
          t.obj = { s.obj with slotS := t.obj.slotS, sideS := t.obj.sideS, frmS := t.obj.frmS, fills := t.obj.fills } ∧
          (plainBox o → ∀ x ∈ stepPlaces o .r s0 o.parts, ∀ e i, x.2.2.1.what = .el e i →
            let shadow := if d.1 / 256 % 4 = 1 then (mget 0 t.obj.slotS d.1).toNat else (mget 0 t.obj.frmS d.1).toNat
            bits shadow (elDest o e + 8 * x.2.2.2.2.2) (8 * x.2.2.2.2.1) = readN x.2.1 x.1 x.2.2.2.2.1) ∧
          (o1.pos < copyEnd o → t.opOf u = some o1 ∧ t.obj.fills = s.obj.fills ∧
            t = { s0 with ops := t.ops, obj := t.obj, core := t.core, clus := t.clus, mem := t.mem, fresh := t.fresh, stall := []
                          dev := { s.dev with ports := t.dev.ports, hbm := t.dev.hbm, rrPort := t.dev.rrPort } }) ∧
          (copyEnd o ≤ o1.pos → o.closes = true → t.opOf u = some { o1 with ph := .tail } ∧ (t.fillOf d.1).closed = true) ∧
          (copyEnd o ≤ o1.pos → o.closes = false → t.opOf u = some { o1 with ph := .tail, uncnt := true } ∧ t.obj.fills = s.obj.fills ∧
            (t.strmOf o.sk).cntC = if o.uncnt = true then (s.strmOf o.sk).cntC else (s.strmOf o.sk).cntC - 1)) ∧
      ∀ v, s.opDsts o = [] → writeStep o s0 = .ok v →
        ∃ t, exec (.copyElementStep u) s = .next t ∧ t.now = s0.now ∧
          (o1.pos < copyEnd o → t.opOf u = some o1 ∧ t.obj = s.obj) ∧ (copyEnd o ≤ o1.pos → copyOver s t o) ∧
          (o1.pos < copyEnd o ∨ o.samp = none →
            (∀ a, (∀ x ∈ stepPlaces o .w s0 o.parts, a < x.1 ∨ x.1 + x.2.2.2.2.1 ≤ a) →
              readB t.mem a = readB (stepMarks o .w s0 o.parts).mem a) ∧
            ((stepPlaces o .w s0 o.parts).Pairwise (fun x y => x.1 + x.2.2.2.2.1 ≤ y.1 ∨ y.1 + y.2.2.2.2.1 ≤ x.1) →
              ∀ x ∈ stepPlaces o .w s0 o.parts,
                (∀ e i, x.2.2.1.what = .el e i → Machine.Ty.nib (recTy o.rcd) = false →
                  readN t.mem x.1 x.2.2.2.2.1 = bits (srcEl s o e) (8 * x.2.2.2.2.2) (8 * x.2.2.2.2.1)) ∧
                ∀ j, x.2.2.1.what = .scale j → readN t.mem x.1 1 = srcScale s o j % 256))) ∧
    ∀ h q gs gc, o.i = .cpq h q gs gc →
      (∀ p ∈ s.ops, p.sk = o.sk → p.uid < o.uid → ∀ h' q' gs' gc', p.i = .cpq h' q' gs' gc' → q' ≠ q) →
      let old := mget [] (s.strmOf o.sk).q q.toNat
      ∀ o2 s1, (if o.img.getD 3 0 < cpqAvail o then old.length < 64 ∧ o2 = o ∧ s1 = s0 else cpqRead o s0 = .ok (o2, s1)) →
        let done := o2.img.getD 3 0
        let n := min (cpqAvail o2 - done) (64 - old.length)
        (cpqAvail o ≤ o.img.getD 3 0 → o2.pos = o.pos + stepLen o o.pos ∧ s1.mem = (stepMarks o .r s0 o.parts).mem ∧
          (plainBox o → ∀ x ∈ stepPlaces o .r s0 o.parts, ∀ e i, x.2.2.1.what = .el e i →
            bits (o2.img.getD 1 0) (Machine.Ty.w (recTy o.rcd) * e + 8 * x.2.2.2.2.2) (8 * x.2.2.2.2.1) = readN x.2.1 x.1 x.2.2.2.2.1)) ∧
        ∃ t, exec (.copyElementStep u) s = .next t ∧ t.now = s0.now ∧ t.obj = s.obj ∧ (o.samp = none → t.mem = s1.mem) ∧
          mget [] (t.strmOf o.sk).q q.toNat = old ++ (List.range n).map (fun i => ofN (bits (cpqBytes o2) (64 * (done + i)) 64)) ∧
          if copyEnd o2 ≤ o2.pos ∧ cpqAvail o2 ≤ done + n then copyOver s t o
          else t.opOf u = some { o2 with img := [o2.rcd, o2.img.getD 1 0, o2.img.getD 2 0, done + n], due := s0.now + 1 }

/-- R28, R29, R36, R37, R185, R212: the fill of one object that a single copy has closed publishes when no started matrix operation
reads the object, its last version is read, and no other write of it is to be made in that cycle: front and shadow change places (where
no other copy into the object is there to open the next fill at once), the object takes one counted write with the copy's read count, the copy
completes, and the next fill has the next number. A VSTO publishes its slot in the same way, and completes with it: that this is the
act in which it commits is the model's reading (assumption 28). -/
def Obligations.ShadowPublishes : Prop :=
  ∀ (c idx : Nat) (spc : Spc) (o : Op) (n : BitVec 4) (s : State), spc = .o ∨ spc = .f → idx < 256 →
    let k := okey c spc idx
    let T := s.writeAt s.now [k]
    publishers s k = [o] → o.guard = true → o.dsts.map (·.2.2) = [n] → s.opLive o = true →
    let alone := ∀ p ∈ s.ops, p.uid ≠ o.uid → p.fills = true → ∀ g, s.inFill p k g = false
    matReads s k = false → (s.cntOf k).h = false → (s.cntOf k).l = 0 → (s.cntOf k).rif = 0 → (s.upTo T).rivals c o.uid [k] = [] →
    (o.eng = .cpy → o.fills = true →
      ∃ t, exec (.shadowPublish c spc idx) s = .next t ∧ t.now = T ∧ (∀ p ∈ t.ops, p.uid ≠ o.uid) ∧
        written (s.cntOf k) (t.cntOf k) o.tnum n ∧ (t.fillOf k).gen = (s.fillOf k).gen + 1 ∧
        (spc = .o → mget 0 t.obj.slotF k = mget 0 s.obj.slotS k ∧ mget 0 t.obj.sideF k = mget 0 s.obj.sideS k) ∧
        (spc = .f → mget 0 t.obj.frmF k = mget 0 s.obj.frmS k) ∧
        (alone → (spc = .o → mget 0 t.obj.slotS k = mget 0 s.obj.slotF k ∧ mget 0 t.obj.sideS k = mget 0 s.obj.sideF k) ∧
          (spc = .f → mget 0 t.obj.frmS k = mget 0 s.obj.frmF k)) ∧
        (t.strmOf o.sk).cntC = (if o.uncnt = true then (s.strmOf o.sk).cntC else (s.strmOf o.sk).cntC - 1)) ∧
    (o.eng = .vec → o.isVsto = true → spc = .o →
      ∃ t, exec (.shadowPublish c spc idx) s = .next t ∧ t.now = T ∧ (∀ p ∈ t.ops, p.uid ≠ o.uid) ∧
        written (s.cntOf k) (t.cntOf k) o.tnum n ∧ (t.fillOf k).gen = (s.fillOf k).gen ∧
        mget 0 t.obj.slotF k = mget 0 s.obj.slotS k ∧ mget 0 t.obj.sideF k = mget 0 s.obj.sideS k ∧
        (alone → mget 0 t.obj.slotS k = mget 0 s.obj.slotF k ∧ mget 0 t.obj.sideS k = mget 0 s.obj.sideF k) ∧
        (t.strmOf o.sk).cntT = (if o.uncnt = true then (s.strmOf o.sk).cntT else (s.strmOf o.sk).cntT - 1))

/-- R34, R292, R327, R328, R331: an instruction whose wait outlasts the wait limit of its task takes cause 0x0F, with its handler
entered in the first cycle after the limit, where no other stream of its task may still fault in that cycle; a queue head whose counted wait does has its task stopped, with the same cause. -/
def Obligations.WaitLimit : Prop :=
  (∀ (c n : Nat) (x : Wait) (l : Loc) (e : Nat) (s u : State), n < 8 →
    let k := 8 * c + n
    let st := s.strmOf k
    let t0 := s.taskAt k
    st.wait = some x → k ∈ s.stall → st.run = .run → st.mode = .task → s.coreRuns c = true → st.slot < 4 →
    t0.stat = .run → t0.fault = none → t0.evb ≠ 0 → n ∈ t0.phys → t0.phys.Nodup → (∀ m ∈ t0.phys, m < 8) → (s.ctxOf t0.ctx).ttrig = 0 →
    (∀ o ∈ s.ops, o.core = c → o.slot = st.slot → (o.eng = .vec → o.ph = .queued) ∧ o.inStep (max s.now (x.since + t0.wlim + 1)) = false) → bitN t0.out.toNat 0 = false →
    sampleK (s.ctxOf t0.ctx) = none → translate s c t0.ctx (t0.evb.toNat + 4096) .w = .ok l e u →
    let T := max s.now (x.since + t0.wlim + 1)
    reachable (s.upTo T) t0.ctx l = true → ({ s.upTo T with cur := k } : State).mayStill (s.tkey k) k = false →
    ∃ t f, exec (.waitLimitExpiry (.stream c n)) s = .next t ∧ t.now = T ∧ f.cause = 0x0F ∧
      t.taskOf (s.tkey k) = { t0 with stat := .handler, fault := none, kept := some f, gate0 := T } ∧
      (t.strmOf k).mode = .handler ∧ (t.strmOf k).pc = t0.evb + ofN (64 * 0x0F) ∧ (t.strmOf k).finfo = f.finfo ∧
      readN t.mem (memKey l) 8 = f.finfo.toNat ∧ t.obj = s.obj ∧
      t.ops = s.ops.map fun o => if o.core = c ∧ o.slot = st.slot then { o with wait := none } else o) ∧
  ∀ (u since : Nat) (obj : Option (BitVec 2 × BitVec 8)) (o : Op) (s : State), s.opOf u = some o → o.wait = some since → s.opLive o = true →
    o.ph = .queued → s.headOf o.sk o.eng = some o → judge s o = .waits obj → (s.taskOf o.tk).fault = none →
    (s.ctxOf (s.taskOf o.tk).ctx).ttrig = 0 → o.samp = none →
    ∃ t f, exec (.waitLimitExpiry (.op u)) s = .next t ∧ t.now = max s.now (since + (s.taskOf o.tk).wlim + 1) ∧ f.cause = 0x0F ∧ f.strm = o.tnum ∧
      t.taskOf o.tk = { s.taskOf o.tk with stat := .stopping, fault := some f } ∧ t.mem = s.mem ∧ t.obj = s.obj ∧ t.opOf u = some o

namespace Sys2Proof.Claim
/-! ### The near-memory port (R36, R219 to R230, R316, R370 to R372) -/

/-- Device memory at one leaf that an operation may write whole: `n` bytes at `va` translate to `l`, free of poison and of an
epoch's copying, and none of them beyond the leaf. -/
def canWrite (s : State) (o : Op) (va n : Nat) (l : Loc) (u : State) : Prop :=
  (∃ e, translate s o.core o.ctx va .w = .ok l e u) ∧ (∃ d, l.home = .dev d) ∧ 1 ≤ n ∧ va % 65536 + n ≤ 65536 ∧ u.poisoned (memKey l) n = false ∧
    u.ckHold (memKey l) = false

/-- Memory of a context that the device itself may read, or write: `n` bytes of one leaf, with the right, a key and the consent of
a peer, no poison, and A, and D for a write, set already. -/
def canUse (s : State) (ctx va n : Nat) (wr : Bool) (l : Loc) : Prop :=
  va % 65536 + n ≤ 65536 ∧ (∃ e, peek s ctx va = .ok (l, e) ∧ if wr then pteW e = true else pteR e = true) ∧
    reachable s ctx l = true ∧ s.poisoned (memKey l) n = false ∧ s.touch ctx va wr = s

/-- An element of RECV by its words as it travels, with the flags of its conversion (R162, R228). -/
def recvEl (b : Nat) (sat : Bool) (w : List Nat) : Nat × Nat :=
  if collParts b = true ∨ collTy b = .f32 then (pack 32 w, 0)
  else if (collTy b).isFloat then cvtF (collTy b) .rne false sat (fdec f32F false (w.getD 0 0))
  else (pack 32 w % 2^(Machine.Ty.w (collTy b)), 0)

/-- An operation's frame of a task, with the frames after it up to `n` in all, by key. -/
def frameKey (k n : Nat) : Prop := k / 256 % 4 = 3 ∧ k % 256 + n ≤ 256

end Sys2Proof.Claim

/-- R221, R223 to R226, R309, R316, R335, R350: a stack of the partition scans for a started QPOST, once; with every row readable its
status is 0, and nothing else changes but the marks of the pages that it read, the order of the ports' hot words and the count of accesses. Its partial, with the number of queries and D, lands in its two frames, before fx is counted. The
answer completes with fx's one counted write once all eight have landed, and a void QPOST has that write alone. KVAPP writes its
whole token record at the place of its token, and no other byte of memory beside the translation's marks, and completes. -/
def Obligations.AttentionAnswersAndTokens : Prop :=
  (∀ (u : Nat) (o : Op) (h : Header) (d : Dst) (c : Src) (gk gl : G) (qn : BitVec 4) (sigma : BitVec 32) (k0 : Nat) (rc : BitVec 4) (s : State),
    s.opOf u = some o → o.i = .qpost h d c gk gl qn sigma → s.nearLive o = true → s.opDsts o = [(k0, rc)] → frameKey k0 16 →
    let n := (s.stacksOf (s.ownerC o.ctx)).length
    (∀ k, o.ph = .run → k < n → k < 8 → o.res.getD k [] = [] → (∀ r ∈ kvRows o.rcd (nat o.gv 1) n k, kvRead s o.ctx o.rcd r.row ≠ none) →
      ∃ t p a b, exec (.stackScan u k) s = .next t ∧ t.opOf u = some p ∧
        t = { s with ops := t.ops, stall := [], mem := t.mem, dev := { s.dev with ports := t.dev.ports, hbm := t.dev.hbm } } ∧
        ((∀ r ∈ kvRows o.rcd (nat o.gv 1) n k, s.touch o.ctx (kvBase o.rcd + 2048 * r.row) false = s) → t.mem = s.mem) ∧
        p = { o with res := p.res } ∧ p.res.getD k [] = [(0, 4096, a), (1, 4096, b)] ∧ bits a 512 32 = 0 ∧
        bits a 544 32 = (qn.toNat + 16 * kvD o.rcd) % 2^32 ∧ ∀ j, j < 8 → j ≠ k → p.res.getD j [] = o.res.getD j []) ∧
    (∀ k a b, o.ph = .run → k < 8 → s.landsOk o = true → bitN o.step k = false → o.res.getD k [] = [(0, 4096, a), (1, 4096, b)] →
      (k = 0 → (s.cntOf k0).h = false ∧ (s.cntOf k0).l = 0 ∧ (s.cntOf k0).rif = 0) →
      ∃ t p, exec (.stackPartialReturn u k) s = .next t ∧ t.opOf u = some p ∧ p.step = o.step + 2^k ∧ p.res = o.res ∧ t.mem = s.mem ∧
        objVal t (k0 + 2 * k) = a % 2^32768 ∧ objVal t (k0 + 2 * k + 1) = b % 2^32768 ∧ t.obj.cnts = s.obj.cnts ∧
        ∀ j, j ≠ k0 + 2 * k → j ≠ k0 + 2 * k + 1 → objVal t j = objVal s j) ∧
    (s.landsOk o = true → (o.guard = true → o.step = 255) → (s.cntOf k0).h = false → (s.cntOf k0).l = 0 → (s.cntOf k0).rif = 0 →
      (s.upTo (s.writeAt s.now [k0])).rivals o.core u [k0] = [] →
      ∃ t, exec (.qpostAnswerComplete u) s = .next t ∧ (∀ p ∈ t.ops, p.uid ≠ u) ∧ written (s.cntOf k0) (t.cntOf k0) o.tnum rc ∧
        (∀ j, objVal t j = objVal s j) ∧
        (o.uncnt = false → o.eng = .near → (t.strmOf o.sk).cntC = (s.strmOf o.sk).cntC - 1))) ∧
  ∀ (u : Nat) (o : Op) (h : Header) (gk gp : G) (a : Src) (l : Loc) (s v : State), s.opOf u = some o → o.i = .kvapp h gk gp a →
    s.nearLive o = true → o.ph = .run → o.samp = none →
    let p := nat o.gv 1
    let n := 2 * kvD o.rcd * kvEsize o.rcd
    canWrite s o (kvBase o.rcd + 2048 * (p / kvTpr o.rcd) + p % kvTpr o.rcd * n) n l v →
    ∃ t, exec (.kvappPerformed u) s = .next t ∧ (∀ q ∈ t.ops, q.uid ≠ u) ∧ readN t.mem (memKey l) n = o.img.getD 1 0 % 2^(8 * n) ∧
      (∀ x, x < memKey l ∨ memKey l + n ≤ x → readB t.mem x = readB v.mem x) ∧ t.obj = s.obj

/-- R227, R228, R248, R370, R371: what another member sends meets this one's contribution, the lower rank's first but in a ring, or is
the finished value of an element; a collective for whose every element all has come in writes RECV, each element in its type, and a
record with STATUS 0, its flags, its bytes and its cycles; one whose blocks do not match records STATUS 1, MISMATCH and no bytes, and
one that a member's absence ends STATUS 1, with what RECV and the rest of its record hold left open. Each, and one under a false
guard, ends with one counted write of its frame. That what others send and the flags of their
steps come as operands, and what a timeout leaves, is the model's choice (assumption 18), and so is who sends what where R370 gives no
path (assumption 63). -/
def Obligations.CollectiveSteps : Prop :=
  ∀ (u : Nat) (o : Op) (h : Header) (d : Dst) (gb : G) (k : Nat) (rc : BitVec 4) (s : State), s.opOf u = some o → o.i = .coll h d gb →
    s.nearLive o = true → s.opDsts o = [(k, rc)] → frameKey k 1 → o.core < 160 →
    let c := o.coll
    let len := collBytes c.b c.outs.length
    let own (i : Nat) : List Nat := (o.res.getD i []).map (·.2.2)
    let ends (t : State) (status : Nat) : Prop := (∀ p ∈ t.ops, p.uid ≠ u) ∧ written (s.cntOf k) (t.cntOf k) o.tnum rc ∧
      bits (objVal t k) 0 32 = status ∧ bits (objVal t k) 128 64 = (t.now - o.cyc) % 2^64
    let tells (t : State) (flags bytes : Nat) : Prop := bits (objVal t k) 32 32 = flags ∧ bits (objVal t k) 64 64 = bytes % 2^64
    let free (n : Nat) : Prop := s.landsOk o = true ∧ (s.cntOf k).h = false ∧ (s.cntOf k).l = 0 ∧ (s.cntOf k).rif = 0 ∧
      (s.upTo (s.writeAt n [k])).rivals o.core u [k] = []
    (∀ e, o.guard = false → free s.now →
      ∃ t, exec (.collComplete u e) s = .next t ∧ (∀ p ∈ t.ops, p.uid ≠ u) ∧ written (s.cntOf k) (t.cntOf k) o.tnum rc ∧
        ∀ j, objVal t j = objVal s j) ∧
    (∀ i src part, o.ph = .run → healthyPorts s ≠ [] → part.length = collWords c.b → i < c.els → i < o.res.length →
      (c.from' i)[o.got.getD i 0]? = some src →
      ∃ t p, exec (.collReceiveReduceStep u i part) s = .next t ∧ t.opOf u = some p ∧ t.mem = s.mem ∧ t.obj = s.obj ∧
        p.got = o.got.set i (o.got.getD i 0 + 1) ∧ (∀ j, j ≠ i → p.res.getD j [] = o.res.getD j []) ∧
        (o.rer = false → (p.res.getD i []).map (·.2.2) = (if c.alg = 1 ∨ src < c.me then collMerge c.b (part.map (·.toNat)) (own i)
          else collMerge c.b (own i) (part.map (·.toNat))).1)) ∧
    (∀ i part, o.ph = .run → healthyPorts s ≠ [] → part.length = collWords c.b → i < c.els → i < o.res.length → c.fin i = true →
      o.got.getD i 0 = (c.from' i).length →
      ∃ t p, exec (.collReceiveReduceStep u (c.els + i) part) s = .next t ∧ t.opOf u = some p ∧ t.mem = s.mem ∧ t.obj = s.obj ∧
        p.got = o.got.set i (o.got.getD i 0 + 1) ∧ (∀ j, j ≠ i → p.res.getD j [] = o.res.getD j []) ∧
        (p.res.getD i []).map (·.2.2) = part.map (·.toNat)) ∧
    (o.guard = true → o.samp = none →
      (free s.now → ∃ t, exec (.collComplete u .mismatch) s = .next t ∧ t.mem = s.mem ∧ ends t 1 ∧ tells t (16 + o.rer.toNat) 0) ∧
      (∀ (rer ovf inv : Bool) (l : Loc) (v : State), free s.now → o.ph = .run →
        (∀ i, i < c.els → o.got.getD i 0 = (c.from' i).length + (c.fin i).toNat) →
        canWrite (s.upTo (s.writeAt s.now [k])) o (collRecv c.b) len l v →
        let out := c.outs.map fun i => recvEl c.b (bitN o.fpc.toNat 13) (own i)
        let raised (bit : Nat) : Bool := bitN o.flags.toNat bit || out.any fun x => bitN x.2 bit
        ∃ t, exec (.collComplete u (.ok rer ovf inv)) s = .next t ∧ ends t 0 ∧
          tells t ((rer || o.rer).toNat + 2 * (ovf || raised 2).toNat + 4 * (inv || raised 0).toNat) len ∧
          readN t.mem (memKey l) len
            = pack (if collParts c.b = true then 32 * collWords c.b else Machine.Ty.w (collTy c.b)) (out.map (·.1)) % 2^(8 * len) ∧
          ∀ x, x < memKey l ∨ memKey l + len ≤ x → readB t.mem x = readB v.mem x) ∧
      ∀ (l : Loc) (v : State), o.ph = .run →
        let T := max s.now (o.at0 + 270000000)
        free T → canWrite (s.upTo (s.writeAt T [k])) o (collRecv c.b) len l v →
        ∃ t, exec (.collMemberTimeout u) s = .next t ∧ t.now = s.writeAt T [k] ∧ ends t 1 ∧
          ∀ x, x < memKey l ∨ memKey l + len ≤ x → readB t.mem x = readB v.mem x)

/-- R229, R230, R372: a packet lowers the countdown of an armed entry, whose last launches its command and disarms it; at any
other entry it is a miss. A stack takes its launched commands one at a time, in order; one is complete once a collective that it
began has ended, or its packet has room at a port; a copy, and an addition to a word, of one leaf each, are written when their
command completes. That a command whose addresses cannot be reached, or whose block or group is bad, completes as well is the model's
choice (assumption 41). -/
def Obligations.TriggersFire : Prop :=
  ∀ (k e : Nat) (s : State), k < 8 → e < 256 →
    let x := s.stackOf k
    let en := mget {} x.trig e
    (∃ t y, exec (.triggerPacketArrival k e) s = .next t ∧ t = { s with dev := t.dev } ∧ t.stackOf k = y ∧ (∀ j, j ≠ k → t.stackOf j = s.stackOf j) ∧
      y = { x with trig := y.trig, queue := y.queue, miss := y.miss } ∧ (∀ j, j ≠ e → mget {} y.trig j = mget {} x.trig j) ∧
      (en.armed = false → y = { x with miss := x.miss + 1 }) ∧
      (en.armed = true → 1 < en.cd → mget {} y.trig e = { en with cd := en.cd - 1 } ∧ y.queue = x.queue ∧ y.miss = x.miss) ∧
      (en.armed = true → en.cd ≤ 1 → (mget {} y.trig e).armed = false ∧ y.queue = x.queue ++ [⟨en.cmd, en.ctx⟩] ∧ y.miss = x.miss)) ∧
    (∀ c r, x.now = none → x.queue = c :: r →
      ∃ t, exec (.triggerCommandStart k) s = .next t ∧ t.stackOf k = { x with now := some c, queue := r } ∧ t.mem = s.mem ∧
        (∀ j, j ≠ k → t.stackOf j = s.stackOf j) ∧ (bits c.cmd.toNat 0 8 ≠ 2 → t = { s with dev := t.dev })) ∧
    ∀ c, x.now = some c →
      let v := c.cmd.toNat
      let dst := bits v 64 10
      (∀ o ∈ s.ops, o.core ≠ 160 + k) → (bits v 0 8 = 3 → dst = s.self ∨ portRoom s (pathPort s (160 + k) 0 dst) = true) →
      ∃ t, exec (.triggerCommandComplete k) s = .next t ∧ (t.stackOf k).now = none ∧ t.task = s.task ∧ t.ops = s.ops ∧ t.obj = s.obj ∧
        (∀ l, bits v 0 8 = 4 → canUse s c.ctx (bits v 64 64) 8 false l → canUse s c.ctx (bits v 64 64) 8 true l →
          readN t.mem (memKey l) 8 = (readN s.mem (memKey l) 8 + bits v 128 64) % 2^64) ∧
        ∀ l l2, bits v 0 8 = 1 → canUse s c.ctx (bits v 64 64) (bits v 192 64) false l → canUse s c.ctx (bits v 128 64) (bits v 192 64) true l2 →
          readN t.mem (memKey l2) (bits v 192 64) = readN s.mem (memKey l) (bits v 192 64)

namespace Sys2Proof.Claim
/-! ### Kernels, queues and tasks (R130, R131, R231, R276 to R296, R338, R358 to R361) -/

/-- A fault-queue entry of kind 3 with a code, for a node of a context, in its place in the order of detection (R284, R362). -/
def graphFault (s t : State) (ctx code : Nat) (node : Word) : Prop :=
  let q := (s.funOf (s.ownerC ctx)).fqpend
  ∃ x, (t.funOf (s.ownerC ctx)).fqpend = q.filter (fun y => y.cyc ≤ s.now) ++ x :: q.filter (fun y => s.now < y.cyc) ∧
    x.kind = 3 ∧ x.code = code ∧ x.ctx = ctx ∧ x.faddr = node ∧ x.cyc = s.now

/-- A read of `n` bytes by the device itself that finds them in one leaf, and leaves A as it is. -/
def seen (s : State) (ctx va n b : Nat) : Prop :=
  va % 65536 + n ≤ 65536 ∧ vread2 s ctx va n = .ok b ∧ s.touch ctx va false = s

end Sys2Proof.Claim

/-- R282 to R284, R359, R361: a kernel of which every instance has ended leaves. Where one was terminated its node has error 7;
otherwise its successor's LIVE falls by one, and the completion that it owes is written and its vector raised. The queue that
the sequencer serves next gives up its entry at HEAD, which advances: a node that waits is held with the entry's completion, an
ill-formed entry is error 1 with ERR, one that cannot be read error 3. -/
def Obligations.GraphAdvances : Prop :=
  ∀ (s : State), s.ctl.halt = false →
    (∀ (lid : Nat) (l : Launch), s.ctl.lnch.find? (fun x => x.lid == lid) = some l → l.total ≤ l.ended →
      (l.term = true → ∃ t, exec (.kernelComplete lid) s = .next t ∧ t.ctl = { s.ctl with lnch := s.ctl.lnch.filter fun x => x.lid != lid } ∧
        t.mem = s.mem ∧ graphFault s t l.ctx 7 l.node) ∧
      (l.term = false → s.ctl.rels = [] →
        (∀ m b lo, l.succ.filter (· ≠ 0) = [m] → l.cpl = none → m.toNat % 64 = 0 → seen s l.ctx m.toNat 64 b → 2 ≤ bits b 16 16 →
          (∃ e, peek s l.ctx (m.toNat + 2) = .ok (lo, e)) → s.touch l.ctx (m.toNat + 2) true = s →
          ∃ t, exec (.kernelComplete lid) s = .next t ∧ t.ctl = { s.ctl with lnch := s.ctl.lnch.filter fun x => x.lid != lid } ∧
            readN t.mem (memKey lo) 2 = bits b 16 16 - 1) ∧
        ∀ c lo, (∀ m ∈ l.succ, m = 0) → l.cpl = some c → c.addr ≠ 0 → canUse s c.ctx c.addr.toNat 8 true lo →
          ∃ t, exec (.kernelComplete lid) s = .next t ∧ t.ctl = { s.ctl with lnch := s.ctl.lnch.filter fun x => x.lid != lid } ∧
            readN t.mem (memKey lo) 8 = c.val.toNat ∧
            (t.funOf c.f).pba = if c.vec = 0xFFFF then (s.funOf c.f).pba else (s.funOf c.f).pba ||| (1 <<< c.vec))) ∧
    ∀ q, s.sqNext (s.sqOf q).die = some q → s.ctl.rels = [] →
      let x := s.sqOf q
      let y := { x with head := BitVec.ofNat 16 ((x.head.toNat + 1) % 2^x.lsz) }
      let rd := vread2 s x.ctx (x.base.toNat + 32 * x.head.toNat) 32
      (∀ e, rd = .error e → ∃ t, exec (.sqEntryRead q) s = .next t ∧ t.sqOf q = y ∧ graphFault s t x.ctx 3 0) ∧
      ∀ e, rd = .ok e →
        let node := ofN (bits e 0 64)
        (bits e 208 48 ≠ 0 ∨ bits e 192 16 < 2 → ∃ t, exec (.sqEntryRead q) s = .next t ∧ t.sqOf q = { y with ctl := y.ctl ||| 0x8000 } ∧
          graphFault s t x.ctx 1 node) ∧
        ∀ b, bits e 208 48 = 0 → 2 ≤ bits e 192 16 → node.toNat % 64 = 0 → seen s x.ctx (x.base.toNat + 32 * x.head.toNat) 32 e →
          seen s x.ctx node.toNat 64 b → bits b 16 16 ≠ 0 →
          ∃ t, exec (.sqEntryRead q) s = .next t ∧ t.sqOf q = y ∧ t.mem = s.mem ∧ t.ctl = { s.ctl with
            rr := mput 0 s.ctl.rr (s.rrKey q) ((q + 1) % 64)
            rrPart := mput 0 s.ctl.rrPart x.die ((s.sqFun q + 1) % 8)
            held := s.ctl.held ++ [⟨x.die, x.ctx, node, x.prio, some ⟨s.sqFun q, x.ctx, ofN (bits e 64 64), ofN (bits e 128 64), bits e 192 16⟩⟩] }

/-- R231, R279, R286, R288, R289: an instance of one core that fits and claims nothing more is placed, in the first cycle that the
dispatcher has for it: a task that runs with the launch's windows and token, streams at its entry with ARG in g1, and every object of
its windows zero. A shuttle gives the next iteration of a single counted loop, and none after its last, one request a cycle. A
waiting NEXTIT that has its answer issues in its turn with the indices, the ordinal and the gang rank in g24 to g31 and true in its
predicate; with none, with false alone. -/
def Obligations.WorkPlaced : Prop :=
  (∀ (die : Nat) (i : Inst) (l : Launch) (p : Plot) (s : State), s.nextPlace die = some (i, .new l [p]) → p.claims = [] → p.phys.Nodup →
    p.slot < 4 → (∀ n ∈ p.phys, n < 8) → (s.funOf (s.ownerC l.ctx)).replay = none →
    ∃ t w, exec (.dispatchPlace die) s = .next t ∧ t.now = max s.now (mget 0 s.ctl.placeC i.die) ∧
      (bitN (s.funOf (s.ownerC l.ctx)).cktgt.toNat 0 = false → t.mem = s.mem) ∧ t.taskOf (4 * p.core + p.slot) = w ∧ w.stat = .run ∧
      w.token = s.fresh ∧ w.lid = l.lid ∧ w.ctx = l.ctx ∧ w.prio = l.prio ∧ w.phys = p.phys ∧ w.win = p.win ∧ w.grank = 0 ∧ w.gsize = 1 ∧
      w.evb = (s.ctxOf l.ctx).evb ∧ w.wlim = l.wlim ∧ w.amap = 0 ∧
      (∀ (j n : Nat), p.phys[j]? = some n → ∃ st, t.strmOf (8 * p.core + n) = st ∧ st.run = .run ∧ st.mode = .task ∧ st.slot = p.slot ∧ st.tnum = j ∧
        st.pc = l.entry ∧ (∀ r, mget 0 st.g r = if r = 1 then l.arg else 0) ∧ st.p = 0 ∧ st.fpc = 0 ∧ st.flg = 0) ∧
      ∀ k, hasKey p.win p.core p.slot k = true → t.cntOf k = {} ∧ objVal t k = 0) ∧
  (∀ (lid : Nat) (l : Launch) (r b cy core grp slot token : Nat) (s : State), s.ctl.lnch.find? (fun x => x.lid == lid) = some l →
    l.sh.reqs = [(cy, core, grp, slot, token)] → l.loops = [⟨0, r, 0, b⟩] → 0 < b → b < 2^32 → l.sh.fin = false →
    let at' := max cy l.sh.next + if l.shOn.getD l.die = dieOf core then 24 else 64
    let old := (mget {} s.ctl.grps (8 * token + grp)).asg
    (∀ i, (l.sh.idx = [] ∧ i = 0) ∨ (∃ j, l.sh.idx = [(j, b)] ∧ i = j + 1 ∧ i < b) →
      ∃ t m, exec (.shuttleAssign lid) s = .next t ∧ (mget {} t.ctl.grps (8 * token + grp)).asg = old ++ [(at', some ([i], l.sh.ord))] ∧
        t.ctl.lnch.find? (fun x => x.lid == lid) = some m ∧ m.sh = { idx := [(i, b)], ord := l.sh.ord + 1, fin := false, reqs := [], next := max cy l.sh.next + 1 }) ∧
    (l.sh.idx = [(b - 1, b)] →
      ∃ t, exec (.shuttleAssign lid) s = .next t ∧ (mget {} t.ctl.grps (8 * token + grp)).asg = old ++ [(at', none)])) ∧
  ∀ (c n at' : Nat) (a : Option (List Nat × Nat)) (s : State), n < 8 →
    let k := 8 * c + n
    let st := s.strmOf k
    st.nx.owed = true → st.nx.at' = some st.pc → st.mode = .task → (s.upTo at').canIssue k = true → (s.upTo at').turn k = true →
    (mget {} s.ctl.grps (8 * (s.taskAt k).token + st.tnum / (s.taskAt k).sper)).asg[st.nx.taken]? = some (at', a) →
    ∃ t d, exec (.nextitAnswer c n) s = .next t ∧ t.strmOf k = d ∧ d.pc = st.pc + 8 ∧ d.nx = { st.nx with taken := st.nx.taken + 1, owed := false, at' := none } ∧
      d.nextIss = (s.upTo at').issueDue k + 1 + st.nx.gap.toNat ∧ d.wait = none ∧
      (st.nx.pd = 0 → d.p = st.p) ∧ (st.nx.pd ≠ 0 → bitN d.p.toNat st.nx.pd.toNat = a.isSome) ∧
      (∀ r, r < 24 → mget 0 d.g r = mget 0 st.g r) ∧ (a = none → d.g = st.g) ∧
      ∀ idx ord l, a = some (idx, ord) → s.ctl.lnch.find? (fun x => x.lid == (s.taskAt k).lid) = some l → (l.loops.map (·.reg)).Nodup →
        mget 0 d.g 30 = ofN ord ∧ mget 0 d.g 31 = ofN (s.taskAt k).grank ∧
        (∀ (j : Nat) (lp : Loop) (i : Nat), l.loops[j]? = some lp → idx[j]? = some i → lp.reg < 6 → mget 0 d.g (24 + lp.reg) = ofN i) ∧
        ∀ r, r < 6 → (∀ lp ∈ l.loops, lp.reg ≠ r) → mget 0 d.g (24 + r) = 0

namespace Sys2Proof.Claim

/-- A task of one core, in a slot of it, with streams 0 to 7, whose vector and matrix engines have nothing under way, and whose
partition neither replays nor takes checkpoints. -/
def oneCore (s : State) (c k : Nat) : Prop :=
  let w := s.taskOf (4 * c + k)
  let f := s.funOf (s.ownerC w.ctx)
  k < 4 ∧ s.gangKeys w.token = [4 * c + k] ∧ bitN w.out.toNat 0 = false ∧ w.phys.Nodup ∧ (∀ n ∈ w.phys, n < 8) ∧
    (∀ o ∈ s.ops, o.core = c → o.slot = k → (o.eng = .vec → o.ph = .queued) ∧ (o.eng = .mat → o.ph ≠ .run)) ∧ f.replay = none ∧ bitN f.cktgt.toNat 0 = false

/-- What gating a task of one core in a cycle leaves (R131, R294): the task gated, its streams standing where they are, one that
stood at a YIELD to execute it again, and the instance in its dispatcher's list. -/
def gatedAt (s t : State) (c k now : Nat) : Prop :=
  let w := s.taskOf (4 * c + k)
  t.now = now ∧ t.taskOf (4 * c + k) = { w with stat := .gated, was := w.stat, gate0 := now, yreq := none } ∧
    (∀ n ∈ w.phys, t.strmOf (8 * c + n) = let st := s.strmOf (8 * c + n)
      { st with run := if st.run = .yielded then .run else st.run, barW := none }) ∧
    t.ctl.pendI = s.ctl.pendI ++ [{ die := dieOf c, lid := w.lid, prio := w.prio, arr := s.fresh, token := some w.token }] ∧
    t.obj = s.obj ∧ t.ops = s.ops ∧ t.mem = s.mem

/-- Whether no stream of a task stands before a YIELD that it has still to reach. -/
def allStopped (s : State) (c : Nat) (w : Task) : Prop :=
  ∀ n ∈ w.phys, (s.strmOf (8 * c + n)).run = .yielded ∨ (s.strmOf (8 * c + n)).run = .done

end Sys2Proof.Claim

/-- R130, R131, R293 to R296, R338: a head that does not fit asks its victims to yield, by the deadline of each one's context; here
no other partition waits on the die, and none is asked to yield. A task of one core is gated after the cycle of its deadline where
a stream has still to reach its YIELD or a fault has stopped it or runs its handler, and at once where every stream has stopped at a YIELD that is not clean. Where all are clean
and its operations have completed it leaves its core, keeping the registers of its live masks and going on after its YIELDs. The
parts of a gated task that the next placement claims are scanned out to its pool cell: with bit 11 its slot too, and its
streams. A gated task that fits where it stands goes on as it stood. That a stop which is not clean leaves the YIELD to be executed
again is the model's reading (assumption 38), and that a request stands with the instance is its choice (assumption 55). -/
def Obligations.TasksYield : Prop :=
  (∀ (die own : Nat) (w : Want) (me cl toks : List Nat) (s : State), own < 5 → blockedHead s die own = some (w, me, cl) →
    victims s w me cl = some toks → (∀ o, o < 5 → o ≠ own → s.pending die o = []) →
    (∀ e ∈ s.task, e.2.yreq.isSome = true → s.ownerC e.2.ctx = own) →
    (∀ tok ∈ toks, ∀ k ∈ s.gangKeys tok, s.ownerC (s.taskOf k).ctx = own) →
    ∃ t, exec (.victimSelection die) s = .next t ∧ t = { s with task := t.task, stall := [] } ∧
      ∀ k, ((∃ tok ∈ toks, k ∈ s.gangKeys tok) → t.taskOf k = { s.taskOf k with
          yreq := (s.taskOf k).yreq.or (some (s.now + (s.ctxOf (s.taskOf k).ctx).ydl.toNat)) }) ∧
        ((∀ tok ∈ toks, k ∉ s.gangKeys tok) → t.taskOf k = s.taskOf k)) ∧
  ∀ (c k : Nat) (s : State), oneCore s c k →
    let tk := 4 * c + k
    let w := s.taskOf tk
    (∀ d, w.yreq = some d → (w.stat = .run ∧ ¬ allStopped s c w) ∨ w.stat = .handler ∨ w.stat = .stopped ∨ w.stat = .hostStop →
      ∃ t, exec (.yieldDeadlineExpiry c k) s = .next t ∧ gatedAt s t c k (max s.now (d + 1))) ∧
    (w.yreq ≠ none → w.stat = .run → s.coreRuns c = true → allStopped s c w →
      (∀ m ∈ w.phys, (s.strmOf (8 * c + m)).run = .yielded →
        ((s.strmOf (8 * c + m)).yclean = false → ∃ t, exec (.taskYield c k) s = .next t ∧ gatedAt s t c k s.now) ∧
        (w.phys = [m] → (s.strmOf (8 * c + m)).yclean = true → (∀ o ∈ s.ops, o.core = c → o.slot = k → o.uncnt = true) →
          (s.strmOf (8 * c + m)).mq = [] → (s.strmOf (8 * c + m)).arr = [] → (s.strmOf (8 * c + m)).land = [] →
          let st := s.strmOf (8 * c + m)
          ∃ t x y, exec (.taskYield c k) s = .next t ∧ t.taskOf tk = {} ∧ (t.strmOf (8 * c + m)).run = .absent ∧ t.ctl.saves = s.ctl.saves ++ [x] ∧
            x.clean = true ∧ x.off = true ∧ x.task.token = w.token ∧ x.strms = [(st.tnum, y)] ∧ y.run = .run ∧ y.pc = st.pc + 8 ∧
            (∀ r, mget 0 y.g r = if bitN st.ymask.toNat r = true then mget 0 st.g r else 0) ∧ y.spill = st.spill ∧ y.fpc = st.fpc ∧ y.flg = st.flg ∧
            y.seed = st.seed ∧ t.mem = s.mem))) ∧
    (∀ i p m, s.nextPlace (dieOf c) = some (i, p) → (toScan s i p).find? (fun x => x.1 == c && x.2.1 == k) = some (c, k, m) → m ≤ allParts →
      w.stat = .gated →
      let x := quiesce s tk
      let v := x.taskOf tk
      let area := poolCell x v.ctx c k
      v.out = 0 → (∀ z ∈ x.ctl.saves, ¬(z.core = c ∧ z.task.token = v.token ∧ z.hnd = false)) →
      areaOk x v.ctx area.toNat (areaOf v.win v.phys.length).size true = true →
      ∃ t y, exec (.scanOut c k) s = .next t ∧
        t.mem = (putArea x v.ctx area.toNat (areaWrites x v c k x.fresh m (if m = allParts then 2 else 1) (presentOf m))).mem ∧
        y ∈ t.ctl.saves ∧ y.area = area ∧ y.task = { v with out := BitVec.ofNat 16 m } ∧ y.id = x.fresh ∧ y.off = bitN m 11 ∧
        (bitN m 11 = true → t.taskOf tk = {} ∧ ∀ n ∈ v.phys, (t.strmOf (8 * c + n)).run = .absent) ∧
        (bitN m 11 = false → t.taskOf tk = y.task)) ∧
    ∀ i, s.ctl.pendI.find? (fun i => i.token == some w.token) = some i → s.nextPlace i.die = some (i, .back) → w.stat = .gated →
      w.yreq = none → (∀ z ∈ s.ctl.saves, z.task.token ≠ w.token) →
      ∃ t, exec (.taskRestore w.token) s = .next t ∧ t.now = max s.now (mget 0 s.ctl.placeC i.die) ∧
        (t.taskOf tk).stat = w.was ∧ (t.taskOf tk).win = w.win ∧
        (t.taskOf tk).out = 0 ∧ t.obj = s.obj ∧ t.mem = s.mem ∧
        ∀ n ∈ w.phys, (s.strmOf (8 * c + n)).run = .run → (t.strmOf (8 * c + n)).pc = (s.strmOf (8 * c + n)).pc ∧ (t.strmOf (8 * c + n)).g = (s.strmOf (8 * c + n)).g ∧
          t.now < (t.strmOf (8 * c + n)).nextIss

/-- R326 to R333, R362: the work of a faulting task stops, and its fault is delivered. One that goes to the host stops the task for it,
with a fault-queue entry of kind 1; one that the task's handler takes enters it, with FINFO and the frame page; a task with no
handler, or whose fault is poison of a save area, ends, with an entry of kind 2. -/
def Obligations.FaultsDelivered : Prop :=
  ∀ (c k : Nat) (s : State), oneCore s c k → s.coreRuns c = true →
    let tk := 4 * c + k
    let w := s.taskOf tk
    (w.stat = .stopping → ∃ t, exec (.faultStop c k) s = .next t ∧ t.now = max s.now ((w.fault.map (·.fcyc)).getD 0 + 1) ∧
      t = { s with now := t.now, task := t.task, ops := t.ops, stall := [] } ∧
      t.ops = s.ops.map (fun o => if o.core = c ∧ o.slot = k then { o with wait := none } else o) ∧
      t.taskOf tk = { w with stat := .stopped, gate0 := t.now } ∧ ∀ j, j ≠ tk → t.taskOf j = s.taskOf j) ∧
    ∀ f, w.stat = .stopped → w.fault = some f →
      (f.cause ≠ 0x11 → f.host = true → ∃ t x, exec (.faultVectoring c k) s = .next t ∧ t.taskOf tk = { w with stat := .hostStop } ∧ t.mem = s.mem ∧
        (let q := (s.funOf (s.ownerC w.ctx)).fqpend
         (t.funOf (s.ownerC w.ctx)).fqpend = q.filter (fun y => y.cyc ≤ f.fcyc) ++ x :: q.filter (fun y => f.fcyc < y.cyc)) ∧ x.kind = 1 ∧ x.ctx = w.ctx ∧ x.code = f.code ∧
        x.token = w.token ∧ x.finfo = f.finfo ∧ x.faddr = f.faddr ∧ x.cyc = f.fcyc ∧ x.core = c ∧ x.slot = k) ∧
      (∀ n l e u, f.cause ≠ 0x11 → f.host = false → w.evb ≠ 0 → n ∈ w.phys → (s.strmOf (8 * c + n)).tnum = f.strm →
        translate s c w.ctx (w.evb.toNat + 4096) .w = .ok l e u → reachable u w.ctx l = true →
        ∃ t, exec (.faultVectoring c k) s = .next t ∧ t.taskOf tk = { w with stat := .handler, fault := none, kept := some f } ∧
          (t.strmOf (8 * c + n)).mode = .handler ∧ (t.strmOf (8 * c + n)).run = .run ∧ (t.strmOf (8 * c + n)).pc = w.evb + ofN (64 * f.cause) ∧
          (t.strmOf (8 * c + n)).finfo = f.finfo ∧ readN t.mem (memKey l) 8 = f.finfo.toNat ∧ readN t.mem (memKey l + 8) 8 = f.faddr.toNat ∧
          (∀ a, a < memKey l ∨ memKey l + 4096 ≤ a → readB t.mem a = readB u.mem a) ∧
          ∀ m ∈ w.phys, (s.strmOf (8 * c + m)).tnum ≠ f.strm → (t.strmOf (8 * c + m)).mode = (s.strmOf (8 * c + m)).mode) ∧
      (f.cause = 0x11 ∨ f.host = false ∧ w.evb = 0 → bitN (s.ctxOf w.ctx).dumpctl.toNat 1 = false → (∀ n ∈ w.phys, (s.strmOf (8 * c + n)).mq = []) →
        ∃ t x, exec (.faultVectoring c k) s = .next t ∧ t.taskOf tk = {} ∧ (∀ n ∈ w.phys, (t.strmOf (8 * c + n)).run = .absent) ∧
          (let q := (s.funOf (s.ownerC w.ctx)).fqpend
           (t.funOf (s.ownerC w.ctx)).fqpend = q.filter (fun y => y.cyc ≤ f.fcyc) ++ x :: q.filter (fun y => f.fcyc < y.cyc)) ∧ x.kind = 2 ∧ x.ctx = w.ctx ∧
          x.token = w.token ∧ x.finfo = f.finfo ∧ x.faddr = f.faddr ∧ x.cyc = f.fcyc ∧ x.core = c ∧ x.slot = k)

namespace Sys2Proof.Claim
/-- A task stands stopped for the host, also while it is gated (R294, R362). -/
def waitsHost (w : Task) : Prop := w.stat = .hostStop ∨ (w.stat = .gated ∧ w.was = .hostStop)
end Sys2Proof.Claim

/-- R332, R333, R362: the oldest waiting entry of an enabled fault queue with room, before which no fault was detected that is still
to be delivered, is written at TAIL, which advances, and vector 0 is raised; without room FULL is set. RESUME and TERMINATE of a task stopped for the host of this function resume it or end it, and one that
is gated goes on when it is placed again; any other TOKEN sets ERR. HEAD is the host's. The model's choices: HEAD and TAIL run freely and
a slot is TAIL modulo the size (assumption 35, DEDUCED); a stream resumes at its PC with bits [2:0] as 0 (assumption 21); a function
whose device is not up takes no writes (assumption 46). -/
def Obligations.FaultQueueServed : Prop :=
  ∀ (f : Nat) (s : State), f < 5 → s.mmio f = true →
    let x := s.funOf f
    (∀ e r, x.fqpend = e :: r → bitN x.fqctl.toNat 0 = true → s.earlier f e.cyc = false →
      let size := 2^(bits x.fqctl.toNat 1 4)
      let a := memKey ⟨.host, x.fqbase.toNat / 2^12 * 2^12 + 64 * (x.fqtail.toNat % size)⟩
      ((x.fqtail - x.fqhead).toNat < size → ∃ t, exec (.faultQueueEntry f) s = .next t ∧
        (t.funOf f).fqpend = r ∧ (t.funOf f).fqtail = x.fqtail + 1 ∧ bitN (t.funOf f).fqctl.toNat 5 = false ∧ bitN (t.funOf f).pba.toNat 0 = true ∧
        readN t.mem a 1 = e.kind % 2^8 ∧ (e.kind < 2^8 → e.ctx < 2^8 → e.code < 2^8 → readN t.mem (a + 4) 4 = e.token % 2^32 ∧
          readN t.mem (a + 8) 8 = e.finfo.toNat ∧ readN t.mem (a + 16) 8 = e.faddr.toNat ∧ readN t.mem (a + 24) 8 = e.cyc % 2^64) ∧
        ∀ b, b < a ∨ a + 64 ≤ b → readB t.mem b = readB s.mem b) ∧
      (size ≤ (x.fqtail - x.fqhead).toNat → ∃ t, exec (.faultQueueEntry f) s = .next t ∧ t.mem = s.mem ∧
        t.funOf f = { x with fqctl := x.fqctl ||| 0x20 })) ∧
    (∀ v, ∃ t, exec (.fqheadWrite f v) s = .next t ∧ t.funOf f = { x with fqhead := v } ∧ t = { s with dev := t.dev, stall := [] }) ∧
    (∀ token, (∀ tk ∈ s.gangKeys token, ¬ waitsHost (s.taskOf tk) ∨ s.ownerC (s.taskOf tk).ctx ≠ f) →
      (∀ z ∈ s.ctl.saves, z.task.token = token → z.off = true → ¬ waitsHost z.task ∨ s.ownerC z.task.ctx ≠ f) →
      ∀ i ∈ [Instr.fqcmdResume f token, .fqcmdTerminate f token], ∃ t, exec i s = .next t ∧ t.task = s.task ∧ t.mem = s.mem ∧
        bitN (t.funOf f).fqctl.toNat 6 = true) ∧
    ∀ c k, oneCore s c k → s.ownerC (s.taskOf (4 * c + k)).ctx = f →
      let w := s.taskOf (4 * c + k)
      (w.stat = .gated → w.was = .hostStop → ∃ t, exec (.fqcmdResume f w.token) s = .next t ∧
        t.taskOf (4 * c + k) = { w with was := .run, fault := none } ∧ t.strm = s.strm ∧ t.mem = s.mem) ∧
      (w.stat = .hostStop →
      (∃ t, exec (.fqcmdResume f w.token) s = .next t ∧ t.taskOf (4 * c + k) = { w with stat := .run, fault := none, kept := none } ∧ t.mem = s.mem ∧
        ∀ n ∈ w.phys, (t.strmOf (8 * c + n)).pc = (s.strmOf (8 * c + n)).pc &&& ~~~7 ∧ s.now < (t.strmOf (8 * c + n)).nextIss) ∧
      (bitN (s.ctxOf w.ctx).dumpctl.toNat 1 = false → (∀ n ∈ w.phys, (s.strmOf (8 * c + n)).mq = []) →
        ∃ t, exec (.fqcmdTerminate f w.token) s = .next t ∧ t.taskOf (4 * c + k) = {} ∧ (∀ n ∈ w.phys, (t.strmOf (8 * c + n)).run = .absent) ∧
          (t.funOf f).fqpend = x.fqpend ∧ t.mem = s.mem))

namespace Sys2Proof.Claim
/-- A machine-check entry of a kind, newest in the device's list (R336). -/
def machineChecked (s t : State) (kind qtr sev ctx : Nat) : Prop :=
  ∃ m, t.dev.pf0.mcs = m :: s.dev.pf0.mcs ∧ m.kind = kind ∧ m.qtr = qtr ∧ m.sev = sev ∧ m.ctx = ctx ∧ m.cyc = s.now

/-- A task in a slot runs, in its own code or its handler, or is coming to a stop: its engines and streams do not stand still. -/
def runsOn (s : State) (c slot : Nat) : Prop :=
  (s.taskOf (4 * c + slot)).stat = .run ∨ (s.taskOf (4 * c + slot)).stat = .handler ∨ (s.taskOf (4 * c + slot)).stat = .stopping

/-- A predicate that is still to land, `g` cycles later. -/
def landsLater (g : Nat) (e : Nat × BReg) : Nat × BReg :=
  (e.1, match e.2.st with
    | .due n => { e.2 with st := .due (n + g) }
    | _ => e.2)

/-- What state word of a core an index names in a machine check, as a task holds it: a count record of an object of its windows,
a barrier of its range, or its slot's allocation map. -/
def stateHeld (c idx : Nat) (x : Nat × Task) : Bool :=
  if idx < 1024 then !bitN x.2.out.toNat (2 + idx / 256 % 4) && hasKey x.2.win c x.1 (1024 * c + idx)
  else if idx < 1088 then !bitN x.2.out.toNat 7 && hasBar x.2.win c (64 * c + (idx - 1024))
  else x.1 == idx - 1088
end Sys2Proof.Claim

/-- R43, R334 to R336, R350, R376: a correctable error freezes its core for 24 cycles, a further one for 24 more. Then the next issue
of each stream whose task runs, what is to land there from the core's own units, each operation's next event, and what counts and
barriers have still to show come as much later as the core stood, while a load still arrives from elsewhere at its own time, and all
else is as it was. An uncorrectable error writes a machine check: a word
of an object, a side array, a shadow or spill memory is poisoned, a line of a cache goes with a freeze, and the task whose count,
barrier or allocation state it is ends with cause 0x10. Patrol scrub counts a correctable error for its bank, and poisons the
sector of any other; a bank with 64 is spared. A refresh is counted. The model's choice: words of on-chip storage are of 8 bytes, and
the numbers of stores (assumption 34). -/
def Obligations.StorageErrors : Prop :=
  (∀ (c : Nat) (s : State), c < 160 → (∀ x ∈ s.tasksOn c [], (s.ctxOf x.2.ctx).ttrig = 0) →
    let core := s.coreOf c
    let frozen := { core with frz := some (s.now + 24), frz0 := if core.frz = none then s.now else core.frz0, cEcc := core.cEcc + 1 }
    (∃ t, exec (.eccCorrectableFreeze c) s = .next t ∧ t = { s with core := t.core } ∧ t.coreOf c = frozen ∧
      ∀ d, d ≠ c → t.coreOf d = s.coreOf d) ∧
    (∀ d, core.frz = some d →
      let e := max s.now d
      let g := e - core.frz0
      ∃ t, exec (.eccFreezeEnd c) s = .next t ∧ t = { s with
        now := e, core := t.core, strm := t.strm, ops := t.ops, obj := { s.obj with cnts := t.obj.cnts, bars := t.obj.bars }, stall := [] } ∧
      t.coreOf c = { core with frz := none } ∧ (∀ j, j / 8 ≠ c → t.strmOf j = s.strmOf j) ∧
      (∀ n, n < 8 → let a := s.strmOf (8 * c + n)
        let b := t.strmOf (8 * c + n)
        (a.run ≠ .absent → a.mode = .firmware ∨ runsOn s c a.slot →
          b = { a with nextIss := a.nextIss + g, land := b.land, arr := b.arr, mq := b.mq, b := a.b.map (landsLater g), wait := b.wait } ∧
          b.land = a.land.map (fun l => { l with due := l.due + g }) ∧
          b.arr = a.arr.map (fun v => if v.load = true ∧ v.own = false then v else { v with due := v.due + g }) ∧
          b.mq = a.mq.map (fun v => if v.place.onCore c = true then { v with due := v.due + g } else v) ∧
          b.wait = a.wait.map fun w => { w with since := w.since + g }) ∧
        (a.run = .absent ∨ (a.mode ≠ .firmware ∧ ¬ runsOn s c a.slot) → b = a)) ∧
      (t.ops = s.ops.map fun o => if o.core = c ∧ ((s.taskOf (4 * c + o.slot)).stat = .run ∨ (s.taskOf (4 * c + o.slot)).stat = .handler ∨
          (s.taskOf (4 * c + o.slot)).stat = .stopping) then
        { o with due := if o.due = 0 then 0 else o.due + g, rdue := if o.rdue = 0 then 0 else o.rdue + g, wait := o.wait.map (· + g)
                 at0 := if o.eng = .vec ∧ o.ph ≠ .queued then o.at0 + g else o.at0 }
        else o) ∧
      (∀ k, let a := s.cntOf k
        t.cntOf k = if k / 1024 = c then
          { a with wc := if a.wu ≠ 0 ∧ e - g < a.wc + 2 then a.wc + g else a.wc
                   lc := if a.lu ≠ 0 ∧ e - g < a.lc + 2 then a.lc + g else a.lc } else a) ∧
      ∀ k, let a := s.barOf k
        t.barOf k = if k / 64 = c ∧ a.rel ≠ 0 ∧ e - g < a.rel + 3 then { a with rel := a.rel + g } else a) ∧
    (∀ st obj i, st ≠ .count → st ≠ .cache → i < storeWords st →
      ∃ t, exec (.onchipUncorrectableError c st (obj * storeWords st + i)) s = .next t ∧
        t.obj = { s.obj with poison := (c, storeCode st, obj, i) :: s.obj.poison } ∧
        t.task = s.task ∧ t.strm = s.strm ∧ ∃ ctx, machineChecked s t 1 (c / 40) 1 ctx) ∧
    (∀ i, ∃ t, exec (.onchipUncorrectableError c .cache i) s = .next t ∧
      t.coreOf c = { frozen with tlb := core.tlb.eraseIdx i, recs := core.recs.eraseIdx i } ∧ t.obj = s.obj ∧ t.task = s.task ∧
      machineChecked s t 1 (c / 40) 1 0xFF) ∧
    ∀ idx,
      ((∀ x ∈ s.tasksOn c [], stateHeld c idx x = false) → ∃ t, exec (.onchipUncorrectableError c .count idx) s = .next t ∧
        t.obj = s.obj ∧ t.task = s.task ∧ machineChecked s t 1 (c / 40) 1 0xFF) ∧
      ∀ k, oneCore s c k → (∀ x ∈ s.tasksOn c [], stateHeld c idx x = true ↔ x.1 = k) →
        let w := s.taskOf (4 * c + k)
        bitN (s.ctxOf w.ctx).dumpctl.toNat 1 = false → (∀ n ∈ w.phys, (s.strmOf (8 * c + n)).mq = []) →
        ∃ t x, exec (.onchipUncorrectableError c .count idx) s = .next t ∧ machineChecked s t 1 (c / 40) 1 w.ctx ∧
          t.taskOf (4 * c + k) = {} ∧ (∀ n ∈ w.phys, (t.strmOf (8 * c + n)).run = .absent) ∧
          (let q := (s.funOf (s.ownerC w.ctx)).fqpend
           (t.funOf (s.ownerC w.ctx)).fqpend = q.filter (fun y => y.cyc ≤ s.now) ++ x :: q.filter (fun y => s.now < y.cyc)) ∧
          x.kind = 2 ∧ x.ctx = w.ctx ∧ x.token = w.token ∧ x.finfo = 0x10 ∧ x.cyc = s.now) ∧
  ∀ (k : Nat) (s : State), k < 8 →
    let x := s.stackOf k
    (∀ bank, ∃ t, exec (.refresh k bank) s = .next t ∧ t = { s with dev := t.dev } ∧ t.stackOf k = { x with cRef := x.cRef + 1 } ∧
      ∀ j, j ≠ k → t.stackOf j = s.stackOf j) ∧
    (∀ o a, let l : Loc := ⟨.dev o, a⟩
      a < s.partSize o →
      (let b := bankOf (memKey l)
       let n := s.now / (86400 * 2700000000)
       ∃ t, exec (.patrolScrub k l true) s = .next t ∧ t = { s with dev := t.dev } ∧ (t.stackOf k).cScr = x.cScr + 1 ∧ (t.stackOf k).scyc = n ∧
        mget 0 (t.stackOf k).corr b = (if x.scyc = n then mget 0 x.corr b else 0) + 1 ∧
        ∀ j, j ≠ b → mget 0 (t.stackOf k).corr j = if x.scyc = n then mget 0 x.corr j else 0) ∧
      ∃ t, exec (.patrolScrub k l false) s = .next t ∧ (∀ p, p ∈ t.mpois ↔ p = memKey l / 32 ∨ p ∈ s.mpois) ∧ t.obj = s.obj ∧ t.task = s.task ∧
        ∃ q, machineChecked s t 2 q 1 0xFF) ∧
    ∀ die bank, 64 ≤ mget 0 x.corr (128 * die + bank) → ∃ t, exec (.bankSpare k die bank) s = .next t ∧
      mget 0 (t.stackOf k).corr (128 * die + bank) = 0 ∧ mget 0 (t.stackOf k).spare (128 * die + bank) = mget 0 x.spare (128 * die + bank) + 1 ∧
      machineChecked s t 7 (k / 2) 0 0xFF

namespace Sys2Proof.Claim
/-- A function's writes to a context's block take effect (R322, R357). -/
def owns (s : State) (f ctx : Nat) : Prop := f < 5 ∧ ctx < 64 ∧ s.mmio f = true ∧ s.ownerC ctx = f

/-- Beside one context's registers, and the streams that may try again, `t` is `s`. -/
def ctxOnly (s t : State) (ctx : Nat) (y : Ctx) : Prop :=
  t = { s with dev := { s.dev with ctxs := t.dev.ctxs }, stall := [] } ∧ t.ctxOf ctx = y ∧ ∀ j, j ≠ ctx → t.ctxOf j = s.ctxOf j
end Sys2Proof.Claim

/-- R102, R328, R347, R348, R351, R352: STOP and FORCE of a context's owner, with EN set, request a debug stop; a dump request is a forced one
with BUSY. A stream that stands before an armed safe point, or executes a BRKPT with SP while EN is set, stops there and requests a
stop for its context. Once every stream
of the context has stopped, STOPPED is 1. GO clears it, and the stopped streams go on after this cycle, where they stand.
TTRIG takes its codes and match, and, in a cycle without an event before it, runs at once on START code 0xFF alone. -/
def Obligations.DebugStops : Prop :=
  ∀ (f ctx : Nat) (s : State), owns s f ctx →
    let x := s.ctxOf ctx
    (bitN x.dbgctl.toNat 0 = true → ∃ t, exec (.dbgctlStop f ctx) s = .next t ∧ ctxOnly s t ctx { x with dbgStop := true }) ∧
    (bitN x.dbgctl.toNat 0 = true → ∃ t, exec (.dbgctlForce f ctx) s = .next t ∧ ctxOnly s t ctx { x with dbgStop := true, force := true }) ∧
    (∃ t, exec (.dumpctlGo f ctx) s = .next t ∧ ctxOnly s t ctx { x with dbgStop := true, force := true, dumpsts := 1, dumpC := s.now }) ∧
    (∀ v : BitVec 64, x.evC < s.now ∨ (x.evs = [] ∧ x.evStop = false) → ∃ t y, exec (.ttrigWrite f ctx v) s = .next t ∧
      ctxOnly s t ctx { x with ttrig := y, evC := max x.evC s.now, evStop := bits v.toNat 8 8 == 0xFF, evs := [] } ∧ bits y.toNat 0 16 = bits v.toNat 0 16 ∧
      bits y.toNat 32 32 = bits v.toNat 32 32 ∧ (bits v.toNat 8 8 = 0xFF → bitN y.toNat 16 = false) ∧
      (bits v.toNat 8 8 ≠ 0xFF → bits v.toNat 0 8 = 0xFF → bitN y.toNat 16 = true) ∧
      (bits v.toNat 8 8 ≠ 0xFF → bits v.toNat 0 8 ≠ 0xFF → bitN y.toNat 16 = bitN x.ttrig.toNat 16)) ∧
    (∃ t, exec (.dbgctlGo f ctx) s = .next t ∧ t.ctxOf ctx = { x with dbgStop := false, force := false, dbgctl := x.dbgctl &&& ~~~0x10 } ∧
      t.mem = s.mem ∧ t.obj = s.obj ∧ t.task = s.task ∧ ∀ tk n, (s.taskOf tk).ctx = ctx → (∃ w, (tk, w) ∈ s.task ∧ w.ctx = ctx ∧ w.stat ≠ .empty ∧ w.stat ≠ .saved) →
        n ∈ (s.taskOf tk).phys → (t.strmOf (8 * (tk / 4) + n)).dstop = false ∧ (t.strmOf (8 * (tk / 4) + n)).pc = (s.strmOf (8 * (tk / 4) + n)).pc ∧
          ((s.strmOf (8 * (tk / 4) + n)).dstop = true → s.now < (t.strmOf (8 * (tk / 4) + n)).nextIss)) ∧
    (∀ h : Header, s.runs h 0 → s.myCtx = ctx → s.me.mode = .task → h.sp = true → bitN x.dbgctl.toNat 0 = true → s.me.bphit = false →
      ∃ t, exec (.brkpt h) s = .next t ∧ t.strmOf s.cur = { s.me with dstop := true, bphit := true, stopC := s.now } ∧
        t.ctxOf ctx = { x with dbgStop := true } ∧ t.mem = s.mem ∧ t.obj = s.obj ∧ t.ops = s.ops ∧ t.task = s.task) ∧
    (x.dbgStop = true → bitN x.dbgctl.toNat 4 = false → x.ttrig = 0 → (∀ o ∈ s.ops, (o.eng = .vec → o.ph = .queued) ∧ o.inStep s.now = false) →
      (∀ e ∈ s.task, e.2.ctx = ctx → (s.taskOf e.1).stat = .run ∧ ∀ n ∈ (s.taskOf e.1).phys,
        (s.strmOf (8 * (e.1 / 4) + n)).dstop = true ∨ (s.strmOf (8 * (e.1 / 4) + n)).run ≠ .run) →
      ∃ t, exec (.debugStopped ctx) s = .next t ∧ ctxOnly s t ctx { x with dbgctl := x.dbgctl ||| 0x10, stopC := s.now }) ∧
    ∀ (c n : Nat) (l : Loc) (e : Nat) (u : State) (ord obj : Nat), n < 8 →
      let k := 8 * c + n
      let st := s.strmOf k
      let s1 := select s k
      s.canIssue k = true → st.mode = .task → st.bphit = false → (s.taskAt k).ctx = ctx →
      translate s1 c ctx st.pc.toNat .x = .ok l e u → bitN (readN u.mem (memKey l) 8) 62 = true →
      bitN x.dbgctl.toNat 0 = true → safePoint s ctx st.pc.toNat = some (ord, obj) →
      (∃ b ∈ x.bp, bitN b.2.toNat 63 = true ∧ bits b.2.toNat 0 32 = ord ∧ bits b.2.toNat 32 16 = obj) →
      ∃ t, exec (.breakpointHit c n) s = .next t ∧ t.strmOf k = { st with dstop := true, bphit := true, stopC := s1.now } ∧
        t.ctxOf ctx = { x with dbgStop := true } ∧ t.mem = s.mem ∧ t.obj = s.obj

/-- R350, R353, R354: a tick of the time series, at the next multiple of 2^K cycles, counts, and writes a record with its number and
cycle to the ring, in the same act (the model's reading, assumption 17), or is lost where the last one is still being written. The dump of a stopped context without tasks is its
64-byte header, complete; without room for it nothing is written and it is truncated. -/
def Obligations.ReportsWritten : Prop :=
  (∀ (k : Nat) (s : State), bitN s.dev.pf0.tsctl.toNat 0 = true → bits s.dev.pf0.tsctl.toNat 1 5 = k → 14 ≤ k → k ≤ 30 →
    let p := s.dev.pf0
    let at' := (s.now / 2^k + 1) * 2^k
    let size := 65536 * bits p.tsbuf.toNat 0 12
    (at' < p.tsbusy → ∃ t, exec .telemetryTick s = .next t ∧ t.now = at' ∧ t.mem = s.mem ∧ t.dev.pf0.tick = p.tick + 1 ∧ t.dev.pf0.tspos = p.tspos ∧
      bits t.dev.pf0.tsctl.toNat 32 32 = (bits p.tsctl.toNat 32 32 + 1) % 2^32 ∧ bits t.dev.pf0.tsctl.toNat 0 32 = bits p.tsctl.toNat 0 32) ∧
    (p.tsbusy ≤ at' → ∃ t, exec .telemetryTick s = .next t ∧ t.now = at' ∧ t.dev.pf0.tick = p.tick + 1 ∧ t.dev.pf0.tsctl = p.tsctl ∧ t.obj = s.obj ∧
      (size = 0 → t.mem = s.mem) ∧
      (p.tspos + 11936 ≤ size → let a := memKey ⟨.host, p.tsbuf.toNat / 2^16 * 2^16 + p.tspos⟩
        readN t.mem a 8 = (p.tick + 1) % 2^64 ∧ readN t.mem (a + 8) 8 = at' % 2^64 ∧ t.dev.pf0.tspos = (p.tspos + 11936) % size ∧
          ∀ b, b < a ∨ a + 11936 ≤ b → readB t.mem b = readB s.mem b))) ∧
  ∀ (ctx : Nat) (l : Loc) (s : State), (∀ e ∈ s.task, e.2.ctx ≠ ctx) → bitN (s.ctxOf ctx).dumpsts.toNat 0 = true →
    bitN (s.ctxOf ctx).dbgctl.toNat 4 = true →
    let b := (s.ctxOf ctx).dumpbuf.toNat
    (bits b 0 12 = 0 → ∃ t, exec (.dumpWrite ctx) s = .next t ∧ ctxOnly s t ctx { s.ctxOf ctx with dumpsts := 4 }) ∧
    (bits b 0 12 ≠ 0 → canUse s ctx (b / 2^16 * 2^16) 64 true l →
      canUse (vwrite s ctx false 2 (b / 2^16 * 2^16) 64 (dumpHeader 0 64 0 ctx 0 (s.ctxOf ctx).dumpC 0)).2.2 ctx (b / 2^16 * 2^16) 64 true l → ∃ t, exec (.dumpWrite ctx) s = .next t ∧
      t.ctxOf ctx = { s.ctxOf ctx with dumpsts := BitVec.ofNat 64 (2 + 2^16 * 64) } ∧ readN t.mem (memKey l) 4 = 0x504D5544 ∧
      readN t.mem (memKey l + 6) 1 = 1 ∧ readN t.mem (memKey l + 8) 8 = 64 ∧ readN t.mem (memKey l + 16) 8 = 64 ∧ t.obj = s.obj)

namespace Sys2Proof.Claim
/-- Whether an epoch lists a block of a leaf of some level and entry, by its memory key (R343). -/
def listed (s : State) (x : Func) (lvl p k : Nat) : Prop :=
  bits p 52 2 = 0 ∧ (x.nextEp = 0 ∨ (lvl = 0 ∧ bitN p 8 = true) ∨ (0 < lvl ∧ k / 65536 ∈ s.dirty))
end Sys2Proof.Claim

/-- R342 to R346: setting EN of a partition's checkpoint target, while its interface is not locked, begins with epoch 0 and nothing
listed. A due epoch with no covered task on a core takes the next number and the open log, and lists every block of its
contexts' device pages in epoch 0, later those marked dirty, and no other. It copies one block after another, with its bytes, and
completes after the last. Replay of the one completed epoch of a partition without tasks puts its single block back, byte for
byte, and forces what was chosen since. The model's choices: one block goes with each CHECKPOINT_EPOCH_COMPLETE, in the order of the
list (assumption 39), to the places of the safe tier of assumption 19. -/
def Obligations.CheckpointsTaken : Prop :=
  ∀ (f : Nat) (s : State), f < 5 →
    let x := s.funOf f
    (∀ v : BitVec 64, x.tdisp = .unlocked → s.mmio f = true → ∃ t, exec (.cktgtWrite f v) s = .next t ∧ t = { s with dev := t.dev, stall := [] } ∧
      (bitN v.toNat 0 = true → bitN x.cktgt.toNat 0 = false →
        t.funOf f = { x with cktgt := v, nextEp := 0, lastEp := s.now, ckEnd := 0, epoch := none, ckpts := [], olog := [], oseq := [] }) ∧
      (bitN v.toNat 0 = false ∨ bitN x.cktgt.toNat 0 = true → t.funOf f = { x with cktgt := v })) ∧
    (bitN x.cktgt.toNat 0 = true → x.balOut ≠ none → x.epoch = none → x.replay = none →
      (∀ e ∈ s.task, s.ownerC e.2.ctx = f → e.2.stat = .empty ∨ e.2.stat = .ended ∨ e.2.stat = .saved) →
      (∀ z ∈ s.ctl.saves, s.ownerC z.task.ctx = f → z.off = false ∨ z.hnd = true ∨ z.task.out.toNat = allParts) →
      ∃ t e, exec (.checkpointEpochBegin f) s = .next t ∧ (t.funOf f).epoch = some e ∧ e.num = x.nextEp ∧ e.cyc = t.now ∧ e.log = x.olog ∧
        e.caught = [] ∧ e.done = [] ∧ e.pos = x.ckEnd + 64 ∧
        (t.funOf f).nextEp = x.nextEp + 1 ∧ (t.funOf f).olog = [] ∧ (t.funOf f).lastEp = t.now ∧ t.now = max s.now (epochDue s x) ∧ t.obj = s.obj ∧
        t.task = s.task ∧ (∀ ctx va lvl p k i, ctx < 64 → s.ownerC ctx = f → (s.ctxOf ctx).ckey ≠ none → (va, lvl, p, k) ∈ ctxLeaves s ctx →
          i < 2^(10 * lvl) → let m := memKey ⟨.dev f, ptePA p⟩ + 65536 * i
            listed s x lvl p m → (ctx, va + 65536 * i, m) ∈ e.blocks) ∧
        ∀ ctx va m, (ctx, va, m) ∈ e.blocks → s.ownerC ctx = f ∧ ∃ va0 lvl p k i, (va0, lvl, p, k) ∈ ctxLeaves s ctx ∧ i < 2^(10 * lvl) ∧
          va = va0 + 65536 * i ∧ m = memKey ⟨.dev f, ptePA p⟩ + 65536 * i ∧ listed s x lvl p m) ∧
    (∀ e, x.epoch = some e → e.caught = [] → x.balOut ≠ none → ∃ t, exec (.checkpointEpochComplete f) s = .next t ∧ t.task = s.task ∧ t.obj = s.obj ∧
      (∀ b r, e.blocks = b :: r → ∃ y n, (t.funOf f).epoch = some { e with blocks := r, done := e.done ++ [y], pos := e.pos + n } ∧
        y.ctx = b.1 ∧ y.va = b.2.1 ∧ y.key = b.2.2 ∧ n = (if y.poison = [] then 65600 else 65856) ∧
        ∀ i d, (i, d) ∈ y.data ↔ (y.key + i, d) ∈ s.mem ∧ i < 65536) ∧
      (e.blocks = [] → t.funOf f = { x with
        epoch := none, ckEnd := e.pos + 128 + 16 * e.log.length
        ckpts := { num := e.num, cyc := e.cyc, blocks := e.done, log := e.log, saves := e.saves, ctl := e.ctl } :: x.ckpts })) ∧
    ∀ c b, x.ckpts = [c] → c.blocks = [b] → c.saves = [] → x.epoch = none → (∀ e ∈ s.task, s.ownerC e.2.ctx ≠ f) →
      (b.data.map (·.1)).Pairwise (· < ·) → (∀ e ∈ b.data, e.1 < 65536) →
      ∃ t, exec (.replay f c.num) s = .next t ∧ (∀ i, i < 65536 → readB t.mem (b.key + i) = mget 0 b.data i) ∧
        (∀ a, a < b.key ∨ b.key + 65536 ≤ a → readB t.mem a = readB s.mem a) ∧ t.task = s.task ∧ t.obj = s.obj ∧
        (t.funOf f).replay = some { log := x.olog.reverse, at' := s.now }

namespace Sys2Proof.Claim
/-! ### The host's registers (R101, R305, R309, R313, R314, R320, R337, R347, R349, R352, R357, R358, R362, R369) -/

/-- What a write of a value leaves in a register of a context's block without an effect of its own. -/
def ctxReg (s : State) (v : BitVec 64) : HostReg → Option (Nat × Ctx)
  | .ydl c => some (c, { s.ctxOf c with ydl := if 2700 ≤ v.toNat ∧ v.toNat ≤ 2700000 then v else (s.ctxOf c).ydl })
  | .grptab c => some (c, { s.ctxOf c with grptab := v })
  | .bp c i => if i < 16 then some (c, { s.ctxOf c with bp := mput 0 (s.ctxOf c).bp i (v &&& 0x8000FFFFFFFFFFFF) }) else none
  | .dbgctl c => some (c, { s.ctxOf c with dbgctl := (v &&& 1) ||| ((s.ctxOf c).dbgctl &&& 0x30) })
  | .trbuf c => some (c, { s.ctxOf c with trbuf := v &&& 0xFFFFFFFFFFFF0FFF, trpos := 0
                                          dbgctl := (s.ctxOf c).dbgctl &&& 0xFFFFFFFFFFFFFFDF })
  | .sampctl c => some (c, { s.ctxOf c with sampctl := v &&& 0x3F })
  | .dumpctl c => some (c, { s.ctxOf c with dumpctl := v &&& 2 })
  | .dumpbuf c => some (c, { s.ctxOf c with dumpbuf := v &&& 0xFFFFFFFFFFFF0FFF })
  | _ => none

/-- The same of a function's registers. -/
def funReg (x : Func) (v : BitVec 64) : HostReg → Option Func
  | .fqbase => some { x with fqbase := v &&& 0xFFFFFFFFFFFFF000 }
  | .fqctl => some { x with fqctl := (v &&& 0x1F) ||| (x.fqctl &&& 0x60) }
  | _ => none

/-- The same of physical function 0's own registers. -/
def pf0Reg (p : Pf0) (v : BitVec 64) : HostReg → Option Pf0
  | .mcring => some { p with mcring := v &&& 0xFFFFFFFFFFFFF01F }
  | .tsctl => some { p with tsctl := (v &&& 0x3F) ||| (p.tsctl &&& 0xFFFFFFFF00000000) }
  | .tsbuf => some { p with tsbuf := v &&& 0xFFFFFFFFFFFF0FFF, tspos := 0 }
  | .domain => some { p with domain := v &&& 0x000003FF03FF03FF }
  | _ => none

/-- Whether a quarter may change hands between its owners (R313). -/
def mayOwn (s : State) (o : Nat) : Prop := o = 0 ∨ 5 ≤ o ∨ (s.funOf o).tdisp = .unlocked

/-- A function's interface is locked or runs (R319). -/
def isLocked (s : State) (f : Nat) : Prop := (s.funOf f).tdisp = .locked ∨ (s.funOf f).tdisp = .run

/-- What LOCK freezes of a function is frozen: until its interface stops, in ERROR too (R319, R320). -/
def isFrozen (s : State) (f : Nat) : Prop := isLocked s f ∨ (s.funOf f).tdisp = .error

/-- A page of the device with R, W and PIN (R337, R342). -/
def pinned (s : State) (ctx va : Nat) : Prop :=
  ∃ l e, peek s ctx va = .ok (l, e) ∧ pteTgt e = 0 ∧ pteR e = true ∧ pteW e = true ∧ ptePin e = true

/-- A size that BAR2 can have (R356): a power of two from 1 to 512 GiB. -/
def barSized (v : BitVec 64) : Prop := ∃ k, k < 10 ∧ v.toNat = 2^(30 + k)

/-- Nothing is placed or saved of a partition's tasks. -/
def noTasks (s : State) (f : Nat) : Prop := (∀ e ∈ s.task, s.ownerC e.2.ctx ≠ f) ∧ ∀ x ∈ s.ctl.saves, s.ownerC x.task.ctx ≠ f

/-- The keys of a partition are gone (R317): `y` is its function's record without them. -/
def keyless (s t : State) (f : Nat) (y : Func) : Prop :=
  t.funOf f = { y with ide := [], ideGo := [], balIn := none, balOut := none } ∧
    ∀ c, t.ctxOf c = if c < 64 ∧ s.ownerC c = f then { s.ctxOf c with ckey := none } else s.ctxOf c

/-- The storage of a quarter is clean and its scrub shows (R314). -/
def scrubbed (t : State) (q : Nat) : Prop :=
  (∀ k, k / 1024 / 40 = q → objVal t k = 0 ∧ t.cntOf k = {} ∧ t.fillOf k = {}) ∧ (∀ b, b / 64 / 40 = q → t.barOf b = {}) ∧
    (∀ c, c / 40 = q → (t.coreOf c).tlb = [] ∧ (t.coreOf c).recs = [] ∧ mget [] t.clus (c / 8) = []) ∧
    (∀ k, k = 2 * q ∨ k = 2 * q + 1 → (t.stackOf k).trig = [] ∧ (t.stackOf k).queue = []) ∧ bitN t.dev.pf0.scrub.toNat q = true
end Sys2Proof.Claim

/-- R313, R314, R305, R341, R357: a write of one owner field of PARTMAP whose conditions hold gives the quarter its new owner and
scrubs it; an owner that keeps none loses its memory. Otherwise the field keeps its value and PMERR is set. SCRUB falls when the
scrub ends. QMAP's fields change likewise. CTXBIND binds a context, whose LOST ends, and whose key goes with another owner. Where the
device is not up these writes are discarded (the model's choice, assumption 46). The model's choices: an owner that keeps no quarter
has its memory read as 0 (assumption 15), a scrub is done at once and SCRUB stands for its time (assumption 43), and a refused change of
QMAP sets PMERR (assumption 44). -/
def Obligations.PartitionsAssigned : Prop :=
  ∀ (s : State),
    (s.mmio 0 = false → (∀ v, exec (.partmapWrite v) s = .next s) ∧ (∀ v, exec (.qmapWrite v) s = .next s) ∧
      ∀ ctx v, exec (.ctxbindWrite ctx v) s = .next s) ∧
    (s.mmio 0 = true → ∀ (v : BitVec 32) (q : Nat), q < 4 → (∀ r, r < 4 → r ≠ q → bits v.toNat (4 * r) 3 = s.ownerQ r) →
      let old := s.ownerQ q
      let new := bits v.toNat (4 * q) 3
      let free := ∀ e ∈ s.task, e.1 / 4 / 40 = q → e.2.stat = .empty
      old ≠ new → ¬ isLocked s old →
      (new ≠ 5 → new ≠ 6 → free → mayOwn s old → mayOwn s new →
        ∃ t, exec (.partmapWrite v) s = .next t ∧ (∀ r, r < 4 → t.ownerQ r = if r = q then new else s.ownerQ r) ∧ t.dev.pf0.pmerr = false ∧
          scrubbed t q ∧ t.now = s.now ∧ ((∀ r, r < 4 → t.ownerQ r ≠ old) →
            (∀ a, a / 2^64 = old → readB t.mem a = 0) ∧ (old < 5 → ∀ c, c < 64 → s.ownerC c = old → t.ownerC c = 7))) ∧
      (new = 5 ∨ new = 6 ∨ ¬ free ∨ ¬ mayOwn s old ∨ ¬ mayOwn s new →
        ∃ t, exec (.partmapWrite v) s = .next t ∧ t = { s with dev := { s.dev with pf0 := { s.dev.pf0 with pmerr := true } }, stall := [] })) ∧
    (∀ q, q < 4 → ∃ t, exec (.scrubComplete q) s = .next t ∧ t = { s with dev := t.dev, stall := [] } ∧ t.dev.pf0 = { s.dev.pf0 with scrub := t.dev.pf0.scrub } ∧
      ∀ r, r < 4 → bitN t.dev.pf0.scrub.toNat r = (bitN s.dev.pf0.scrub.toNat r && r != q)) ∧
    (s.mmio 0 = true → ∀ (v : BitVec 64) (g : Nat), g < 16 → (∀ r, r < 16 → r ≠ g → bits v.toNat (4 * r) 4 = bits s.dev.pf0.qmap.toNat (4 * r) 4) →
      let old := bits s.dev.pf0.qmap.toNat (4 * g) 4
      let new := bits v.toNat (4 * g) 4
      let ok := (new < 5 ∨ new = 7) ∧ (∀ i, i < 4 → (s.sqOf (4 * g + i)).en = false) ∧ mayOwn s old ∧ mayOwn s new
      old ≠ new → ∃ t, exec (.qmapWrite v) s = .next t ∧ t = { s with dev := { s.dev with pf0 := t.dev.pf0 }, stall := [] } ∧
        t.dev.pf0 = { s.dev.pf0 with qmap := t.dev.pf0.qmap, pmerr := t.dev.pf0.pmerr } ∧
        (ok → t.dev.pf0.pmerr = false ∧ ∀ q, q < 64 → t.sqFun q = if q / 4 = g then new else s.sqFun q) ∧
        (¬ ok → t.dev.pf0.pmerr = true ∧ t.dev.pf0.qmap = s.dev.pf0.qmap)) ∧
    (s.mmio 0 = true → ∀ (ctx : Nat) (v : BitVec 64), ctx < 64 → ¬ isFrozen s (s.ownerC ctx) →
      let o := v.toNat % 8
      (o ≠ 5 → o ≠ 6 → ∃ t, exec (.ctxbindWrite ctx v) s = .next t ∧ ctxOnly s t ctx { s.ctxOf ctx with
        bind := ofN o, lost := false, ckey := if o = s.ownerC ctx then (s.ctxOf ctx).ckey else none }) ∧
      (o = 5 ∨ o = 6 → exec (.ctxbindWrite ctx v) s = .next s))

/-- R101, R305, R309, R337, R347 to R352, R356 to R360, R362, R369: each register that a function may write takes the bits that it has;
a write to a context's block by a function that does not own it is discarded. CTXROOT's write and an invalidation remove
cached translations. A save pool or log buffer of pages that all qualify is valid, and any other refused; BAR2 takes only its sizes. A queue's control changes but for EN only
while it is disabled, and EN's setting makes HEAD its TAIL; a doorbell within the ring is the new TAIL, and any other ERR. Before READY
a write of a BAR completes with Retry Status. The model's choices: a write of TRBUF clears TRERR and the ring position (assumption 45), a YDL or
BAR2 size that is out of range is discarded (assumption 44), and no register takes a write while the device is not up (assumption 46). -/
def Obligations.HostConfigures : Prop :=
  ∀ (f : Nat) (s : State), f < 5 → s.mmio f = true →
    (∀ (r : HostReg) (v : BitVec 64),
      (∀ ctx y, ctxReg s v r = some (ctx, y) → ctx < 64 → (s.ownerC ctx = f → ∃ t, exec (.registerWrite f r v) s = .next t ∧ ctxOnly s t ctx y) ∧
        (s.ownerC ctx ≠ f → exec (.registerWrite f r v) s = .next s)) ∧
      (∀ y, funReg (s.funOf f) v r = some y → ∃ t, exec (.registerWrite f r v) s = .next t ∧ t.funOf f = y ∧
        t = { s with dev := { s.dev with funs := t.dev.funs }, stall := [] } ∧ ∀ g, g ≠ f → t.funOf g = s.funOf g) ∧
      (∀ y, pf0Reg s.dev.pf0 v r = some y → (f = 0 → ∃ t, exec (.registerWrite f r v) s = .next t ∧
        t = { s with dev := { s.dev with pf0 := y }, stall := [] }) ∧ (f ≠ 0 → exec (.registerWrite f r v) s = .next s))) ∧
    (¬ isFrozen s f → ∀ v : BitVec 64,
      (∀ q, q < 64 → s.sqFun q = f → (s.sqOf q).en = false → ∃ t, exec (.registerWrite f (.sqbase q) v) s = .next t ∧
        t.sqOf q = { s.sqOf q with base := v &&& 0xFFFFFFFFFFFFFFC0 }) ∧
      (∀ i, i < 128 → ∃ t, exec (.registerWrite f (.msix i) v) s = .next t ∧
        bits (mget 0 (t.funOf f).msix (i / 2)).toNat (64 * (i % 2)) 64 = v.toNat ∧
        bits (mget 0 (t.funOf f).msix (i / 2)).toNat (64 - 64 * (i % 2)) 64 = bits (mget 0 (s.funOf f).msix (i / 2)).toNat (64 - 64 * (i % 2)) 64) ∧
      (∀ i, i < 3 → s.dev.pf0.ready = false → exec (.registerWrite f (.bar i) v) s = .next { s with resp := .retry }) ∧
      (∀ i, i < 3 → s.dev.pf0.ready = true → ∃ t, exec (.registerWrite f (.bar i) v) s = .next t ∧ (i ≠ 2 ∨ barSized v → mget 0 (t.funOf f).bar i = v) ∧
        (i = 2 → ¬ barSized v → t.funOf f = { s.funOf f with bar := (t.funOf f).bar } ∧ mget 0 (t.funOf f).bar i = mget 0 (s.funOf f).bar i))) ∧
    (∀ v : BitVec 64, let ok := v.toNat % 256 ≠ 0 ∧ ∀ c, c < 64 → s.ownerC c = f → (s.ctxOf c).ckey ≠ none →
        ∀ i, i < 16 * (v.toNat % 256) → pinned s c (v.toNat / 65536 * 65536 + 65536 * i)
      ∃ t, exec (.registerWrite f .cklog v) s = .next t ∧ t = { s with dev := { s.dev with funs := t.dev.funs }, stall := [] } ∧
        (ok → t.funOf f = { s.funOf f with cklog := (v &&& 0xFFFFFFFFFFFF00FF) ||| 0x100 }) ∧
        (¬ ok → t.funOf f = { s.funOf f with cklog := ((s.funOf f).cklog &&& 0xFFFFFFFFFFFFFEFF) ||| 0x200 })) ∧
    (∀ (ctx : Nat) (v : BitVec 64), ctx < 64 → s.ownerC ctx = f →
      (¬ isFrozen s f → ∃ t, exec (.ctxrootWrite f ctx v) s = .next t ∧ t.ctxOf ctx = { s.ctxOf ctx with root := v &&& 0x000FFFFFFFFFE001 } ∧
        t.mem = s.mem ∧ ∀ c e, (e ∈ (t.coreOf c).tlb ↔ e ∈ (s.coreOf c).tlb ∧ e.ctx ≠ ctx) ∧
          (e ∈ mget [] t.clus c ↔ e ∈ mget [] s.clus c ∧ e.ctx ≠ ctx)) ∧
      (∃ t, exec (.contextEvbWrite f ctx v) s = .next t ∧ ctxOnly s t ctx { s.ctxOf ctx with evb := if v.toNat % 4096 = 0 then v else (s.ctxOf ctx).evb }) ∧
      let base := v.toNat / 65536 * 65536
      let pages := 4 * (40 * (s.quarters f).length) * (v.toNat % 256) * 16
      let ok := v.toNat % 256 ≠ 0 ∧ ∀ i, i < pages → pinned s ctx (base + 65536 * i)
      (ok → ∃ t, exec (.savepoolWrite f ctx v) s = .next t ∧ ctxOnly s t ctx { s.ctxOf ctx with pool := ofN (base + 256 + v.toNat % 256) }) ∧
      (¬ ok → ∃ t, exec (.savepoolWrite f ctx v) s = .next t ∧ ctxOnly s t ctx { s.ctxOf ctx with
        pool := ((s.ctxOf ctx).pool &&& 0xFFFFFFFFFFFFFEFF) ||| 0x200 })) ∧
    (∀ (ctx : Nat) (a : Option (BitVec 64)), ∃ t, exec (.hostInvalidation ctx a) s = .next t ∧ t = { s with core := t.core, clus := t.clus, stall := [] } ∧
      ∀ c e, let gone := e.ctx = ctx ∧ ∀ x, a = some x → e.page = x.toNat / 2^(16 + 10 * e.lvl) * 2^(16 + 10 * e.lvl)
        (e ∈ (t.coreOf c).tlb ↔ e ∈ (s.coreOf c).tlb ∧ ¬ gone) ∧ (e ∈ mget [] t.clus c ↔ e ∈ mget [] s.clus c ∧ ¬ gone)) ∧
    ∀ q, q < 64 → s.sqFun q = f →
      let x := s.sqOf q
      (∀ v : BitVec 64, ∃ t y, exec (.sqctlWrite f q v) s = .next t ∧ t.sqOf q = y ∧ (∀ j, j ≠ q → t.sqOf j = s.sqOf j) ∧
        (x.en = true → y = { x with ctl := y.ctl } ∧ ∀ i, i < 64 → bitN y.ctl.toNat i = if i = 0 then bitN v.toNat 0 else bitN x.ctl.toNat i) ∧
        (x.en = false → s.ownerC (bits v.toNat 9 6) ≠ f → y = { x with ctl := x.ctl ||| 0x8000 }) ∧
        (x.en = false → s.ownerC (bits v.toNat 9 6) = f → y.base = x.base ∧ y.tail = x.tail ∧
          y.head = (if bitN v.toNat 0 = true then x.tail else x.head) ∧
          ∀ i, i < 64 → bitN y.ctl.toNat i = if i < 15 then bitN v.toNat i else i == 15 && bitN x.ctl.toNat i)) ∧
      ∀ v : BitVec 32, (s.funOf f).tdisp = .unlocked ∨ (s.funOf f).tdisp = .run →
        ∃ t, exec (.dbell f q v) s = .next t ∧ (∀ j, j ≠ q → t.sqOf j = s.sqOf j) ∧
          t.sqOf q = if v.toNat % 65536 < 2^x.lsz then { x with tail := BitVec.ofNat 16 v.toNat } else { x with ctl := x.ctl ||| 0x8000 }

namespace Sys2Proof.Claim
/-- Every bit of PWRCTL but BUSY, PERR and those of a list is as it was; BUSY and PERR are as given (R373). -/
def pwrOnly (s t : State) (l : List Nat) (busy perr : Bool) : Prop :=
  bitN t.dev.pf0.pwrctl.toNat 32 = busy ∧ bitN t.dev.pf0.pwrctl.toNat 33 = perr ∧
    ∀ i, i < 64 → i ≠ 32 → i ≠ 33 → i ∉ l → bitN t.dev.pf0.pwrctl.toNat i = bitN s.dev.pf0.pwrctl.toNat i

/-- Beside the device's own registers and the streams that may try again, `t` is `s`. -/
def devOnly (s t : State) : Prop := t = { s with dev := t.dev, stall := t.stall }
end Sys2Proof.Claim

/-- R356, R373 to R375: PP's write begins a change with BUSY, during which no core issues and no register, object or byte changes; at
its end PP has the new code and each stream's next issue is later by the pause. QGATE and SREF change bit by bit under their
conditions, and a bit that fails its own sets PERR; a stack leaves self-refresh after a while. D3hot needs them all, and is refused
with PERR otherwise. At TRIP every clock
stops and a machine check of kind 6 is written. BAR2 reaches the function's own quarters, reads all ones elsewhere, and supports no
atomic. The model's choices: a write of another PP while a change is under way sets PERR, and a stack's temperature is a free value
(assumption 44); PWRCTL takes no write while the device is not up (assumption 46). -/
def Obligations.PowerAndMemoryWindow : Prop :=
  ∀ (s : State),
    let p := s.dev.pf0
    let exits := s.dev.stks.any fun e => e.2.srefX
    (s.mmio 0 = true → ∀ v : BitVec 3, p.newPP = none → bits p.pwrctl.toNat 0 3 ≠ v.toNat → ∃ t, exec (.pwrctlPp v) s = .next t ∧ devOnly s t ∧
      t.dev.pf0.newPP = some v ∧ t.dev.pf0.ppAt = s.now ∧ pwrOnly s t [] true false ∧ ∀ k, t.canIssue k = false) ∧
    (s.mmio 0 = true → ∀ v w : BitVec 3, p.newPP = some w → ∃ t, exec (.pwrctlPp v) s = .next t ∧ devOnly s t ∧ t.dev.pf0.newPP = some w ∧
      pwrOnly s t [] true (decide (v ≠ w))) ∧
    (∀ v : BitVec 3, p.newPP = some v → let d := s.now - p.ppAt
      ∃ t, exec .ppTransitionComplete s = .next t ∧ t.dev.pf0.newPP = none ∧ bits t.dev.pf0.pwrctl.toNat 0 3 = v.toNat ∧
        pwrOnly s t [0, 1, 2] exits (bitN p.pwrctl.toNat 33) ∧ t.mem = s.mem ∧ t.obj = s.obj ∧ t.task = s.task ∧
        ∀ k, k / 8 < 160 → (s.strmOf k).run ≠ .absent → (s.strmOf k).mode = .firmware ∨ runsOn s (k / 8) (s.strmOf k).slot → (t.strmOf k).nextIss = (s.strmOf k).nextIss + d ∧ (t.strmOf k).pc = (s.strmOf k).pc ∧
          (t.strmOf k).wait.map (·.since) = (s.strmOf k).wait.map (·.since + d)) ∧
    (s.mmio 0 = true → ∀ (v : BitVec 4) (q : Nat), q < 4 → (∀ r, r < 4 → r ≠ q → bitN v.toNat r = bitN p.pwrctl.toNat (8 + r)) →
      bitN v.toNat q ≠ bitN p.pwrctl.toNat (8 + q) →
      let ok := (∀ e ∈ s.task, e.1 / 4 / 40 = q → e.2.stat = .empty) ∧ bitN p.scrub.toNat q = false
      ∃ t, exec (.pwrctlQgate v) s = .next t ∧ devOnly s t ∧
        (ok → pwrOnly s t [8 + q] s.pwrBusy false ∧ bitN t.dev.pf0.pwrctl.toNat (8 + q) = bitN v.toNat q) ∧
        (¬ ok → pwrOnly s t [] s.pwrBusy true)) ∧
    (s.mmio 0 = true → ∀ (v : BitVec 8) (k : Nat), k < 8 → (∀ j, j < 8 → j ≠ k → bitN v.toNat j = bitN p.pwrctl.toNat (16 + j)) →
      bitN v.toNat k ≠ bitN p.pwrctl.toNat (16 + k) →
      ∃ t, exec (.pwrctlSref v) s = .next t ∧ devOnly s t ∧ (∀ j, j ≠ k → t.stackOf j = s.stackOf j) ∧
        (bitN p.pwrctl.toNat (8 + k / 2) = false → pwrOnly s t [] s.pwrBusy true ∧ t.stackOf k = s.stackOf k) ∧
        (bitN p.pwrctl.toNat (8 + k / 2) = true → pwrOnly s t [16 + k] t.pwrBusy false ∧ bitN t.dev.pf0.pwrctl.toNat (16 + k) = bitN v.toNat k ∧
          t.stackOf k = { s.stackOf k with sref := bitN v.toNat k, srefX := !bitN v.toNat k } ∧ (bitN v.toNat k = false → t.pwrBusy = true))) ∧
    (∀ k, (s.stackOf k).srefX = true → ∃ t, exec (.srefExitComplete k) s = .next t ∧ devOnly s t ∧ t.stackOf k = { s.stackOf k with srefX := false } ∧
      pwrOnly s t [] t.pwrBusy (bitN p.pwrctl.toNat 33)) ∧
    (let ok := (∀ i, (8 ≤ i ∧ i < 12) ∨ (16 ≤ i ∧ i < 24) → bitN p.pwrctl.toNat i = true);
      (p.ready = false → exec .pmcsrD3hot s = .next { s with resp := .retry }) ∧
      (p.ready = true → ∃ t, exec .pmcsrD3hot s = .next t ∧ devOnly s t ∧ (ok → t.dev.pf0.d3hot = true ∧ pwrOnly s t [] s.pwrBusy false) ∧
        (¬ ok → t.dev.pf0.d3hot = p.d3hot ∧ pwrOnly s t [] s.pwrBusy true))) ∧
    (∀ j : BitVec 16, (j < p.jtrip → ∃ t, exec (.junctionTrip j) s = .next t ∧ t = { s with free := t.free, dev := { s.dev with pf0 := { p with jmax := j, smax := t.dev.pf0.smax } } }) ∧
      (p.jtrip ≤ j → ∃ t, exec (.junctionTrip j) s = .next t ∧ t.dev.pf0.trip = true ∧ t.dev.pf0.jmax = j ∧ machineChecked s t 6 0xFF 2 0xFF ∧
        (t.sched = [] → step t = .fault .clocksStopped))) ∧
    ∀ (f off size : Nat) (v : BitVec 64), f < 5 → 1 ≤ size → size ≤ 8 →
      let l : Loc := ⟨.dev f, off⟩
      let opens := s.mmio f = true ∧ off + size ≤ s.partSize f ∧ off + size ≤ barSize (s.funOf f) ∧ s.asleep l = false ∧ ∀ q ∈ s.quarters f, bitN p.scrub.toNat q = false
      exec (.bar2Access f .atomic off size v) s = .next { s with resp := .unsupported } ∧
      (opens → (∃ t, exec (.bar2Access f .read off size v) s = .next t ∧
          t = { s with dev := { s.dev with ports := t.dev.ports, hbm := t.dev.hbm }, resp := .data (ofN (readN s.mem (memKey l) size)) }) ∧
        (s.poisoned (memKey l) size = false → s.ckHold (memKey l) = false → ∃ t, exec (.bar2Access f .write off size v) s = .next t ∧
          readN t.mem (memKey l) size = v.toNat % 2^(8 * size) ∧ (∀ a, a < memKey l ∨ memKey l + size ≤ a → readB t.mem a = readB s.mem a) ∧
          t = { s with mem := t.mem, dirty := t.dirty, dev := { s.dev with ports := t.dev.ports, hbm := t.dev.hbm }, resp := .ok, stall := [] })) ∧
      (¬ opens → exec (.bar2Access f .read off size v) s = .next { s with resp := .data (ofN (2^(8 * size) - 1)) } ∧
        (s.ckHold (memKey l) = false → exec (.bar2Access f .write off size v) s = .next { s with resp := .ok }))

namespace Sys2Proof.Claim
/-- A partition's interface is unlocked again, without keys, epoch or replay; its quarters are clean and its memory is zero (R314, R319). -/
def stopped (s t : State) (f : Nat) : Prop :=
  (t.funOf f).tdisp = .unlocked ∧ (t.funOf f).epoch = none ∧ (t.funOf f).replay = none ∧
    (noTasks s f → (t.funOf f).ide = [] ∧ (t.funOf f).balIn = none ∧ (t.funOf f).balOut = none ∧ (∀ a, a / 2^64 = f → readB t.mem a = 0) ∧
      (∀ q ∈ s.quarters f, scrubbed t q) ∧ ∀ c, c < 64 → s.ownerC c = f → (t.ctxOf c).ckey = none)

/-- The status of a debug-unlock token, by the first test that fails (R323, R324); the nonce is tested before the lifecycle code (the
model's reading of the worked unlock, assumption 66). -/
def unlockStatus (s : State) (tok : List Byte) : Nat :=
  let c := s.dev.sec
  if tok.length ≠ 160 ∨ tokFld tok 0 4 ≠ 0x55474244 ∨ tokFld tok 4 2 ≠ 1 ∨ ¬ (1 ≤ tokFld tok 6 1 ∧ tokFld tok 6 1 ≤ 3) ∨ tokFld tok 20 12 ≠ 0 then 2
  else if tokFld tok 8 12 ≠ c.devid.toNat then 3
  else if c.nonce ≠ some (BitVec.ofNat 256 (tokFld tok 32 32)) then 5
  else if c.life = .retired ∨ tokFld tok 7 1 ≠ lifeCode c.life then 4
  else if Config.sigOk tok = false then 6
  else if c.nodbg = true then 7
  else 1
end Sys2Proof.Claim

/-- R317, R319 to R324, R356, R377: the TDISP requests move an interface along its states, each refused in any other; a write to a
frozen item discards it, goes to ERROR and takes the keys. STOP and a function's reset scrub. Keys are set and cleared by name. A token
that fails a test has that test's status, and its nonce is used up; one that passes scrubs every quarter, wipes keys, opens the port and
extends measurement 7. PERST# leaves the reset state, beside the fuses and memory elsewhere, with bring-up begun. A PARTMAP write that
would take a quarter from a locked owner is such a write. The model's choices: PERST# zeroes device memory and keeps host and peer memory
(assumption 46), FROZEN_ITEM_WRITE does nothing outside a lock (assumptions 16 and 50), and scrubs are done at once (assumption 43). -/
def Obligations.DeviceSecured : Prop :=
  (∀ (f : Nat) (s : State), 1 ≤ f → f ≤ 4 →
    let x := s.funOf f
    let refuses (i : Instr) : Prop := exec i s = .next { s with resp := .refused }
    let ready := x.tdisp = .unlocked ∧ s.quarters f ≠ [] ∧ s.hasWork f = false ∧ s.dev.sec.life ≠ .debugUnlocked
    (ready → ∃ t n, exec (.lockInterfaceRequest f) s = .next t ∧ t.resp = .nonce n ∧ t.funOf f = { x with tdisp := .locked, nonce := n } ∧
      t.mem = s.mem ∧ ∀ g, g ≠ f → t.funOf g = s.funOf g) ∧
    (¬ ready → refuses (.lockInterfaceRequest f)) ∧
    (x.tdisp = .locked → ∃ t b, exec (.getDeviceInterfaceReport f) s = .next t ∧ t = { s with resp := .report b, stall := [] } ∧ b.length = 80 ∧
      let v := pack 8 (b.map (·.toNat))
      (∀ q, q < 4 → bitN v q = decide (s.ownerQ q = f)) ∧ (∀ c, c < 64 → bitN v (64 + c) = decide (s.ownerC c = f)) ∧
        bits v 320 64 = x.cktgt.toNat ∧ bits v 384 256 = x.nonce.toNat) ∧
    (x.tdisp ≠ .locked → refuses (.getDeviceInterfaceReport f)) ∧
    (∀ n, (x.tdisp = .locked ∧ x.nonce = n → ∃ t, exec (.startInterfaceRequest f n) s = .next t ∧ t.funOf f = { x with tdisp := .run } ∧
        t = { s with dev := { s.dev with funs := t.dev.funs }, resp := .ok, stall := [] }) ∧
      (¬ (x.tdisp = .locked ∧ x.nonce = n) → refuses (.startInterfaceRequest f n))) ∧
    (x.tdisp = .run ∨ x.tdisp = .error → ∃ t, exec (.stopInterfaceRequest f) s = .next t ∧ t.resp = .ok ∧ stopped s t f) ∧
    (x.tdisp = .unlocked ∨ x.tdisp = .locked → refuses (.stopInterfaceRequest f)) ∧
    ∃ t, exec (.vfFlr f) s = .next t ∧ stopped s t f) ∧
  (∀ s : State, ∃ t, exec .pf0Flr s = .next t ∧ (t.funOf 4).tdisp = .unlocked ∧ ((∀ f, f < 5 → noTasks s f) →
    (∀ f, f < 5 → (t.funOf f).tdisp = .unlocked ∧ (t.funOf f).ide = []) ∧ (∀ q, q < 4 → scrubbed t q) ∧ ∀ a, a / 2^64 < 5 ∨ a / 2^64 = 7 → readB t.mem a = 0)) ∧
  (∀ (f : Nat) (s : State),
    (¬ isLocked s f → exec (.frozenItemWrite f) s = .next s) ∧
    (isLocked s f → f < 5 → ∃ t, exec (.frozenItemWrite f) s = .next t ∧ (t.funOf f).tdisp = .error ∧
      (noTasks s f → keyless s t f { s.funOf f with tdisp := .error, fqpend := [], epoch := none, replay := none } ∧ t.mem = s.mem ∧ t.obj = s.obj ∧ t.task = s.task) ∧
      (∀ c k, oneCore s c k → let w := s.taskOf (4 * c + k)
        s.task = [(4 * c + k, w)] → s.ownerC w.ctx = f → w.ctx < 64 → w.stat = .run → bitN (s.ctxOf w.ctx).dumpctl.toNat 1 = false →
        (∀ n ∈ w.phys, (s.strmOf (8 * c + n)).mq = []) → t.taskOf (4 * c + k) = {} ∧ ∀ n ∈ w.phys, (t.strmOf (8 * c + n)).run = .absent) ∧
      (∀ (v : BitVec 32) (q : Nat), s.mmio 0 = true → q < 4 → s.ownerQ q = f → bits v.toNat (4 * q) 3 ≠ f →
        (∀ r, r < 4 → r ≠ q → bits v.toNat (4 * r) 3 = s.ownerQ r) →
        ∃ u, exec (.partmapWrite v) s = .next u ∧ (u.funOf f).tdisp = .error ∧ u.dev.pf0.pmerr = true ∧ u.dev.pf0.partmap = s.dev.pf0.partmap ∧
          (noTasks s f → keyless s u f { s.funOf f with tdisp := .error, fqpend := [], epoch := none, replay := none } ∧ u.mem = s.mem ∧
            u.obj = s.obj ∧ u.task = s.task)) ∧
      ∀ v : BitVec 64, s.mmio 0 = true → s.dev.pf0.ready = true → exec (.cktgtWrite f v) s = .next t ∧ (∀ i, i < 128 → exec (.registerWrite f (.msix i) v) s = .next t) ∧
        (∀ i, i < 3 → exec (.registerWrite f (.bar i) v) s = .next t) ∧
        (∀ q, q < 64 → s.sqFun q = f → exec (.registerWrite f (.sqbase q) v) s = .next t) ∧
        ∀ c, c < 64 → s.ownerC c = f → exec (.ctxrootWrite f c v) s = .next t ∧ exec (.ctxbindWrite c v) s = .next t)) ∧
  (∀ (f : Nat) (s : State),
    let x := s.funOf f
    let does (i : Instr) (ok : Prop) (y : Func) : Prop :=
      (ok → ∃ t, exec i s = .next t ∧ t.funOf f = y ∧ t = { s with dev := { s.dev with funs := t.dev.funs }, resp := .ok } ∧ ∀ g, g ≠ f → t.funOf g = s.funOf g) ∧
        (¬ ok → exec i s = .next { s with resp := .refused })
    (∀ n key, does (.keyProg f n key) (f < 5 ∧ n < 2) { x with ide := mset x.ide n key }) ∧
    (∀ n, does (.kSetGo f n) (f < 5 ∧ ∃ e ∈ x.ide, e.1 = n) { x with ideGo := mput false x.ideGo n true }) ∧
    (∀ n, does (.kSetStop f n) (f < 5 ∧ n < 2) { x with ide := mdel x.ide n, ideGo := mput false x.ideGo n false }) ∧
    (∀ key, does (.keyset f (.balua true) key) (f < 5) { x with balOut := some key } ∧ does (.keyset f (.balua false) key) (f < 5) { x with balIn := some key }) ∧
    ∀ key c, (f < 5 → c < 64 → s.ownerC c = f → ∃ t, exec (.keyset f (.ckpt c) key) s = .next t ∧ t.resp = .ok ∧
        t.ctxOf c = { s.ctxOf c with ckey := some key } ∧ ∀ d, d ≠ c → t.ctxOf d = s.ctxOf d) ∧
      (s.ownerC c ≠ f → exec (.keyset f (.ckpt c) key) s = .next { s with resp := .refused })) ∧
  ∀ s : State,
    let c := s.dev.sec
    (∃ t n, exec .getDebugNonce s = .next t ∧ t = { s with dev := { s.dev with sec := { c with nonce := some n } }, resp := .nonce n, free := t.free }) ∧
    (∀ tok, unlockStatus s tok ≠ 1 → exec (.debugUnlock tok) s =
      .next { s with dev := { s.dev with sec := { c with nonce := none } }, resp := .status (unlockStatus s tok) }) ∧
    (∀ tok, unlockStatus s tok = 1 → ∃ t, exec (.debugUnlock tok) s = .next t ∧ t.resp = .status 1 ∧ t.dev.sec.life = .debugUnlocked ∧
      t.dev.sec.nonce = none ∧ t.dev.sec.salend = tokFld tok 6 1 ∧ (∀ q, q < 4 → scrubbed t q) ∧ (∀ k, k < 640 → t.taskOf k = {}) ∧
      ((∀ f, f < 5 → noTasks s f) → (∀ a, a / 2^64 < 5 ∨ a / 2^64 = 7 → readB t.mem a = 0) ∧ (∀ a, 8 ≤ a / 2^64 → readB t.mem a = readB s.mem a) ∧
        t.dev.sec.m7 = Config.sha384 (bytesOf 48 c.m7.toNat ++ bytesOf 48 (Config.sha384 (tok.take 64)).toNat) ∧
        ∀ f, f < 5 → (t.funOf f).tdisp = (if (s.funOf f).tdisp = .unlocked then .unlocked else .error) ∧ (t.funOf f).ide = [] ∧
          (t.funOf f).balIn = none ∧ (t.funOf f).balOut = none)) ∧
    (∃ t b, exec .getMeasurements s = .next t ∧ t = { s with resp := .report b } ∧ b.length = 384 ∧ tokFld b 336 48 = c.m7.toNat) ∧
    (∃ t, exec .perstDeassert s = .next t ∧ (∀ a, readB t.mem a = if a < 8 * 2^64 then 0 else readB s.mem a) ∧
      t = { State.reset with mem := t.mem, fresh := t.fresh, free := t.free, sched := s.sched
                             dev := { State.reset.dev with sec := { life := c.fuse, fuse := c.fuse, devid := c.devid, nodbg := c.nodbg }
                                                           pf0 := { State.reset.dev.pf0 with boot := true } } }) ∧
    ∀ ok, exec (.bringupComplete ok) s = .next (if s.dev.pf0.boot = true then
      { s with dev := { s.dev with pf0 := { s.dev.pf0 with boot := false, ready := ok, failed := !ok } } } else s)

namespace Sys2Proof.Claim
/-- An ingress port accepts a request flit (R314, R318, R367, R374). -/
def admitted (s : State) (fl : Flit) : Prop :=
  let own := fl.ten.toNat
  s.dev.pf0.domain ≠ 0 ∧ fl.dst.toNat = bits s.dev.pf0.domain.toNat 0 10 ∧ own < 5 ∧ s.quarters own ≠ [] ∧
    (∃ key, (s.funOf own).balIn = some key ∧ fl.tag = flitTag fl key) ∧ (s.funOf own).balOut ≠ none ∧
    bits s.dev.pf0.domain.toNat 16 10 ≤ fl.src.toNat ∧ fl.src.toNat ≤ bits s.dev.pf0.domain.toNat 32 10 ∧
    (∀ q ∈ s.quarters own, bitN s.dev.pf0.scrub.toNat q = false) ∧
    (fl.typ = 7 → (s.stackOf (bits fl.addr.toNat 8 3)).sref = false ∧ (s.stackOf (bits fl.addr.toNat 8 3)).srefX = false) ∧
    (fl.typ ≠ 7 → ∀ i, i < max 1 fl.size.toNat → s.asleep ⟨.dev own, fl.addr.toNat + i⟩ = false)

/-- Only ports and their turn, and what has been answered, differ, and streams that may try again. -/
def portsOnly (s t : State) : Prop := t = { s with dev := { s.dev with ports := t.dev.ports, rrPort := t.dev.rrPort, txids := t.dev.txids }, resp := t.resp, stall := t.stall }

/-- The level at which the debug port is open (R324). -/
def openAt (s : State) : Nat := if s.dev.sec.life = .manufacture then 3 else s.dev.sec.salend

/-- A port has sent what waited for room in its replay buffer, as far as there was room (R364): `y` comes of `x`. -/
def fedBy (x y : Port) : Prop :=
  y = { x with out := y.out, seq := y.seq, sent := y.sent, cSent := y.cSent, unack := y.unack } ∧
    ∃ fed new, x.out = fed ++ y.out ∧ y.sent = x.sent ++ new ∧ new.length = fed.length ∧ y.cSent = x.cSent + fed.length ∧
      (∀ p ∈ fed.zip new, p.2 = { p.1.fl with lseq := p.2.lseq, tag := p.2.tag, crc := flitCrc p.2 }) ∧ (y.out = [] ∨ 256 ≤ y.sent.length)

/-- A link acknowledgement at a port (R364): a positive one takes the flits up to the one it names out of the replay buffer, a
negative one those before it, and sends the rest again; what waits for room follows. -/
def linkAcked (x y : Port) (fl : Flit) : Prop :=
  ∀ pre g post, x.sent = pre ++ g :: post → g.lseq.toNat = fl.addr.toNat % 4096 → (∀ z ∈ pre, z.lseq.toNat ≠ fl.addr.toNat % 4096) →
    (fl.op = 0 → fedBy { x with sent := post, fails := 0, cRecv := x.cRecv + 1 } y) ∧
    (fl.op ≠ 0 → fl.addr.toNat % 4096 ≠ x.seq → fedBy { x with
      sent := g :: post, fails := if pre = [] then x.fails + 1 else 1, cSent := x.cSent + (post.length + 1), cRetr := x.cRetr + 1
      cRecv := x.cRecv + 1 } y)

/-- The link acknowledgement that a port sends on a flit (R363, R364): positive or negative, of a link sequence number. -/
def acks (a fl : Flit) (bad : Bool) (n : Nat) : Prop :=
  a.typ = 8 ∧ a.dst = fl.src ∧ a.op = (if bad then 1 else 0) ∧ a.addr.toNat = n % 4096 ∧ a.tag = 0 ∧ a.crc = flitCrc a
end Sys2Proof.Claim

/-- R91, R325, R363 to R368: a good flit in sequence is taken once and acknowledged, a request to wait at its port and a response to end
its request, and any other draws a negative acknowledgement. A port with eight failed retries (nine sends) goes on with two lanes or goes down; a
calibration restores it; what a down port had not seen acknowledged goes out again, each request on the port that its path then has. The oldest request at a port, if it is
admitted and no duplicate, acts on its partition's memory, and on no other byte, and its response goes back; one that is not
admitted is refused. Salend does at each level what that level allows, and refuses the rest. Firmware placed on a free stream runs there
in firmware mode. The model's choices: the fields of DATA, the operation codes, what a link acknowledgement names and the CRC
(assumption 62), bits [2:0] of a placed PC as 0 (assumption 21), and that Salend's stops need no EN (assumption 45). -/
def Obligations.LinksAndPorts : Prop :=
  (∀ (k : Nat) (s : State), k < 18 →
    let x := s.portOf k
    (∀ (fl : Flit) (good : Bool), x.up = true → ∃ t, exec (.linkFlitReceive k fl good) s = .next t ∧
      (good = true → fl.crc = flitCrc fl → fl.typ = 8 → portsOnly s t ∧ linkAcked x (t.portOf k) fl) ∧
      (good = true → fl.crc = flitCrc fl → fl.typ ≠ 8 → fl.lseq.toNat % 4096 = x.exp → (t.portOf k).exp = (x.exp + 1) % 4096 ∧ (∃ a, (t.portOf k).ack = some a ∧ acks a fl false x.exp) ∧
        (t.portOf k).cRecv = x.cRecv + 1 ∧
        (fl.typ = 3 ∨ fl.typ = 5 ∨ fl.typ = 9 → ∀ j, (t.portOf j).unack = (s.portOf j).unack.filter (fun g => g.fl.txid != fl.txid) ∧
          (t.portOf j).redo = (s.portOf j).redo.filter (fun g => g.fl.txid != fl.txid)) ∧
        (fl.typ ≠ 3 → fl.typ ≠ 5 → fl.typ ≠ 9 → portsOnly s t ∧ (t.portOf k).inq = x.inq ++ [fl])) ∧
      (good = false ∨ fl.crc ≠ flitCrc fl ∨ (fl.typ ≠ 8 ∧ fl.lseq.toNat % 4096 ≠ x.exp) → portsOnly s t ∧
        ∃ a, t.portOf k = { x with ack := some a, cRetr := x.cRetr + 1 } ∧ acks a fl true x.exp)) ∧
    (∀ two, x.fails < 9 → exec (.portRetrain k two) s = .next s) ∧
    (∀ two, x.up = true → 9 ≤ x.fails → ∃ t, exec (.portRetrain k two) s = .next t ∧ (∀ j, j ≠ k → t.portOf j = s.portOf j) ∧
      (two = true → portsOnly s t ∧ t.portOf k = { x with lanes := 2, fails := 0 }) ∧
      (two = false → t.portOf k = { x with
          up := false, fails := 0, redo := x.redo ++ x.unack ++ x.out.filter (·.req), unack := [], sent := [], out := [] } ∧ t.mem = s.mem ∧ t.obj = s.obj ∧ t.strm = s.strm)) ∧
    (∃ t, exec (.laneRestore k) s = .next t ∧ portsOnly s t ∧ (∀ j, j ≠ k → t.portOf j = s.portOf j) ∧ t.portOf k = { x with up := true, lanes := 4 }) ∧
    (x.redo ≠ [] → (∃ j, j < 18 ∧ (s.portOf j).up = true) → ∃ t, exec (.e2eResend k) s = .next t ∧ portsOnly s t ∧
      (t.portOf k).redo = [] ∧ (∀ j, (s.portOf j).unack <+: (t.portOf j).unack) ∧
      ∀ y ∈ x.redo, y.req = true → ∃ j g, j < 18 ∧ (s.portOf j).up = true ∧ g ∈ (t.portOf j).out ++ (t.portOf j).unack ∧
        g = { y with fl := { y.fl with lseq := g.fl.lseq, crc := g.fl.crc, tag := g.fl.tag } } ∧
        ∀ c m p, y.path = some (c, m) → p < 18 → (s.portOf p).up = true →
          Config.portHash c m y.fl.dst.toNat j ≤ Config.portHash c m y.fl.dst.toNat p)) ∧
  (∀ (k : Nat) (fl : Flit) (q : List Flit) (s : State), k < 18 → (s.portOf k).up = true → (s.portOf k).sent.length < 256 →
    (s.portOf k).inq = fl :: q → (s.portOf k).out = [] → (∀ g ∈ q, g.src = fl.src) → flitHeld s fl = false →
    let own := fl.ten.toNat
    let n := fl.size.toNat
    let a := memKey ⟨.dev own, fl.addr.toNat⟩
    let old := readN s.mem a n
    ∃ t z, exec (.ingressRequest k fl) s = .next t ∧ (t.portOf k).inq = q ∧ (t.portOf k).sent = (s.portOf k).sent ++ [z] ∧ z.dst = fl.src ∧
      z.txid = fl.txid ∧ z.crc = flitCrc z ∧ t.obj = s.obj ∧ t.task = s.task ∧ t.strm = s.strm ∧
      (¬ admitted s fl → z.typ = 9 ∧ z.op = 1 ∧ portsOnly s t ∧ t.dev.txids = s.dev.txids) ∧
      (admitted s fl → (fl.src.toNat, fl.txid.toNat) ∈ s.dev.txids → z.typ = 9 ∧ z.op = 0 ∧ portsOnly s t ∧ t.dev.txids = s.dev.txids) ∧
      (admitted s fl → (fl.src.toNat, fl.txid.toNat) ∉ s.dev.txids →
        let w := 8 * n
        let inside := 1 ≤ n ∧ n ≤ 200 ∧ fl.addr.toNat + n ≤ s.partSize own ∧ s.poisoned a n = false
        (fl.src.toNat, fl.txid.toNat) ∈ t.dev.txids ∧ (∀ b, b < a ∨ a + n ≤ b → readB t.mem b = readB s.mem b) ∧
        (fl.typ = 1 → inside → z.typ = 9 ∧ z.op = 0 ∧ readN t.mem a n = fl.data.toNat % 2^w) ∧
        (fl.typ = 2 → inside → z.typ = 3 ∧ z.data.toNat = old ∧ t.mem = s.mem) ∧
        (fl.typ = 4 → inside → n = 4 ∨ n = 8 → fl.addr.toNat % n = 0 → fl.op.toNat ≤ 10 → (fl.op.toNat = 9 → n = 4) →
          z.typ = 5 ∧ z.data.toNat = old ∧ readN t.mem a n = if fl.op = 10 then (if old = fl.cmp.toNat % 2^w then fl.data.toNat % 2^w else old)
            else amoNew (([.add, .and, .or, .xor, .min, .max, .minn, .maxn, .xchg, .fadd] : List AmoOp).getD fl.op.toNat .add) w old (fl.data.toNat % 2^w) % 2^w) ∧
        (fl.typ = 7 → bits fl.addr.toNat 8 3 ∈ s.stacksOf own → z.typ = 9 ∧ z.op = 0 ∧ t.mem = s.mem ∧
          ∃ u, exec (.triggerPacketArrival (bits fl.addr.toNat 8 3) (fl.addr.toNat % 256)) s = .next u ∧
            t.stackOf (bits fl.addr.toNat 8 3) = u.stackOf (bits fl.addr.toNat 8 3)))) ∧
  (∀ (c n : Nat) (pc : BitVec 64) (s : State), ∃ t, exec (.firmwarePlacement c n pc) s = .next t ∧ t = { s with strm := t.strm, stall := [] } ∧
    (c < 160 → n < 8 → (s.strmOf (8 * c + n)).run = .absent → t.strmOf (8 * c + n) = { run := .run, mode := .firmware, pc := pc &&& 0xFFFFFFFFFFFFFFF8
                                                                                       nextIss := s.now + 1 }) ∧
    (160 ≤ c ∨ 8 ≤ n ∨ (s.strmOf (8 * c + n)).run ≠ .absent → t.strm = s.strm)) ∧
  ∀ s : State,
    let does (lvl : Nat) (x : Salend) (p : State → Prop) : Prop := (lvl ≤ openAt s → ∃ t, exec (.salendCommand x) s = .next t ∧ p t) ∧
      (openAt s < lvl → exec (.salendCommand x) s = .next { s with resp := .refused })
    does 1 .readTelemetry (fun t => ∃ b, t.resp = .report b ∧ b.length = 11936 ∧ t.mem = s.mem) ∧
    (∀ c, c < 160 → does 2 (.stopCore c) (fun t => t = { s with core := t.core, stall := [] } ∧ t.coreOf c = { s.coreOf c with hold := true } ∧
      ∀ d, d ≠ c → t.coreOf d = s.coreOf d) ∧
      does 2 (.resumeCore c) fun t => t.coreOf c = { s.coreOf c with hold := false } ∧ t.mem = s.mem ∧ t.obj = s.obj ∧
        ∀ n, n < 8 → (s.ctxOf (s.taskAt (8 * c + n)).ctx).dbgStop = false → (t.strmOf (8 * c + n)).dstop = false ∧
          (t.strmOf (8 * c + n)).pc = (s.strmOf (8 * c + n)).pc) ∧
    (∀ ctx, does 2 (.stopContext ctx) fun t => ctxOnly s t ctx { s.ctxOf ctx with dbgStop := true }) ∧
    (∀ ctx, does 2 (.resumeContext ctx) fun t => t.ctxOf ctx = { s.ctxOf ctx with dbgStop := false, force := false, dbgctl := (s.ctxOf ctx).dbgctl &&& ~~~0x10 }) ∧
    (∀ o a, a < s.partSize o → does 2 (.readMem ⟨.dev o, a⟩) fun t => t = { s with
      dev := { s.dev with ports := t.dev.ports, hbm := t.dev.hbm }, resp := .data ((readB s.mem (memKey ⟨.dev o, a⟩)).setWidth 64), stall := [] }) ∧
    (∀ o a b, a < s.partSize o → does 2 (.writeMem ⟨.dev o, a⟩ b) fun t => readB t.mem (memKey ⟨.dev o, a⟩) = b ∧ (∀ j, j ≠ memKey ⟨.dev o, a⟩ →
      readB t.mem j = readB s.mem j) ∧ t.obj = s.obj) ∧
    (∀ c spc i, c < 160 → i < 256 → does 2 (.readChip c (.front spc) i) fun t => ∃ b, t = { s with resp := .report b, stall := [] } ∧
      pack 8 (b.map (·.toNat)) = objVal s (okey c spc i) % 2^(8 * objBytes spc)) ∧
    (∀ c spc i v, c < 160 → i < 256 → does 2 (.writeChip c (.front spc) i v) fun t => objVal t (okey c spc i) = v % 2^(8 * objBytes spc) ∧ t.mem = s.mem ∧
      ∀ j, j ≠ okey c spc i → objVal t j = objVal s j) ∧
    does 3 .haltControl (fun t => t = { s with ctl := { s.ctl with halt := true }, stall := [] }) ∧
    ∀ c n pc, does 3 (.place c n pc) fun t => exec (.firmwarePlacement c n pc) s = .next t

namespace Sys2Proof.Claim
/-- First word, second word (0 where there is none) and instruction of lines that the spec prints with their encodings. -/
def printed : List (Nat × Nat × Instr) :=
  [(0x3000000000000000, 0, .nop { gap := 3 }), (0x0000450000000004, 0, .rdcs {} 10 .tid), (0x00004A0000000006, 0, .rdcs {} 20 .finfo),
   (0x0000800000002004, 0, .setfpc {} 0x2004), (0x0008018210000000, 0, .add {} 3 1 2), (0x0010451400000007, 0, .andi {} 10 10 7),
   (0x001101803F800000, 0, .li {} 3 0x3F800000), (0x0012E80807FFFFFF, 0, .cmplti {} 2 4 0x7FFFFFF), (0x00180C2F80001040, 0, .ld {} .b64 24 23 4160),
   (0x00182C2F80001040, 0, .st {} .b64 24 23 4160), (0x0018678180000000, 0, .sta {} .b64 15 0 0), (0x0018E00000FFF03F, 0, .waitc {} 63 63 0 63),
   (0x0019000000000014, 0, .fence {} .dev .ld), (0x0020060AA0420000, 0, .amo {} .add true .dev .rlx 12 5 20),
   (0x00280401FFFFFFFC, 0, .pbr {} 1 0x1FFFFFFFC), (0x00282C1E00000000, 0, .pbrg {} 3 15), (0x03A8540000000000, 0, .br { prd := 3, pn := true } 5),
   (0x0028681E00000000, 0, .brl {} 2 15), (0x4028A00000000000, 0, .tfence { sp := true }), (0x0028C00100000006, 0, .yield {} true 6),
   (0x0028E00000000000, 0, .eret {}), (0x0030180802000000, 0, .twait {} .f ⟨1, 1⟩), (0x0030380080000000, 0, .bump {} .f ⟨0, 1⟩),
   (0x0030C00000000002, 0, .barinit {} 0 2 false), (0x0038001620000080, 0, .vadd {} .f32 ⟨11, 1⟩ ⟨0, 0⟩ ⟨1, 0⟩),
   (0x8039FA0620000100, 2, .vcmp {} .lt .n32 ⟨3, 1⟩ ⟨0, 0⟩ ⟨2, 0⟩), (0x803A1A0A20200200, 0x0300000000000000, .vsel {} .n32 ⟨5, 1⟩ ⟨1, 0⟩ ⟨4, 0⟩ ⟨3, 0⟩),
   (0x003A200220000600, 0, .vbcast {} .f32 ⟨1, 1⟩ 3), (0x003A5A2800400000, 0, .vlane {} .n32 20 ⟨2, 0⟩ 0 0),
   (0x003A601820A00782, 0, .vperm {} ⟨12, 1⟩ ⟨5, 0⟩ ⟨15, 1⟩), (0x0040021221000000, 0, .vcvt {} .bf16 .f32 0 ⟨9, 1⟩ ⟨8, 0⟩),
   (0x8048420A20A00002, 0x0104000000000000, .vstatw {} 1 ⟨5, 1⟩ ⟨5, 0⟩ ⟨0, 1⟩ ⟨1, 1⟩), (0x0048601020400288, 0, .vsmerge {} ⟨8, 1⟩ ⟨2, 0⟩ ⟨5, 4⟩),
   (0x0048E00480400000, 0, .vhist {} ⟨2, 4⟩ ⟨2, 0⟩ ⟨0, 0⟩), (0x0049403C00000000, 0, .vafin {} ⟨30, 0⟩ ⟨0, 0⟩),
   (0x0050000420BF8040, 0, .vld {} .f32 ⟨2, 1⟩ ⟨5, 63⟩ 0 64), (0x0050200223C00000, 0, .vst {} ⟨1, 1⟩ 0 0 ⟨30, 0⟩),
   (0x00509A0620C00380, 0, .vscat {} .n32 ⟨3, 1⟩ ⟨6, 0⟩ ⟨7, 0⟩), (0x0050A00420200003, 0, .vldo {} ⟨2, 1⟩ ⟨1, 0⟩ 3), (0x0050E00C20000002, 0, .vqrd {} ⟨6, 1⟩ 2),
   (0x8058020020000080, 0x208F, .mma {} .bf16 ⟨0, 1⟩ ⟨0, 0⟩ ⟨1, 0⟩ ⟨15, 2, 2, false, false, 0, false⟩), (0x0058800000280002, 0, .acalloc {} 5 2),
   (0x0058B00800000000, 0, .acfree {} 1), (0x0058D00000000073, 0, .acband {} 0 3 7), (0x0059001000008000, 0, .acdrain {} .f32 0 false 0 false ⟨8, 0⟩ ⟨0, 1⟩),
   (0x0060180080080000, 0, .cp {} .f ⟨0, 1⟩ 1 0 0 false), (0x0060300804106001, 0, .cpst {} .a 2 3 ⟨1, 2⟩ 1),
   (0x8060780800180000, 0x0600000000000000, .cps {} 3 ⟨1, 0⟩ ⟨6, 0⟩), (0x806818208030E001, 0x140000003F800000, .qpost {} ⟨4, 1⟩ ⟨20, 0⟩ 6 7 1 0x3F800000),
   (0x006820C000310000, 0, .kvapp {} 6 8 ⟨24, 0⟩), (0x40700C0000000000, 0, .nextit { sp := true } 3), (0x0070200000000000, 0, .done {}),
   (0x0070400A00000000, 0, .spawn {} 5)]
end Sys2Proof.Claim

/-- R44 to R47, R52 to R66: the words that the spec prints, from every major, decode to the lines that they stand for. -/
def Obligations.PrintedWordsDecode : Prop := ∀ r ∈ printed, decodeWords r.1 r.2.1 = .ok r.2.2

/-- R44 to R66, R70: every well-formed instruction that has words decodes from its bytes, whatever follows them, with every operand
as it was, and whatever decodes is well formed and was so encoded: no bit of a word that decodes is dropped. -/
def Obligations.DecodeInvertsEncode : Prop :=
  (∀ (i : Instr) (r : List Byte), i.wf = true → encode i ≠ [] → decode (encodeBytes i ++ r) = .ok (i, r)) ∧
    ∀ (b r : List Byte) (i : Instr), decode b = .ok (i, r) → i.wf = true ∧ encode i ≠ [] ∧ b = encodeBytes i ++ r

namespace Sys2Proof.Claim
/-- No stream and no operation stands in a counted wait. -/
def noWait (s : State) : Prop := (∀ e ∈ s.strm, e.2.wait = none) ∧ ∀ o ∈ s.ops, o.wait = none

/-- It is a stream's turn, and in state `v` its instruction's words have been fetched (R46, R290); nothing stops it before. -/
def fetched (s : State) (c n : Nat) (r : List Act) (w x : Nat) (v : State) : Prop :=
  n < 8 ∧ s.sched = .issue c n :: r ∧ s.dev.pf0.trip = false ∧
    let k := 8 * c + n
    let s0 := { s with sched := r }
    let pc := (s.strmOf k).pc
    let ctx := (s.taskAt k).ctx
    s0.canIssue k = true ∧ s0.turn k = true ∧ stopsHere (select s0 k) (bitN w 62) = false ∧
      ∃ l e u, translate (select s0 k) c ctx pc.toNat .x = .ok l e u ∧ readN u.mem (memKey l) 8 = w ∧ (bitN w 63 = false → x = 0 ∧ v = u) ∧
        (bitN w 63 = true → ∃ l2 e2, translate u c ctx (pc + 8).toNat .x = .ok l2 e2 v ∧ readN v.mem (memKey l2) 8 = x)
end Sys2Proof.Claim

/-- R44 to R51, R290: a stream that may issue, whose turn it is, and whose words are fetched in this step and decode to an instruction,
executes it; around that stand its issue cycle before, and after it the sample and trace records of its context, and the trace of
waits that time has passed in, of which there are none where the context samples nothing and has no code objects and nobody waits.
An event is executed as it stands; an empty schedule takes one act; a device whose clocks the trip has stopped stands still
(R375). The model's choices: the words executed are those that memory holds at this issue (assumption 14), and a schedule that names
the next acts, with what an empty one does (assumption 1). -/
def Obligations.StepRunsDecoded : Prop :=
  ∀ (s : State),
    (∀ (c n : Nat) (r : List Act) (i : Instr) (w x : Nat) (v : State), fetched s c n r w x v → decodeWords w x = .ok i →
      (∀ t, exec i v = .next t → step s = .next (passWaits s (afterIssue w v t))) ∧
        (noWait s → bitN (s.ctxOf (s.taskAt (8 * c + n)).ctx).sampctl.toNat 0 = false → (s.ctxOf (s.taskAt (8 * c + n)).ctx).objs = [] →
          step s = exec i v)) ∧
    (∀ i r, s.sched = .ev i :: r → s.dev.pf0.trip = false → step s = told s (exec i { s with sched := r }) ∧
      (noWait s → step s = exec i { s with sched := r })) ∧
    (s.sched = [] → s.dev.pf0.trip = false → ∃ a, step s = step { s with sched := [a] }) ∧
    (∀ r, s.sched = .ev .perstDeassert :: r → ∃ t, step s = .next t ∧ t.dev.pf0.trip = false) ∧
    (s.dev.pf0.trip = true → (∀ r, s.sched ≠ .ev .perstDeassert :: r) → step s = .fault .clocksStopped)

namespace Sys2Proof.Claim
/-- The MAJ and MIN pairs that the tables of R64 to R66 list: from 0 up, but for MAJ 2. -/
def inTables (mj mn : Nat) : Bool :=
  if mj = 2 then mn < 10 || (16 ≤ mn && mn < 25) || (32 ≤ mn && mn < 36)
  else mn < ([10, 19, 0, 9, 4, 8, 10, 27, 4, 11, 8, 10, 7, 6, 4] : List Nat).getD mj 0

/-- The pairs with a long form (R64 to R68); VSDRAIN has one for option 5 alone. -/
def takesLong (mj mn w : Nat) : Bool :=
  ([(7, 3), (7, 15), (7, 16), (8, 1), (8, 2), (8, 3), (9, 2), (10, 2), (11, 0), (11, 1), (11, 2), (11, 3), (12, 2), (12, 3),
    (13, 0)] : List (Nat × Nat)).contains (mj, mn) || (mj == 9 && mn == 4 && bits w 41 3 == 5)

/-- The cause of a first word that is no instruction, in task mode, by its MAJ, MIN and L (R70): the first of tests 2 to 5 that
fails, where one of them does. -/
def firstFate (w : Nat) : Nat :=
  let mj := bits w 51 4
  let mn := bits w 45 6
  if inTables mj mn = false then 0x01
  else if bitN w 63 ≠ takesLong mj mn w then 0x13
  else if (mj = 0 ∧ (mn = 1 ∨ mn = 7 ∨ mn = 8 ∨ mn = 9)) ∨ (mj = 5 ∧ mn = 7) then 0x03
  else 0x02
end Sys2Proof.Claim

/-- R70, R71: words that are fetched and are no instruction fault precisely, whatever their guard: the task enters its handler with the
cause of the first test that fails, by MAJ, MIN and L, and nothing else has happened. The words are those that memory holds at this
issue (the model's choice, assumption 14). -/
def Obligations.IllegalWordsFault : Prop :=
  ∀ (s : State) (c n : Nat) (r : List Act) (d : DecodeError) (w x : Nat) (m : Loc) (v y : State), fetched s c n r w x v → noWait s →
    decodeWords w x = .error d →
    let s1 := select { s with sched := r } (8 * c + n)
    s1.vectorsTo m y → ∃ t, step s = .next t ∧ s1.vectors y (trapRecord s1 (firstFate w) 0 0) (memKey m) t

/-- Memory stays in its canonical form (assumption 3): addresses rise, and no byte is listed that would read so unlisted. -/
def Obligations.StepKeepsMemory : Prop := ∀ s t : State, s.memOk → step s = .next t → t.memOk

/-- R92, R95, R98, R293, R305, R313, R337, R347, R357, R358, R373, R375, R377: what reset leaves, with memory in its canonical form. -/
def Obligations.ResetState : Prop :=
  let s := State.reset
  s.memOk ∧ s.now = 0 ∧ (∀ k, (s.strmOf k).seed = 0x2545F491 ∧ (s.strmOf k).fpc = 0 ∧ (s.strmOf k).flg = 0 ∧ (s.strmOf k).run = .absent ∧
      ∀ j, j < 128 → bits (s.strmOf k).lanes.toNat (32 * j) 32 = 0x2545F491 ^^^ (j * 0x9E3779B9 % 2^32)) ∧
    (∀ k, s.taskOf k = {} ∧ s.cntOf k = {} ∧ s.barOf k = {}) ∧ (∀ q, q < 4 → s.ownerQ q = 7) ∧ s.dev.pf0.scrub = 0 ∧ s.dev.pf0.pmerr = false ∧
    (∀ q, q < 64 → s.sqFun q = 7 ∧ s.sqOf q = { base := 0, ctl := 0, head := 0, tail := 0 }) ∧
    (∀ c, (s.ctxOf c).bind = 7 ∧ (s.ctxOf c).root = 0 ∧ (s.ctxOf c).pool = 0 ∧ (s.ctxOf c).ydl = 54000 ∧ (s.ctxOf c).evb = 0 ∧ (s.ctxOf c).dbgctl = 0) ∧
    s.dev.pf0.pwrctl = 0 ∧ s.dev.pf0.jmax = 0 ∧ s.dev.pf0.smax = 0 ∧ s.dev.pf0.jtrip = 0x0690 ∧ s.dev.pf0.domain = 0 ∧ s.dev.pf0.ready = false ∧
    s.dev.pf0.failed = false ∧ (s.funOf 0).tdisp = .unlocked
end

