-- ==== Sys2Proof/Laws/Bits.lean ====
section
/-!
SUPPORT. The bit fields of Machine/Maps.lean, bit by bit.
-/
namespace Sys2Proof.Machine

theorem bitN_testBit (v i : Nat) : bitN v i = v.testBit i := by
  rw [bitN, Nat.testBit_eq_decide_div_mod_eq]
  rfl

/-- A bit of a number with a field replaced. -/
theorem testBit_setBits (v lo n x j : Nat) :
    (setBits v lo n x).testBit j = if j < lo then v.testBit j else if j < lo + n then x.testBit (j - lo) else v.testBit j := by
  have e : setBits v lo n x = 2^lo * (2^n * (v / 2^(lo + n)) + x % 2^n) + v % 2^lo := by
    unfold setBits
    rw [Nat.pow_add]; ring
  rw [e, Nat.testBit_two_pow_mul_add _ (Nat.mod_lt _ (by positivity))]
  split
  · next h => simp [Nat.testBit_mod_two_pow, h]
  · next h =>
    rw [Nat.testBit_two_pow_mul_add _ (Nat.mod_lt _ (by positivity))]
    split
    · next h2 =>
      rw [if_pos (by omega)]
      simp [Nat.testBit_mod_two_pow, h2]
    · next h2 =>
      rw [if_neg (by omega), ← Nat.shiftRight_eq_div_pow, Nat.testBit_shiftRight]
      congr 1; omega

/-- A bit of a number with a field replaced, by `bitN`. -/
theorem bitN_setBits (v lo n x j : Nat) :
    bitN (setBits v lo n x) j = if j < lo then bitN v j else if j < lo + n then bitN x (j - lo) else bitN v j := by
  simp only [bitN_testBit, testBit_setBits]

theorem testBit_bits (v lo n j : Nat) : (bits v lo n).testBit j = (decide (j < n) && v.testBit (lo + j)) := by
  unfold bits
  rw [Nat.testBit_mod_two_pow, ← Nat.shiftRight_eq_div_pow, Nat.testBit_shiftRight]

/-- A field of a number in which that field was replaced. -/
theorem bits_setBits_self (v lo n x : Nat) : bits (setBits v lo n x) lo n = x % 2^n := by
  apply Nat.eq_of_testBit_eq
  intro j
  rw [testBit_bits, testBit_setBits, Nat.testBit_mod_two_pow]
  by_cases h : j < n
  · simp [h]
  · simp [h]

/-- A field apart from the one that was replaced. -/
theorem bits_setBits_ne (v lo n x l m : Nat) (h : l + m ≤ lo ∨ lo + n ≤ l) : bits (setBits v lo n x) l m = bits v l m := by
  apply Nat.eq_of_testBit_eq
  intro j
  rw [testBit_bits, testBit_setBits, testBit_bits]
  by_cases hj : j < m
  · simp only [hj, decide_true, Bool.true_and]
    split
    · rfl
    · rw [if_neg (by omega)]
  · simp [hj]

theorem setBits_lt {v lo n x m : Nat} (hv : v < 2^m) (h : lo + n ≤ m) : setBits v lo n x < 2^m := by
  apply Nat.lt_pow_two_of_testBit
  intro i hi
  rw [testBit_setBits, if_neg (by omega), if_neg (by omega)]
  exact Nat.testBit_lt_two_pow (lt_of_lt_of_le hv (Nat.pow_le_pow_right (by omega) hi))

end Sys2Proof.Machine
end

