-- ==== Sys2Proof/Laws/Encode.lean ====
section
/-!
SUPPORT. The fields of encoded words: what each field position of a format reads (R47, R52, R58), and that a word decodes to the
instruction whose fields it holds.
-/
namespace Sys2Proof

/-! ### Numbers in fields -/

/-- A field, as a number. -/
theorem F_eq {w lo n : Nat} {v : BitVec n} (h : w / 2^lo % 2^n = v.toNat) : F w lo n = v := by
  apply BitVec.eq_of_toNat_eq; rw [F, BitVec.toNat_ofNat, h]

/-- A bit, as a number. -/
theorem fBit_eq {w i : Nat} {b : Bool} (h : w / 2^i % 2 = b.toNat) : fBit w i = b := by
  rw [fBit, h]; cases b <;> rfl

/-- A concatenation as a number. -/
theorem append_toNat {n m : Nat} (x : BitVec n) (y : BitVec m) : (x ++ y).toNat = x.toNat * 2^m + y.toNat := by
  rw [BitVec.toNat_append, ← Nat.shiftLeft_add_eq_or_of_lt y.isLt, Nat.shiftLeft_eq]

/-- A field that stands below a multiple of its end. -/
theorem F_low (a b : Nat) {m lo n : Nat} (h : lo + n ≤ m) : F (a * 2^m + b) lo n = F b lo n := by
  apply BitVec.eq_of_toNat_eq
  obtain ⟨d, rfl⟩ := Nat.exists_eq_add_of_le h
  have e : a * 2^(lo + n + d) + b = b + 2^lo * (2^n * (2^d * a)) := by rw [Nat.pow_add, Nat.pow_add]; ring
  simp only [F, BitVec.toNat_ofNat]
  rw [e, Nat.add_mul_div_left _ _ (by positivity), Nat.add_mul_mod_self_left]

/-- A bit that stands below a multiple. -/
theorem fBit_low (a b : Nat) {m i : Nat} (h : i < m) : fBit (a * 2^m + b) i = fBit b i := by
  obtain ⟨d, rfl⟩ := Nat.exists_eq_add_of_le (Nat.succ_le_of_lt h)
  have e : a * 2^(i.succ + d) + b = b + 2^i * (2 * (2^d * a)) := by rw [Nat.pow_add, Nat.pow_succ]; ring
  simp only [fBit]
  rw [e, Nat.add_mul_div_left _ _ (by positivity), Nat.add_mul_mod_self_left]

/-- The header stands above the operand fields. -/
theorem eHdr_eq (h : Header) (l : Bool) (maj min : Nat) :
    eHdr h l maj min = (l.toNat * 2^18 + h.sp.toNat * 2^17 + h.gap.toNat * 2^15 + h.sw.toNat * 2^14 + h.prd.toNat * 2^11
      + h.pn.toNat * 2^10 + maj * 2^6 + min) * 2^45 := by
  unfold eHdr; ring

/-- What decoding reads of a first word: the header, and the operand fields as in the operand part. -/
structure Reads (w : Nat) (h : Header) (l : Bool) (maj min ops : Nat) : Prop where
  maj : majOf w = maj
  min : minOf w = min
  hdr : fHdr w = h
  lng : fBit w 63 = l
  fld : ∀ lo n, lo + n ≤ 45 → F w lo n = F ops lo n
  bit : ∀ i, i < 45 → fBit w i = fBit ops i
  dec : w / 2^41 % 8 = ops / 2^41 % 8

theorem bool_toNat_beq (b : Bool) : (b.toNat == 1) = b := by cases b <;> rfl

theorem reads (h : Header) (l : Bool) {maj min ops : Nat} (hm : maj < 16) (hn : min < 64) (ho : ops < 2^45) :
    eHdr h l maj min + ops < 2^64 ∧ Reads (eHdr h l maj min + ops) h l maj min ops := by
  have hl := l.toNat_lt
  have h1 := h.sp.toNat_lt
  have h2 := h.gap.isLt
  have h3 := h.sw.toNat_lt
  have h4 := h.prd.isLt
  have h5 := h.pn.toNat_lt
  refine ⟨by unfold eHdr; omega, ?_, ?_, ?_, ?_, ?_, ?_, ?_⟩
  · unfold majOf eHdr; omega
  · unfold minOf eHdr; omega
  · have e1 : (eHdr h l maj min + ops) / 2^62 % 2 = h.sp.toNat := by unfold eHdr; omega
    have e2 : (eHdr h l maj min + ops) / 2^59 % 2 = h.sw.toNat := by unfold eHdr; omega
    have e3 : (eHdr h l maj min + ops) / 2^55 % 2 = h.pn.toNat := by unfold eHdr; omega
    have e4 : F (eHdr h l maj min + ops) 60 2 = h.gap := by
      apply BitVec.eq_of_toNat_eq; simp only [F, BitVec.toNat_ofNat]; unfold eHdr; omega
    have e5 : F (eHdr h l maj min + ops) 56 3 = h.prd := by
      apply BitVec.eq_of_toNat_eq; simp only [F, BitVec.toNat_ofNat]; unfold eHdr; omega
    simp only [fHdr, e4, e5, fBit, e1, e2, e3, bool_toNat_beq]
  · have e : (eHdr h l maj min + ops) / 2^63 % 2 = l.toNat := by unfold eHdr; omega
    rw [fBit, e, bool_toNat_beq]
  · intro lo n hk; rw [eHdr_eq]; exact F_low _ _ hk
  · intro i hi; rw [eHdr_eq]; exact fBit_low _ _ hi
  · unfold eHdr; omega

/-- A short word decodes to the instruction that its fields give. -/
theorem decode_short {i : Instr} {h : Header} {maj min ops : Nat} (he : encode i = short h maj min ops) (hm : maj < 16)
    (hn : min < 64) (ho : ops < 2^45) (hl : listed maj min = true)
    (hr : ∀ w x, Reads w h false maj min ops → hasLong maj min w = false ∧ raw w x = some i) (hwf : i.wf = true) (w : Word)
    (r : List Word) (e : encode i = w :: r) (x : Nat) (_ : ∀ y ∈ r.head?, x = y.toNat) : decodeWords w.toNat x = .ok i := by
  obtain ⟨lt, rd⟩ := reads h false hm hn ho
  have e2 := e
  rw [he, short, List.cons.injEq] at e2
  obtain ⟨hw, rfl⟩ := e2
  have hw : w.toNat = eHdr h false maj min + ops := by rw [← hw, BitVec.toNat_ofNat, Nat.mod_eq_of_lt lt]
  rw [← hw] at rd
  obtain ⟨h1, h2⟩ := hr _ x rd
  simp [decodeWords, rd.maj, rd.min, rd.lng, hl, h1, h2, hwf, e]

/-- A long word, with its extension, decodes to the instruction that its fields give. -/
theorem decode_long {i : Instr} {h : Header} {maj min ops ext : Nat} (he : encode i = longForm h maj min ops ext) (hm : maj < 16)
    (hn : min < 64) (ho : ops < 2^45) (hx : ext < 2^64) (hl : listed maj min = true)
    (hr : ∀ w, Reads w h true maj min ops → hasLong maj min w = true ∧ raw w ext = some i) (hwf : i.wf = true) (w : Word)
    (r : List Word) (e : encode i = w :: r) (x : Nat) (h' : ∀ y ∈ r.head?, x = y.toNat) : decodeWords w.toNat x = .ok i := by
  obtain ⟨lt, rd⟩ := reads h true hm hn ho
  have e2 := e
  rw [he, longForm, List.cons.injEq] at e2
  obtain ⟨hw, rfl⟩ := e2
  have hw : w.toNat = eHdr h true maj min + ops := by rw [← hw, BitVec.toNat_ofNat, Nat.mod_eq_of_lt lt]
  have hx' : x = ext := by rw [h' _ rfl, BitVec.toNat_ofNat, Nat.mod_eq_of_lt hx]
  subst hx'
  rw [← hw] at rd
  obtain ⟨h1, h2⟩ := hr _ rd
  simp [decodeWords, rd.maj, rd.min, rd.lng, hl, h1, h2, hwf, e]

/-! ### Format SR -/

theorem eSR_lt (gd ga gb : G) (ps : P) : eSR gd ga gb ps < 2^45 := by
  have h0 := gd.isLt
  have h1 := ga.isLt
  have h2 := gb.isLt
  have h3 := ps.isLt
  unfold eSR; omega

@[simp] theorem eSR_39_6 (gd ga gb : G) (ps : P) : F (eSR gd ga gb ps) 39 6 = gd := by
  have h0 := gd.isLt
  have h1 := ga.isLt
  have h2 := gb.isLt
  have h3 := ps.isLt
  apply BitVec.eq_of_toNat_eq; simp only [F, BitVec.toNat_ofNat]; unfold eSR; omega

@[simp] theorem eSR_33_6 (gd ga gb : G) (ps : P) : F (eSR gd ga gb ps) 33 6 = ga := by
  have h0 := gd.isLt
  have h1 := ga.isLt
  have h2 := gb.isLt
  have h3 := ps.isLt
  apply BitVec.eq_of_toNat_eq; simp only [F, BitVec.toNat_ofNat]; unfold eSR; omega

@[simp] theorem eSR_27_6 (gd ga gb : G) (ps : P) : F (eSR gd ga gb ps) 27 6 = gb := by
  have h0 := gd.isLt
  have h1 := ga.isLt
  have h2 := gb.isLt
  have h3 := ps.isLt
  apply BitVec.eq_of_toNat_eq; simp only [F, BitVec.toNat_ofNat]; unfold eSR; omega

@[simp] theorem eSR_24_3 (gd ga gb : G) (ps : P) : F (eSR gd ga gb ps) 24 3 = ps := by
  have h0 := gd.isLt
  have h1 := ga.isLt
  have h2 := gb.isLt
  have h3 := ps.isLt
  apply BitVec.eq_of_toNat_eq; simp only [F, BitVec.toNat_ofNat]; unfold eSR; omega

/-! ### Format SI -/

theorem eSI_lt (gd ga : G) (imm : BitVec 33) : eSI gd ga imm < 2^45 := by
  have h0 := gd.isLt
  have h1 := ga.isLt
  have h2 := imm.isLt
  unfold eSI; omega

@[simp] theorem eSI_39_6 (gd ga : G) (imm : BitVec 33) : F (eSI gd ga imm) 39 6 = gd := by
  have h0 := gd.isLt
  have h1 := ga.isLt
  have h2 := imm.isLt
  apply BitVec.eq_of_toNat_eq; simp only [F, BitVec.toNat_ofNat]; unfold eSI; omega

@[simp] theorem eSI_33_6 (gd ga : G) (imm : BitVec 33) : F (eSI gd ga imm) 33 6 = ga := by
  have h0 := gd.isLt
  have h1 := ga.isLt
  have h2 := imm.isLt
  apply BitVec.eq_of_toNat_eq; simp only [F, BitVec.toNat_ofNat]; unfold eSI; omega

@[simp] theorem eSI_0_33 (gd ga : G) (imm : BitVec 33) : F (eSI gd ga imm) 0 33 = imm := by
  have h0 := gd.isLt
  have h1 := ga.isLt
  have h2 := imm.isLt
  apply BitVec.eq_of_toNat_eq; simp only [F, BitVec.toNat_ofNat]; unfold eSI; omega

@[simp] theorem eSI_0_14 (gd ga : G) (imm : BitVec 33) : F (eSI gd ga imm) 0 14 = F imm.toNat 0 14 := by
  have h0 := gd.isLt
  have h1 := ga.isLt
  have h2 := imm.isLt
  apply BitVec.eq_of_toNat_eq; simp only [F, BitVec.toNat_ofNat]; unfold eSI; omega

/-! ### Format SC -/

theorem eSC_lt (pd pa : P) (ga gb : G) (imm : BitVec 27) : eSC pd pa ga gb imm < 2^45 := by
  have h0 := pd.isLt
  have h1 := pa.isLt
  have h2 := ga.isLt
  have h3 := gb.isLt
  have h4 := imm.isLt
  unfold eSC; omega

@[simp] theorem eSC_42_3 (pd pa : P) (ga gb : G) (imm : BitVec 27) : F (eSC pd pa ga gb imm) 42 3 = pd := by
  have h0 := pd.isLt
  have h1 := pa.isLt
  have h2 := ga.isLt
  have h3 := gb.isLt
  have h4 := imm.isLt
  apply BitVec.eq_of_toNat_eq; simp only [F, BitVec.toNat_ofNat]; unfold eSC; omega

@[simp] theorem eSC_39_3 (pd pa : P) (ga gb : G) (imm : BitVec 27) : F (eSC pd pa ga gb imm) 39 3 = pa := by
  have h0 := pd.isLt
  have h1 := pa.isLt
  have h2 := ga.isLt
  have h3 := gb.isLt
  have h4 := imm.isLt
  apply BitVec.eq_of_toNat_eq; simp only [F, BitVec.toNat_ofNat]; unfold eSC; omega

@[simp] theorem eSC_33_6 (pd pa : P) (ga gb : G) (imm : BitVec 27) : F (eSC pd pa ga gb imm) 33 6 = ga := by
  have h0 := pd.isLt
  have h1 := pa.isLt
  have h2 := ga.isLt
  have h3 := gb.isLt
  have h4 := imm.isLt
  apply BitVec.eq_of_toNat_eq; simp only [F, BitVec.toNat_ofNat]; unfold eSC; omega

@[simp] theorem eSC_27_6 (pd pa : P) (ga gb : G) (imm : BitVec 27) : F (eSC pd pa ga gb imm) 27 6 = gb := by
  have h0 := pd.isLt
  have h1 := pa.isLt
  have h2 := ga.isLt
  have h3 := gb.isLt
  have h4 := imm.isLt
  apply BitVec.eq_of_toNat_eq; simp only [F, BitVec.toNat_ofNat]; unfold eSC; omega

@[simp] theorem eSC_0_27 (pd pa : P) (ga gb : G) (imm : BitVec 27) : F (eSC pd pa ga gb imm) 0 27 = imm := by
  have h0 := pd.isLt
  have h1 := pa.isLt
  have h2 := ga.isLt
  have h3 := gb.isLt
  have h4 := imm.isLt
  apply BitVec.eq_of_toNat_eq; simp only [F, BitVec.toNat_ofNat]; unfold eSC; omega

/-! ### Format SP -/

theorem eSP_lt (pd pa pb : P) : eSP pd pa pb < 2^45 := by
  have h0 := pd.isLt
  have h1 := pa.isLt
  have h2 := pb.isLt
  unfold eSP; omega

@[simp] theorem eSP_42_3 (pd pa pb : P) : F (eSP pd pa pb) 42 3 = pd := by
  have h0 := pd.isLt
  have h1 := pa.isLt
  have h2 := pb.isLt
  apply BitVec.eq_of_toNat_eq; simp only [F, BitVec.toNat_ofNat]; unfold eSP; omega

@[simp] theorem eSP_39_3 (pd pa pb : P) : F (eSP pd pa pb) 39 3 = pa := by
  have h0 := pd.isLt
  have h1 := pa.isLt
  have h2 := pb.isLt
  apply BitVec.eq_of_toNat_eq; simp only [F, BitVec.toNat_ofNat]; unfold eSP; omega

@[simp] theorem eSP_36_3 (pd pa pb : P) : F (eSP pd pa pb) 36 3 = pb := by
  have h0 := pd.isLt
  have h1 := pa.isLt
  have h2 := pb.isLt
  apply BitVec.eq_of_toNat_eq; simp only [F, BitVec.toNat_ofNat]; unfold eSP; omega

/-! ### Format SM -/

theorem eSM_lt (g ga : G) (sz : BitVec 3) (disp : BitVec 30) : eSM g ga sz disp < 2^45 := by
  have h0 := g.isLt
  have h1 := ga.isLt
  have h2 := sz.isLt
  have h3 := disp.isLt
  unfold eSM; omega

@[simp] theorem eSM_39_6 (g ga : G) (sz : BitVec 3) (disp : BitVec 30) : F (eSM g ga sz disp) 39 6 = g := by
  have h0 := g.isLt
  have h1 := ga.isLt
  have h2 := sz.isLt
  have h3 := disp.isLt
  apply BitVec.eq_of_toNat_eq; simp only [F, BitVec.toNat_ofNat]; unfold eSM; omega

@[simp] theorem eSM_33_6 (g ga : G) (sz : BitVec 3) (disp : BitVec 30) : F (eSM g ga sz disp) 33 6 = ga := by
  have h0 := g.isLt
  have h1 := ga.isLt
  have h2 := sz.isLt
  have h3 := disp.isLt
  apply BitVec.eq_of_toNat_eq; simp only [F, BitVec.toNat_ofNat]; unfold eSM; omega

@[simp] theorem eSM_30_3 (g ga : G) (sz : BitVec 3) (disp : BitVec 30) : F (eSM g ga sz disp) 30 3 = sz := by
  have h0 := g.isLt
  have h1 := ga.isLt
  have h2 := sz.isLt
  have h3 := disp.isLt
  apply BitVec.eq_of_toNat_eq; simp only [F, BitVec.toNat_ofNat]; unfold eSM; omega

@[simp] theorem eSM_0_30 (g ga : G) (sz : BitVec 3) (disp : BitVec 30) : F (eSM g ga sz disp) 0 30 = disp := by
  have h0 := g.isLt
  have h1 := ga.isLt
  have h2 := sz.isLt
  have h3 := disp.isLt
  apply BitVec.eq_of_toNat_eq; simp only [F, BitVec.toNat_ofNat]; unfold eSM; omega

/-! ### Format AT -/

theorem eAT_lt (gd ga gb : G) (op : BitVec 4) (sc : BitVec 3) (ord : BitVec 2) (w : Bool) : eAT gd ga gb op sc ord w < 2^45 := by
  have h0 := gd.isLt
  have h1 := ga.isLt
  have h2 := gb.isLt
  have h3 := op.isLt
  have h4 := sc.isLt
  have h5 := ord.isLt
  have h6 := w.toNat_lt
  unfold eAT; omega

@[simp] theorem eAT_39_6 (gd ga gb : G) (op : BitVec 4) (sc : BitVec 3) (ord : BitVec 2) (w : Bool) : F (eAT gd ga gb op sc ord w) 39 6 = gd := by
  have h0 := gd.isLt
  have h1 := ga.isLt
  have h2 := gb.isLt
  have h3 := op.isLt
  have h4 := sc.isLt
  have h5 := ord.isLt
  have h6 := w.toNat_lt
  apply BitVec.eq_of_toNat_eq; simp only [F, BitVec.toNat_ofNat]; unfold eAT; omega

@[simp] theorem eAT_33_6 (gd ga gb : G) (op : BitVec 4) (sc : BitVec 3) (ord : BitVec 2) (w : Bool) : F (eAT gd ga gb op sc ord w) 33 6 = ga := by
  have h0 := gd.isLt
  have h1 := ga.isLt
  have h2 := gb.isLt
  have h3 := op.isLt
  have h4 := sc.isLt
  have h5 := ord.isLt
  have h6 := w.toNat_lt
  apply BitVec.eq_of_toNat_eq; simp only [F, BitVec.toNat_ofNat]; unfold eAT; omega

@[simp] theorem eAT_27_6 (gd ga gb : G) (op : BitVec 4) (sc : BitVec 3) (ord : BitVec 2) (w : Bool) : F (eAT gd ga gb op sc ord w) 27 6 = gb := by
  have h0 := gd.isLt
  have h1 := ga.isLt
  have h2 := gb.isLt
  have h3 := op.isLt
  have h4 := sc.isLt
  have h5 := ord.isLt
  have h6 := w.toNat_lt
  apply BitVec.eq_of_toNat_eq; simp only [F, BitVec.toNat_ofNat]; unfold eAT; omega

@[simp] theorem eAT_23_4 (gd ga gb : G) (op : BitVec 4) (sc : BitVec 3) (ord : BitVec 2) (w : Bool) : F (eAT gd ga gb op sc ord w) 23 4 = op := by
  have h0 := gd.isLt
  have h1 := ga.isLt
  have h2 := gb.isLt
  have h3 := op.isLt
  have h4 := sc.isLt
  have h5 := ord.isLt
  have h6 := w.toNat_lt
  apply BitVec.eq_of_toNat_eq; simp only [F, BitVec.toNat_ofNat]; unfold eAT; omega

@[simp] theorem eAT_20_3 (gd ga gb : G) (op : BitVec 4) (sc : BitVec 3) (ord : BitVec 2) (w : Bool) : F (eAT gd ga gb op sc ord w) 20 3 = sc := by
  have h0 := gd.isLt
  have h1 := ga.isLt
  have h2 := gb.isLt
  have h3 := op.isLt
  have h4 := sc.isLt
  have h5 := ord.isLt
  have h6 := w.toNat_lt
  apply BitVec.eq_of_toNat_eq; simp only [F, BitVec.toNat_ofNat]; unfold eAT; omega

@[simp] theorem eAT_18_2 (gd ga gb : G) (op : BitVec 4) (sc : BitVec 3) (ord : BitVec 2) (w : Bool) : F (eAT gd ga gb op sc ord w) 18 2 = ord := by
  have h0 := gd.isLt
  have h1 := ga.isLt
  have h2 := gb.isLt
  have h3 := op.isLt
  have h4 := sc.isLt
  have h5 := ord.isLt
  have h6 := w.toNat_lt
  apply BitVec.eq_of_toNat_eq; simp only [F, BitVec.toNat_ofNat]; unfold eAT; omega

@[simp] theorem eAT_bit17 (gd ga gb : G) (op : BitVec 4) (sc : BitVec 3) (ord : BitVec 2) (w : Bool) : fBit (eAT gd ga gb op sc ord w) 17 = w := by
  have h0 := gd.isLt
  have h1 := ga.isLt
  have h2 := gb.isLt
  have h3 := op.isLt
  have h4 := sc.isLt
  have h5 := ord.isLt
  have h6 := w.toNat_lt
  have e : eAT gd ga gb op sc ord w / 2^17 % 2 = w.toNat := by unfold eAT; omega
  rw [fBit, e, bool_toNat_beq]

/-! ### Format BR -/

theorem eBR_lt (bt : P) (ga : G) (off : BitVec 33) : eBR bt ga off < 2^45 := by
  have h0 := bt.isLt
  have h1 := ga.isLt
  have h2 := off.isLt
  unfold eBR; omega

@[simp] theorem eBR_42_3 (bt : P) (ga : G) (off : BitVec 33) : F (eBR bt ga off) 42 3 = bt := by
  have h0 := bt.isLt
  have h1 := ga.isLt
  have h2 := off.isLt
  apply BitVec.eq_of_toNat_eq; simp only [F, BitVec.toNat_ofNat]; unfold eBR; omega

@[simp] theorem eBR_33_6 (bt : P) (ga : G) (off : BitVec 33) : F (eBR bt ga off) 33 6 = ga := by
  have h0 := bt.isLt
  have h1 := ga.isLt
  have h2 := off.isLt
  apply BitVec.eq_of_toNat_eq; simp only [F, BitVec.toNat_ofNat]; unfold eBR; omega

@[simp] theorem eBR_0_33 (bt : P) (ga : G) (off : BitVec 33) : F (eBR bt ga off) 0 33 = off := by
  have h0 := bt.isLt
  have h1 := ga.isLt
  have h2 := off.isLt
  apply BitVec.eq_of_toNat_eq; simp only [F, BitVec.toNat_ofNat]; unfold eBR; omega

@[simp] theorem eBR_0_8 (bt : P) (ga : G) (off : BitVec 33) : F (eBR bt ga off) 0 8 = F off.toNat 0 8 := by
  have h0 := bt.isLt
  have h1 := ga.isLt
  have h2 := off.isLt
  apply BitVec.eq_of_toNat_eq; simp only [F, BitVec.toNat_ofNat]; unfold eBR; omega

/-! ### Format CT -/

theorem eCT_lt (spc : BitVec 2) (obj : BitVec 8) (rc : BitVec 4) (tag : BitVec 6) (gd : G) (imm : BitVec 19) : eCT spc obj rc tag gd imm < 2^45 := by
  have h0 := spc.isLt
  have h1 := obj.isLt
  have h2 := rc.isLt
  have h3 := tag.isLt
  have h4 := gd.isLt
  have h5 := imm.isLt
  unfold eCT; omega

@[simp] theorem eCT_43_2 (spc : BitVec 2) (obj : BitVec 8) (rc : BitVec 4) (tag : BitVec 6) (gd : G) (imm : BitVec 19) : F (eCT spc obj rc tag gd imm) 43 2 = spc := by
  have h0 := spc.isLt
  have h1 := obj.isLt
  have h2 := rc.isLt
  have h3 := tag.isLt
  have h4 := gd.isLt
  have h5 := imm.isLt
  apply BitVec.eq_of_toNat_eq; simp only [F, BitVec.toNat_ofNat]; unfold eCT; omega

@[simp] theorem eCT_35_8 (spc : BitVec 2) (obj : BitVec 8) (rc : BitVec 4) (tag : BitVec 6) (gd : G) (imm : BitVec 19) : F (eCT spc obj rc tag gd imm) 35 8 = obj := by
  have h0 := spc.isLt
  have h1 := obj.isLt
  have h2 := rc.isLt
  have h3 := tag.isLt
  have h4 := gd.isLt
  have h5 := imm.isLt
  apply BitVec.eq_of_toNat_eq; simp only [F, BitVec.toNat_ofNat]; unfold eCT; omega

@[simp] theorem eCT_31_4 (spc : BitVec 2) (obj : BitVec 8) (rc : BitVec 4) (tag : BitVec 6) (gd : G) (imm : BitVec 19) : F (eCT spc obj rc tag gd imm) 31 4 = rc := by
  have h0 := spc.isLt
  have h1 := obj.isLt
  have h2 := rc.isLt
  have h3 := tag.isLt
  have h4 := gd.isLt
  have h5 := imm.isLt
  apply BitVec.eq_of_toNat_eq; simp only [F, BitVec.toNat_ofNat]; unfold eCT; omega

@[simp] theorem eCT_25_6 (spc : BitVec 2) (obj : BitVec 8) (rc : BitVec 4) (tag : BitVec 6) (gd : G) (imm : BitVec 19) : F (eCT spc obj rc tag gd imm) 25 6 = tag := by
  have h0 := spc.isLt
  have h1 := obj.isLt
  have h2 := rc.isLt
  have h3 := tag.isLt
  have h4 := gd.isLt
  have h5 := imm.isLt
  apply BitVec.eq_of_toNat_eq; simp only [F, BitVec.toNat_ofNat]; unfold eCT; omega

@[simp] theorem eCT_19_6 (spc : BitVec 2) (obj : BitVec 8) (rc : BitVec 4) (tag : BitVec 6) (gd : G) (imm : BitVec 19) : F (eCT spc obj rc tag gd imm) 19 6 = gd := by
  have h0 := spc.isLt
  have h1 := obj.isLt
  have h2 := rc.isLt
  have h3 := tag.isLt
  have h4 := gd.isLt
  have h5 := imm.isLt
  apply BitVec.eq_of_toNat_eq; simp only [F, BitVec.toNat_ofNat]; unfold eCT; omega

@[simp] theorem eCT_13_6 (spc : BitVec 2) (obj : BitVec 8) (rc : BitVec 4) (tag : BitVec 6) (gd : G) (imm : BitVec 19) : F (eCT spc obj rc tag gd imm) 13 6 = F imm.toNat 13 6 := by
  have h0 := spc.isLt
  have h1 := obj.isLt
  have h2 := rc.isLt
  have h3 := tag.isLt
  have h4 := gd.isLt
  have h5 := imm.isLt
  apply BitVec.eq_of_toNat_eq; simp only [F, BitVec.toNat_ofNat]; unfold eCT; omega

@[simp] theorem eCT_6_7 (spc : BitVec 2) (obj : BitVec 8) (rc : BitVec 4) (tag : BitVec 6) (gd : G) (imm : BitVec 19) : F (eCT spc obj rc tag gd imm) 6 7 = F imm.toNat 6 7 := by
  have h0 := spc.isLt
  have h1 := obj.isLt
  have h2 := rc.isLt
  have h3 := tag.isLt
  have h4 := gd.isLt
  have h5 := imm.isLt
  apply BitVec.eq_of_toNat_eq; simp only [F, BitVec.toNat_ofNat]; unfold eCT; omega

@[simp] theorem eCT_0_2 (spc : BitVec 2) (obj : BitVec 8) (rc : BitVec 4) (tag : BitVec 6) (gd : G) (imm : BitVec 19) : F (eCT spc obj rc tag gd imm) 0 2 = F imm.toNat 0 2 := by
  have h0 := spc.isLt
  have h1 := obj.isLt
  have h2 := rc.isLt
  have h3 := tag.isLt
  have h4 := gd.isLt
  have h5 := imm.isLt
  apply BitVec.eq_of_toNat_eq; simp only [F, BitVec.toNat_ofNat]; unfold eCT; omega

@[simp] theorem eCT_0_4 (spc : BitVec 2) (obj : BitVec 8) (rc : BitVec 4) (tag : BitVec 6) (gd : G) (imm : BitVec 19) : F (eCT spc obj rc tag gd imm) 0 4 = F imm.toNat 0 4 := by
  have h0 := spc.isLt
  have h1 := obj.isLt
  have h2 := rc.isLt
  have h3 := tag.isLt
  have h4 := gd.isLt
  have h5 := imm.isLt
  apply BitVec.eq_of_toNat_eq; simp only [F, BitVec.toNat_ofNat]; unfold eCT; omega

@[simp] theorem eCT_4_8 (spc : BitVec 2) (obj : BitVec 8) (rc : BitVec 4) (tag : BitVec 6) (gd : G) (imm : BitVec 19) : F (eCT spc obj rc tag gd imm) 4 8 = F imm.toNat 4 8 := by
  have h0 := spc.isLt
  have h1 := obj.isLt
  have h2 := rc.isLt
  have h3 := tag.isLt
  have h4 := gd.isLt
  have h5 := imm.isLt
  apply BitVec.eq_of_toNat_eq; simp only [F, BitVec.toNat_ofNat]; unfold eCT; omega

@[simp] theorem eCT_0_7 (spc : BitVec 2) (obj : BitVec 8) (rc : BitVec 4) (tag : BitVec 6) (gd : G) (imm : BitVec 19) : F (eCT spc obj rc tag gd imm) 0 7 = F imm.toNat 0 7 := by
  have h0 := spc.isLt
  have h1 := obj.isLt
  have h2 := rc.isLt
  have h3 := tag.isLt
  have h4 := gd.isLt
  have h5 := imm.isLt
  apply BitVec.eq_of_toNat_eq; simp only [F, BitVec.toNat_ofNat]; unfold eCT; omega

@[simp] theorem eCT_0_18 (spc : BitVec 2) (obj : BitVec 8) (rc : BitVec 4) (tag : BitVec 6) (gd : G) (imm : BitVec 19) : F (eCT spc obj rc tag gd imm) 0 18 = F imm.toNat 0 18 := by
  have h0 := spc.isLt
  have h1 := obj.isLt
  have h2 := rc.isLt
  have h3 := tag.isLt
  have h4 := gd.isLt
  have h5 := imm.isLt
  apply BitVec.eq_of_toNat_eq; simp only [F, BitVec.toNat_ofNat]; unfold eCT; omega

@[simp] theorem eCT_bit18 (spc : BitVec 2) (obj : BitVec 8) (rc : BitVec 4) (tag : BitVec 6) (gd : G) (imm : BitVec 19) : fBit (eCT spc obj rc tag gd imm) 18 = fBit imm.toNat 18 := by
  have h0 := spc.isLt
  have h1 := obj.isLt
  have h2 := rc.isLt
  have h3 := tag.isLt
  have h4 := gd.isLt
  have h5 := imm.isLt
  have e : eCT spc obj rc tag gd imm / 2^18 % 2 = imm.toNat / 2^18 % 2 := by unfold eCT; omega
  simp only [fBit, e]

@[simp] theorem eCT_bit0 (spc : BitVec 2) (obj : BitVec 8) (rc : BitVec 4) (tag : BitVec 6) (gd : G) (imm : BitVec 19) : fBit (eCT spc obj rc tag gd imm) 0 = fBit imm.toNat 0 := by
  have h0 := spc.isLt
  have h1 := obj.isLt
  have h2 := rc.isLt
  have h3 := tag.isLt
  have h4 := gd.isLt
  have h5 := imm.isLt
  have e : eCT spc obj rc tag gd imm / 2^0 % 2 = imm.toNat / 2^0 % 2 := by unfold eCT; omega
  simp only [fBit, e]

/-! ### Format TT -/

theorem eTT_lt (ty : BitVec 4) (d : BitVec 8) (rc : BitVec 4) (a : BitVec 8) (atag : BitVec 6) (b : BitVec 8) (btag : BitVec 6) : eTT ty d rc a atag b btag < 2^45 := by
  have h0 := ty.isLt
  have h1 := d.isLt
  have h2 := rc.isLt
  have h3 := a.isLt
  have h4 := atag.isLt
  have h5 := b.isLt
  have h6 := btag.isLt
  unfold eTT; omega

@[simp] theorem eTT_41_4 (ty : BitVec 4) (d : BitVec 8) (rc : BitVec 4) (a : BitVec 8) (atag : BitVec 6) (b : BitVec 8) (btag : BitVec 6) : F (eTT ty d rc a atag b btag) 41 4 = ty := by
  have h0 := ty.isLt
  have h1 := d.isLt
  have h2 := rc.isLt
  have h3 := a.isLt
  have h4 := atag.isLt
  have h5 := b.isLt
  have h6 := btag.isLt
  apply BitVec.eq_of_toNat_eq; simp only [F, BitVec.toNat_ofNat]; unfold eTT; omega

@[simp] theorem eTT_33_8 (ty : BitVec 4) (d : BitVec 8) (rc : BitVec 4) (a : BitVec 8) (atag : BitVec 6) (b : BitVec 8) (btag : BitVec 6) : F (eTT ty d rc a atag b btag) 33 8 = d := by
  have h0 := ty.isLt
  have h1 := d.isLt
  have h2 := rc.isLt
  have h3 := a.isLt
  have h4 := atag.isLt
  have h5 := b.isLt
  have h6 := btag.isLt
  apply BitVec.eq_of_toNat_eq; simp only [F, BitVec.toNat_ofNat]; unfold eTT; omega

@[simp] theorem eTT_29_4 (ty : BitVec 4) (d : BitVec 8) (rc : BitVec 4) (a : BitVec 8) (atag : BitVec 6) (b : BitVec 8) (btag : BitVec 6) : F (eTT ty d rc a atag b btag) 29 4 = rc := by
  have h0 := ty.isLt
  have h1 := d.isLt
  have h2 := rc.isLt
  have h3 := a.isLt
  have h4 := atag.isLt
  have h5 := b.isLt
  have h6 := btag.isLt
  apply BitVec.eq_of_toNat_eq; simp only [F, BitVec.toNat_ofNat]; unfold eTT; omega

@[simp] theorem eTT_21_8 (ty : BitVec 4) (d : BitVec 8) (rc : BitVec 4) (a : BitVec 8) (atag : BitVec 6) (b : BitVec 8) (btag : BitVec 6) : F (eTT ty d rc a atag b btag) 21 8 = a := by
  have h0 := ty.isLt
  have h1 := d.isLt
  have h2 := rc.isLt
  have h3 := a.isLt
  have h4 := atag.isLt
  have h5 := b.isLt
  have h6 := btag.isLt
  apply BitVec.eq_of_toNat_eq; simp only [F, BitVec.toNat_ofNat]; unfold eTT; omega

@[simp] theorem eTT_15_6 (ty : BitVec 4) (d : BitVec 8) (rc : BitVec 4) (a : BitVec 8) (atag : BitVec 6) (b : BitVec 8) (btag : BitVec 6) : F (eTT ty d rc a atag b btag) 15 6 = atag := by
  have h0 := ty.isLt
  have h1 := d.isLt
  have h2 := rc.isLt
  have h3 := a.isLt
  have h4 := atag.isLt
  have h5 := b.isLt
  have h6 := btag.isLt
  apply BitVec.eq_of_toNat_eq; simp only [F, BitVec.toNat_ofNat]; unfold eTT; omega

@[simp] theorem eTT_7_8 (ty : BitVec 4) (d : BitVec 8) (rc : BitVec 4) (a : BitVec 8) (atag : BitVec 6) (b : BitVec 8) (btag : BitVec 6) : F (eTT ty d rc a atag b btag) 7 8 = b := by
  have h0 := ty.isLt
  have h1 := d.isLt
  have h2 := rc.isLt
  have h3 := a.isLt
  have h4 := atag.isLt
  have h5 := b.isLt
  have h6 := btag.isLt
  apply BitVec.eq_of_toNat_eq; simp only [F, BitVec.toNat_ofNat]; unfold eTT; omega

@[simp] theorem eTT_1_6 (ty : BitVec 4) (d : BitVec 8) (rc : BitVec 4) (a : BitVec 8) (atag : BitVec 6) (b : BitVec 8) (btag : BitVec 6) : F (eTT ty d rc a atag b btag) 1 6 = btag := by
  have h0 := ty.isLt
  have h1 := d.isLt
  have h2 := rc.isLt
  have h3 := a.isLt
  have h4 := atag.isLt
  have h5 := b.isLt
  have h6 := btag.isLt
  apply BitVec.eq_of_toNat_eq; simp only [F, BitVec.toNat_ofNat]; unfold eTT; omega

@[simp] theorem eTT_41_3 (ty : BitVec 4) (d : BitVec 8) (rc : BitVec 4) (a : BitVec 8) (atag : BitVec 6) (b : BitVec 8) (btag : BitVec 6) : F (eTT ty d rc a atag b btag) 41 3 = F ty.toNat 0 3 := by
  have h0 := ty.isLt
  have h1 := d.isLt
  have h2 := rc.isLt
  have h3 := a.isLt
  have h4 := atag.isLt
  have h5 := b.isLt
  have h6 := btag.isLt
  apply BitVec.eq_of_toNat_eq; simp only [F, BitVec.toNat_ofNat]; unfold eTT; omega

@[simp] theorem eTT_7_2 (ty : BitVec 4) (d : BitVec 8) (rc : BitVec 4) (a : BitVec 8) (atag : BitVec 6) (b : BitVec 8) (btag : BitVec 6) : F (eTT ty d rc a atag b btag) 7 2 = F b.toNat 0 2 := by
  have h0 := ty.isLt
  have h1 := d.isLt
  have h2 := rc.isLt
  have h3 := a.isLt
  have h4 := atag.isLt
  have h5 := b.isLt
  have h6 := btag.isLt
  apply BitVec.eq_of_toNat_eq; simp only [F, BitVec.toNat_ofNat]; unfold eTT; omega

@[simp] theorem eTT_7_4 (ty : BitVec 4) (d : BitVec 8) (rc : BitVec 4) (a : BitVec 8) (atag : BitVec 6) (b : BitVec 8) (btag : BitVec 6) : F (eTT ty d rc a atag b btag) 7 4 = F b.toNat 0 4 := by
  have h0 := ty.isLt
  have h1 := d.isLt
  have h2 := rc.isLt
  have h3 := a.isLt
  have h4 := atag.isLt
  have h5 := b.isLt
  have h6 := btag.isLt
  apply BitVec.eq_of_toNat_eq; simp only [F, BitVec.toNat_ofNat]; unfold eTT; omega

@[simp] theorem eTT_10_2 (ty : BitVec 4) (d : BitVec 8) (rc : BitVec 4) (a : BitVec 8) (atag : BitVec 6) (b : BitVec 8) (btag : BitVec 6) : F (eTT ty d rc a atag b btag) 10 2 = F b.toNat 3 2 := by
  have h0 := ty.isLt
  have h1 := d.isLt
  have h2 := rc.isLt
  have h3 := a.isLt
  have h4 := atag.isLt
  have h5 := b.isLt
  have h6 := btag.isLt
  apply BitVec.eq_of_toNat_eq; simp only [F, BitVec.toNat_ofNat]; unfold eTT; omega

@[simp] theorem eTT_11_3 (ty : BitVec 4) (d : BitVec 8) (rc : BitVec 4) (a : BitVec 8) (atag : BitVec 6) (b : BitVec 8) (btag : BitVec 6) : F (eTT ty d rc a atag b btag) 11 3 = F b.toNat 4 3 := by
  have h0 := ty.isLt
  have h1 := d.isLt
  have h2 := rc.isLt
  have h3 := a.isLt
  have h4 := atag.isLt
  have h5 := b.isLt
  have h6 := btag.isLt
  apply BitVec.eq_of_toNat_eq; simp only [F, BitVec.toNat_ofNat]; unfold eTT; omega

@[simp] theorem eTT_bit44 (ty : BitVec 4) (d : BitVec 8) (rc : BitVec 4) (a : BitVec 8) (atag : BitVec 6) (b : BitVec 8) (btag : BitVec 6) : fBit (eTT ty d rc a atag b btag) 44 = fBit ty.toNat 3 := by
  have h0 := ty.isLt
  have h1 := d.isLt
  have h2 := rc.isLt
  have h3 := a.isLt
  have h4 := atag.isLt
  have h5 := b.isLt
  have h6 := btag.isLt
  have e : eTT ty d rc a atag b btag / 2^44 % 2 = ty.toNat / 2^3 % 2 := by unfold eTT; omega
  simp only [fBit, e]

@[simp] theorem eTT_bit9 (ty : BitVec 4) (d : BitVec 8) (rc : BitVec 4) (a : BitVec 8) (atag : BitVec 6) (b : BitVec 8) (btag : BitVec 6) : fBit (eTT ty d rc a atag b btag) 9 = fBit b.toNat 2 := by
  have h0 := ty.isLt
  have h1 := d.isLt
  have h2 := rc.isLt
  have h3 := a.isLt
  have h4 := atag.isLt
  have h5 := b.isLt
  have h6 := btag.isLt
  have e : eTT ty d rc a atag b btag / 2^9 % 2 = b.toNat / 2^2 % 2 := by unfold eTT; omega
  simp only [fBit, e]

@[simp] theorem eTT_bit12 (ty : BitVec 4) (d : BitVec 8) (rc : BitVec 4) (a : BitVec 8) (atag : BitVec 6) (b : BitVec 8) (btag : BitVec 6) : fBit (eTT ty d rc a atag b btag) 12 = fBit b.toNat 5 := by
  have h0 := ty.isLt
  have h1 := d.isLt
  have h2 := rc.isLt
  have h3 := a.isLt
  have h4 := atag.isLt
  have h5 := b.isLt
  have h6 := btag.isLt
  have e : eTT ty d rc a atag b btag / 2^12 % 2 = b.toNat / 2^5 % 2 := by unfold eTT; omega
  simp only [fBit, e]

/-! ### Format TG -/

theorem eTG_lt (ty : BitVec 4) (d : BitVec 8) (rc : BitVec 4) (a : BitVec 8) (atag : BitVec 6) (gb : G) (imm : BitVec 9) : eTG ty d rc a atag gb imm < 2^45 := by
  have h0 := ty.isLt
  have h1 := d.isLt
  have h2 := rc.isLt
  have h3 := a.isLt
  have h4 := atag.isLt
  have h5 := gb.isLt
  have h6 := imm.isLt
  unfold eTG; omega

@[simp] theorem eTG_41_4 (ty : BitVec 4) (d : BitVec 8) (rc : BitVec 4) (a : BitVec 8) (atag : BitVec 6) (gb : G) (imm : BitVec 9) : F (eTG ty d rc a atag gb imm) 41 4 = ty := by
  have h0 := ty.isLt
  have h1 := d.isLt
  have h2 := rc.isLt
  have h3 := a.isLt
  have h4 := atag.isLt
  have h5 := gb.isLt
  have h6 := imm.isLt
  apply BitVec.eq_of_toNat_eq; simp only [F, BitVec.toNat_ofNat]; unfold eTG; omega

@[simp] theorem eTG_33_8 (ty : BitVec 4) (d : BitVec 8) (rc : BitVec 4) (a : BitVec 8) (atag : BitVec 6) (gb : G) (imm : BitVec 9) : F (eTG ty d rc a atag gb imm) 33 8 = d := by
  have h0 := ty.isLt
  have h1 := d.isLt
  have h2 := rc.isLt
  have h3 := a.isLt
  have h4 := atag.isLt
  have h5 := gb.isLt
  have h6 := imm.isLt
  apply BitVec.eq_of_toNat_eq; simp only [F, BitVec.toNat_ofNat]; unfold eTG; omega

@[simp] theorem eTG_29_4 (ty : BitVec 4) (d : BitVec 8) (rc : BitVec 4) (a : BitVec 8) (atag : BitVec 6) (gb : G) (imm : BitVec 9) : F (eTG ty d rc a atag gb imm) 29 4 = rc := by
  have h0 := ty.isLt
  have h1 := d.isLt
  have h2 := rc.isLt
  have h3 := a.isLt
  have h4 := atag.isLt
  have h5 := gb.isLt
  have h6 := imm.isLt
  apply BitVec.eq_of_toNat_eq; simp only [F, BitVec.toNat_ofNat]; unfold eTG; omega

@[simp] theorem eTG_21_8 (ty : BitVec 4) (d : BitVec 8) (rc : BitVec 4) (a : BitVec 8) (atag : BitVec 6) (gb : G) (imm : BitVec 9) : F (eTG ty d rc a atag gb imm) 21 8 = a := by
  have h0 := ty.isLt
  have h1 := d.isLt
  have h2 := rc.isLt
  have h3 := a.isLt
  have h4 := atag.isLt
  have h5 := gb.isLt
  have h6 := imm.isLt
  apply BitVec.eq_of_toNat_eq; simp only [F, BitVec.toNat_ofNat]; unfold eTG; omega

@[simp] theorem eTG_15_6 (ty : BitVec 4) (d : BitVec 8) (rc : BitVec 4) (a : BitVec 8) (atag : BitVec 6) (gb : G) (imm : BitVec 9) : F (eTG ty d rc a atag gb imm) 15 6 = atag := by
  have h0 := ty.isLt
  have h1 := d.isLt
  have h2 := rc.isLt
  have h3 := a.isLt
  have h4 := atag.isLt
  have h5 := gb.isLt
  have h6 := imm.isLt
  apply BitVec.eq_of_toNat_eq; simp only [F, BitVec.toNat_ofNat]; unfold eTG; omega

@[simp] theorem eTG_9_6 (ty : BitVec 4) (d : BitVec 8) (rc : BitVec 4) (a : BitVec 8) (atag : BitVec 6) (gb : G) (imm : BitVec 9) : F (eTG ty d rc a atag gb imm) 9 6 = gb := by
  have h0 := ty.isLt
  have h1 := d.isLt
  have h2 := rc.isLt
  have h3 := a.isLt
  have h4 := atag.isLt
  have h5 := gb.isLt
  have h6 := imm.isLt
  apply BitVec.eq_of_toNat_eq; simp only [F, BitVec.toNat_ofNat]; unfold eTG; omega

@[simp] theorem eTG_0_9 (ty : BitVec 4) (d : BitVec 8) (rc : BitVec 4) (a : BitVec 8) (atag : BitVec 6) (gb : G) (imm : BitVec 9) : F (eTG ty d rc a atag gb imm) 0 9 = imm := by
  have h0 := ty.isLt
  have h1 := d.isLt
  have h2 := rc.isLt
  have h3 := a.isLt
  have h4 := atag.isLt
  have h5 := gb.isLt
  have h6 := imm.isLt
  apply BitVec.eq_of_toNat_eq; simp only [F, BitVec.toNat_ofNat]; unfold eTG; omega

/-! ### The extension word -/

theorem eX_lt (c : BitVec 8) (t : BitVec 6) {o : Nat} (h : o < 2^50) : eX c t o < 2^64 := by
  have h0 := c.isLt
  have h1 := t.isLt
  unfold eX; omega

theorem eX_obj (c : BitVec 8) (t : BitVec 6) {o : Nat} (h : o < 2^50) : F (eX c t o) 56 8 = c := by
  have h0 := c.isLt
  have h1 := t.isLt
  apply BitVec.eq_of_toNat_eq; simp only [F, BitVec.toNat_ofNat]; unfold eX; omega

theorem eX_tag (c : BitVec 8) (t : BitVec 6) {o : Nat} (h : o < 2^50) : F (eX c t o) 50 6 = t := by
  have h0 := c.isLt
  have h1 := t.isLt
  apply BitVec.eq_of_toNat_eq; simp only [F, BitVec.toNat_ofNat]; unfold eX; omega

theorem eX_rc (c : BitVec 8) (t : BitVec 4) {o : Nat} (h : o < 2^50) : F (eX c (t.setWidth 6) o) 50 4 = t := by
  have h0 := c.isLt
  have h1 := t.isLt
  apply BitVec.eq_of_toNat_eq; simp only [F, BitVec.toNat_ofNat]; unfold eX; simp only [BitVec.toNat_setWidth]; omega

theorem eX_opt (c : BitVec 8) (t : BitVec 6) (o : Nat) {lo n : Nat} (h : lo + n ≤ 50) : F (eX c t o) lo n = F o lo n := by
  have e : eX c t o = (c.toNat * 2^6 + t.toNat) * 2^50 + o := by unfold eX; ring
  rw [e]; exact F_low _ _ h

theorem eX_bit (c : BitVec 8) (t : BitVec 6) (o : Nat) {i : Nat} (h : i < 50) : fBit (eX c t o) i = fBit o i := by
  have e : eX c t o = (c.toNat * 2^6 + t.toNat) * 2^50 + o := by unfold eX; ring
  rw [e]; exact fBit_low _ _ h

/-- OPT of the MMA family fits its 26 bits. -/
theorem MmaOpt.bits_lt (o : MmaOpt) : o.bits < 2^26 := by
  have h0 := o.mm1.isLt
  have h1 := o.nm1.isLt
  have h2 := o.kq.isLt
  have h3 := o.acc.toNat_lt
  have h4 := o.mx.toNat_lt
  have h5 := o.tyb.isLt
  have h6 := o.sn.toNat_lt
  unfold MmaOpt.bits; omega

/-- OPT of the MMA family is read back, whatever stands above it. -/
theorem MmaOpt.of_bits (o : MmaOpt) (a : Nat) : MmaOpt.of (F (o.bits + a * 2^26) 0 26) = o := by
  have h0 := o.mm1.isLt
  have h1 := o.nm1.isLt
  have h2 := o.kq.isLt
  have h3 := o.acc.toNat_lt
  have h4 := o.mx.toNat_lt
  have h5 := o.tyb.isLt
  have h6 := o.sn.toNat_lt
  have e : (F (o.bits + a * 2^26) 0 26).toNat = o.bits := by
    have := o.bits_lt
    simp only [F, BitVec.toNat_ofNat]; omega
  have b1 : o.bits / 2^19 % 2 = o.acc.toNat := by unfold MmaOpt.bits; omega
  have b2 : o.bits / 2^20 % 2 = o.mx.toNat := by unfold MmaOpt.bits; omega
  have b3 : o.bits / 2^25 % 2 = o.sn.toNat := by unfold MmaOpt.bits; omega
  have f1 : F o.bits 0 6 = o.mm1 := by
    apply BitVec.eq_of_toNat_eq; simp only [F, BitVec.toNat_ofNat]; unfold MmaOpt.bits; omega
  have f2 : F o.bits 6 6 = o.nm1 := by
    apply BitVec.eq_of_toNat_eq; simp only [F, BitVec.toNat_ofNat]; unfold MmaOpt.bits; omega
  have f3 : F o.bits 12 7 = o.kq := by
    apply BitVec.eq_of_toNat_eq; simp only [F, BitVec.toNat_ofNat]; unfold MmaOpt.bits; omega
  have f4 : F o.bits 21 4 = o.tyb := by
    apply BitVec.eq_of_toNat_eq; simp only [F, BitVec.toNat_ofNat]; unfold MmaOpt.bits; omega
  simp only [MmaOpt.of, e, f1, f2, f3, f4, fBit, b1, b2, b3, bool_toNat_beq]

theorem MmaOpt.of_bits0 (o : MmaOpt) : MmaOpt.of (F o.bits 0 26) = o := by simpa using MmaOpt.of_bits o 0

/-! ### Codes -/

@[simp] theorem Ty.of_code (t : Ty) : Ty.of t.code = t := by cases t <;> rfl
@[simp] theorem Sz.of_code (t : Sz) : Sz.of? t.code = some t := by cases t <;> rfl
@[simp] theorem Scope.of_code (t : Scope) : Scope.of? t.code = some t := by cases t <;> rfl
@[simp] theorem Ord.of_code (t : Ord) : Ord.of t.code = t := by cases t <;> rfl
@[simp] theorem AmoOp.of_code (t : AmoOp) : AmoOp.of? t.code = some t := by cases t <;> rfl
@[simp] theorem FKind.of_code (t : FKind) : FKind.of? t.code = some t := by cases t <;> rfl
@[simp] theorem Spc.of_code (c : Spc) : Spc.of c.code = c := by cases c <;> rfl
@[simp] theorem Csr.of_code (t : Csr) : Csr.of? (t.code.setWidth 33) = some t := by cases t <;> rfl
@[simp] theorem Cond.of_code (t : Cond) : Cond.of? t.code = some t := by cases t <;> rfl

/-- A field that is a whole number of its width. -/
theorem F_self {n : Nat} (x : BitVec n) : F x.toNat 0 n = x := by
  apply BitVec.eq_of_toNat_eq; simp [F]

end Sys2Proof
end

