-- ==== Sys2Proof/Laws/Exec.lean ====
section
/-!
SUPPORT. The meaning that the dispatch gives each instruction and step: one lemma per constructor.
-/
namespace Sys2Proof.Machine

@[simp] theorem exec_nop (h : Header) (s : State) :
    exec (.nop h) s = execNop h s := rfl
@[simp] theorem exec_halt (h : Header) (s : State) :
    exec (.halt h) s = execHalt h s := rfl
@[simp] theorem exec_rdcs (h : Header) (gd : G) (r : Csr) (s : State) :
    exec (.rdcs h gd r) s = execRdcs h gd r s := rfl
@[simp] theorem exec_wrcs (h : Header) (r : Csr) (ga : G) (s : State) :
    exec (.wrcs h r ga) s = execWrcs h r ga s := rfl
@[simp] theorem exec_setfpc (h : Header) (img : BitVec 14) (s : State) :
    exec (.setfpc h img) s = execSetfpc h img s := rfl
@[simp] theorem exec_rdcyc (h : Header) (gd : G) (s : State) :
    exec (.rdcyc h gd) s = execRdcyc h gd s := rfl
@[simp] theorem exec_brkpt (h : Header) (s : State) :
    exec (.brkpt h) s = execBrkpt h s := rfl
@[simp] theorem exec_tlbinv (h : Header) (ga : G) (kind : BitVec 33) (s : State) :
    exec (.tlbinv h ga kind) s = execTlbinv h ga kind s := rfl
@[simp] theorem exec_ctxsave (h : Header) (ga : G) (s : State) :
    exec (.ctxsave h ga) s = execCtxsave h ga s := rfl
@[simp] theorem exec_ctxload (h : Header) (ga : G) (s : State) :
    exec (.ctxload h ga) s = execCtxload h ga s := rfl
@[simp] theorem exec_add (h : Header) (gd : G) (ga : G) (gb : G) (s : State) :
    exec (.add h gd ga gb) s = execAdd h gd ga gb s := rfl
@[simp] theorem exec_sub (h : Header) (gd : G) (ga : G) (gb : G) (s : State) :
    exec (.sub h gd ga gb) s = execSub h gd ga gb s := rfl
@[simp] theorem exec_mul (h : Header) (gd : G) (ga : G) (gb : G) (s : State) :
    exec (.mul h gd ga gb) s = execMul h gd ga gb s := rfl
@[simp] theorem exec_mulh (h : Header) (gd : G) (ga : G) (gb : G) (s : State) :
    exec (.mulh h gd ga gb) s = execMulh h gd ga gb s := rfl
@[simp] theorem exec_mulhn (h : Header) (gd : G) (ga : G) (gb : G) (s : State) :
    exec (.mulhn h gd ga gb) s = execMulhn h gd ga gb s := rfl
@[simp] theorem exec_div (h : Header) (gd : G) (ga : G) (gb : G) (s : State) :
    exec (.div h gd ga gb) s = execDiv h gd ga gb s := rfl
@[simp] theorem exec_divn (h : Header) (gd : G) (ga : G) (gb : G) (s : State) :
    exec (.divn h gd ga gb) s = execDivn h gd ga gb s := rfl
@[simp] theorem exec_and (h : Header) (gd : G) (ga : G) (gb : G) (s : State) :
    exec (.and h gd ga gb) s = execAnd h gd ga gb s := rfl
@[simp] theorem exec_or (h : Header) (gd : G) (ga : G) (gb : G) (s : State) :
    exec (.or h gd ga gb) s = execOr h gd ga gb s := rfl
@[simp] theorem exec_xor (h : Header) (gd : G) (ga : G) (gb : G) (s : State) :
    exec (.xor h gd ga gb) s = execXor h gd ga gb s := rfl
@[simp] theorem exec_andn (h : Header) (gd : G) (ga : G) (gb : G) (s : State) :
    exec (.andn h gd ga gb) s = execAndn h gd ga gb s := rfl
@[simp] theorem exec_shl (h : Header) (gd : G) (ga : G) (gb : G) (s : State) :
    exec (.shl h gd ga gb) s = execShl h gd ga gb s := rfl
@[simp] theorem exec_shr (h : Header) (gd : G) (ga : G) (gb : G) (s : State) :
    exec (.shr h gd ga gb) s = execShr h gd ga gb s := rfl
@[simp] theorem exec_sra (h : Header) (gd : G) (ga : G) (gb : G) (s : State) :
    exec (.sra h gd ga gb) s = execSra h gd ga gb s := rfl
@[simp] theorem exec_min (h : Header) (gd : G) (ga : G) (gb : G) (s : State) :
    exec (.min h gd ga gb) s = execMin h gd ga gb s := rfl
@[simp] theorem exec_max (h : Header) (gd : G) (ga : G) (gb : G) (s : State) :
    exec (.max h gd ga gb) s = execMax h gd ga gb s := rfl
@[simp] theorem exec_clz (h : Header) (gd : G) (ga : G) (s : State) :
    exec (.clz h gd ga) s = execClz h gd ga s := rfl
@[simp] theorem exec_popc (h : Header) (gd : G) (ga : G) (s : State) :
    exec (.popc h gd ga) s = execPopc h gd ga s := rfl
@[simp] theorem exec_sel (h : Header) (gd : G) (ga : G) (gb : G) (ps : P) (s : State) :
    exec (.sel h gd ga gb ps) s = execSel h gd ga gb ps s := rfl
@[simp] theorem exec_addi (h : Header) (gd : G) (ga : G) (imm : BitVec 33) (s : State) :
    exec (.addi h gd ga imm) s = execAddi h gd ga imm s := rfl
@[simp] theorem exec_muli (h : Header) (gd : G) (ga : G) (imm : BitVec 33) (s : State) :
    exec (.muli h gd ga imm) s = execMuli h gd ga imm s := rfl
@[simp] theorem exec_andi (h : Header) (gd : G) (ga : G) (imm : BitVec 33) (s : State) :
    exec (.andi h gd ga imm) s = execAndi h gd ga imm s := rfl
@[simp] theorem exec_ori (h : Header) (gd : G) (ga : G) (imm : BitVec 33) (s : State) :
    exec (.ori h gd ga imm) s = execOri h gd ga imm s := rfl
@[simp] theorem exec_xori (h : Header) (gd : G) (ga : G) (imm : BitVec 33) (s : State) :
    exec (.xori h gd ga imm) s = execXori h gd ga imm s := rfl
@[simp] theorem exec_shli (h : Header) (gd : G) (ga : G) (imm : BitVec 33) (s : State) :
    exec (.shli h gd ga imm) s = execShli h gd ga imm s := rfl
@[simp] theorem exec_shri (h : Header) (gd : G) (ga : G) (imm : BitVec 33) (s : State) :
    exec (.shri h gd ga imm) s = execShri h gd ga imm s := rfl
@[simp] theorem exec_srai (h : Header) (gd : G) (ga : G) (imm : BitVec 33) (s : State) :
    exec (.srai h gd ga imm) s = execSrai h gd ga imm s := rfl
@[simp] theorem exec_li (h : Header) (gd : G) (imm : BitVec 33) (s : State) :
    exec (.li h gd imm) s = execLi h gd imm s := rfl
@[simp] theorem exec_lih (h : Header) (gd : G) (imm : BitVec 33) (s : State) :
    exec (.lih h gd imm) s = execLih h gd imm s := rfl
@[simp] theorem exec_cmpeq (h : Header) (pd : P) (ga : G) (gb : G) (s : State) :
    exec (.cmpeq h pd ga gb) s = execCmpeq h pd ga gb s := rfl
@[simp] theorem exec_cmpne (h : Header) (pd : P) (ga : G) (gb : G) (s : State) :
    exec (.cmpne h pd ga gb) s = execCmpne h pd ga gb s := rfl
@[simp] theorem exec_cmplt (h : Header) (pd : P) (ga : G) (gb : G) (s : State) :
    exec (.cmplt h pd ga gb) s = execCmplt h pd ga gb s := rfl
@[simp] theorem exec_cmple (h : Header) (pd : P) (ga : G) (gb : G) (s : State) :
    exec (.cmple h pd ga gb) s = execCmple h pd ga gb s := rfl
@[simp] theorem exec_cmpltn (h : Header) (pd : P) (ga : G) (gb : G) (s : State) :
    exec (.cmpltn h pd ga gb) s = execCmpltn h pd ga gb s := rfl
@[simp] theorem exec_cmplen (h : Header) (pd : P) (ga : G) (gb : G) (s : State) :
    exec (.cmplen h pd ga gb) s = execCmplen h pd ga gb s := rfl
@[simp] theorem exec_cmpeqi (h : Header) (pd : P) (ga : G) (imm : BitVec 27) (s : State) :
    exec (.cmpeqi h pd ga imm) s = execCmpeqi h pd ga imm s := rfl
@[simp] theorem exec_cmplti (h : Header) (pd : P) (ga : G) (imm : BitVec 27) (s : State) :
    exec (.cmplti h pd ga imm) s = execCmplti h pd ga imm s := rfl
@[simp] theorem exec_cmpltni (h : Header) (pd : P) (ga : G) (imm : BitVec 27) (s : State) :
    exec (.cmpltni h pd ga imm) s = execCmpltni h pd ga imm s := rfl
@[simp] theorem exec_pand (h : Header) (pd : P) (pa : P) (pb : P) (s : State) :
    exec (.pand h pd pa pb) s = execPand h pd pa pb s := rfl
@[simp] theorem exec_por (h : Header) (pd : P) (pa : P) (pb : P) (s : State) :
    exec (.por h pd pa pb) s = execPor h pd pa pb s := rfl
@[simp] theorem exec_pxor (h : Header) (pd : P) (pa : P) (pb : P) (s : State) :
    exec (.pxor h pd pa pb) s = execPxor h pd pa pb s := rfl
@[simp] theorem exec_pnot (h : Header) (pd : P) (pa : P) (s : State) :
    exec (.pnot h pd pa) s = execPnot h pd pa s := rfl
@[simp] theorem exec_ld (h : Header) (sz : Sz) (g : G) (ga : G) (disp : BitVec 30) (s : State) :
    exec (.ld h sz g ga disp) s = execLd h sz g ga disp s := rfl
@[simp] theorem exec_st (h : Header) (sz : Sz) (g : G) (ga : G) (disp : BitVec 30) (s : State) :
    exec (.st h sz g ga disp) s = execSt h sz g ga disp s := rfl
@[simp] theorem exec_lda (h : Header) (sz : Sz) (g : G) (ga : G) (disp : BitVec 30) (s : State) :
    exec (.lda h sz g ga disp) s = execLda h sz g ga disp s := rfl
@[simp] theorem exec_sta (h : Header) (sz : Sz) (g : G) (ga : G) (disp : BitVec 30) (s : State) :
    exec (.sta h sz g ga disp) s = execSta h sz g ga disp s := rfl
@[simp] theorem exec_spld (h : Header) (g : G) (off : BitVec 30) (s : State) :
    exec (.spld h g off) s = execSpld h g off s := rfl
@[simp] theorem exec_spst (h : Header) (g : G) (off : BitVec 30) (s : State) :
    exec (.spst h g off) s = execSpst h g off s := rfl
@[simp] theorem exec_lsmark (h : Header) (s : State) :
    exec (.lsmark h) s = execLsmark h s := rfl
@[simp] theorem exec_waitc (h : Header) (l ss : BitVec 6) (c : BitVec 6) (t : BitVec 6) (s : State) :
    exec (.waitc h l ss c t) s = execWaitc h l ss c t s := rfl
@[simp] theorem exec_fence (h : Header) (sc : Scope) (kind : FKind) (s : State) :
    exec (.fence h sc kind) s = execFence h sc kind s := rfl
@[simp] theorem exec_amo (h : Header) (op : AmoOp) (w64 : Bool) (sc : Scope) (ord : Ord) (gd : G) (ga : G) (gb : G) (s : State) :
    exec (.amo h op w64 sc ord gd ga gb) s = execAmo h op w64 sc ord gd ga gb s := rfl
@[simp] theorem exec_cas (h : Header) (w64 : Bool) (sc : Scope) (ord : Ord) (gd : G) (ga : G) (gb : G) (s : State) :
    exec (.cas h w64 sc ord gd ga gb) s = execCas h w64 sc ord gd ga gb s := rfl
@[simp] theorem exec_amoa (h : Header) (op : AmoOp) (w64 : Bool) (sc : Scope) (ord : Ord) (gd : G) (ga : G) (gb : G) (s : State) :
    exec (.amoa h op w64 sc ord gd ga gb) s = execAmoa h op w64 sc ord gd ga gb s := rfl
@[simp] theorem exec_casa (h : Header) (w64 : Bool) (sc : Scope) (ord : Ord) (gd : G) (ga : G) (gb : G) (s : State) :
    exec (.casa h w64 sc ord gd ga gb) s = execCasa h w64 sc ord gd ga gb s := rfl
@[simp] theorem exec_pbr (h : Header) (bt : P) (off : BitVec 33) (s : State) :
    exec (.pbr h bt off) s = execPbr h bt off s := rfl
@[simp] theorem exec_pbrg (h : Header) (bt : P) (ga : G) (s : State) :
    exec (.pbrg h bt ga) s = execPbrg h bt ga s := rfl
@[simp] theorem exec_br (h : Header) (bt : P) (s : State) :
    exec (.br h bt) s = execBr h bt s := rfl
@[simp] theorem exec_brl (h : Header) (bt : P) (gl : G) (s : State) :
    exec (.brl h bt gl) s = execBrl h bt gl s := rfl
@[simp] theorem exec_trap (h : Header) (code : BitVec 8) (s : State) :
    exec (.trap h code) s = execTrap h code s := rfl
@[simp] theorem exec_tfence (h : Header) (s : State) :
    exec (.tfence h) s = execTfence h s := rfl
@[simp] theorem exec_yield (h : Header) (clean : Bool) (mask : BitVec 32) (s : State) :
    exec (.yield h clean mask) s = execYield h clean mask s := rfl
@[simp] theorem exec_eret (h : Header) (s : State) :
    exec (.eret h) s = execEret h s := rfl
@[simp] theorem exec_twait (h : Header) (spc : Spc) (x : Src) (s : State) :
    exec (.twait h spc x) s = execTwait h spc x s := rfl
@[simp] theorem exec_drop (h : Header) (spc : Spc) (x : Src) (s : State) :
    exec (.drop h spc x) s = execDrop h spc x s := rfl
@[simp] theorem exec_bump (h : Header) (spc : Spc) (x : Dst) (s : State) :
    exec (.bump h spc x) s = execBump h spc x s := rfl
@[simp] theorem exec_tsync (h : Header) (spc : Spc) (obj : BitVec 8) (s : State) :
    exec (.tsync h spc obj) s = execTsync h spc obj s := rfl
@[simp] theorem exec_trel (h : Header) (spc : Spc) (obj : BitVec 8) (s : State) :
    exec (.trel h spc obj) s = execTrel h spc obj s := rfl
@[simp] theorem exec_tview (h : Header) (gd : G) (spc : Spc) (obj : BitVec 8) (s : State) :
    exec (.tview h gd spc obj) s = execTview h gd spc obj s := rfl
@[simp] theorem exec_barinit (h : Header) (bar : BitVec 8) (count : BitVec 18) (gang : Bool) (s : State) :
    exec (.barinit h bar count gang) s = execBarinit h bar count gang s := rfl
@[simp] theorem exec_bararr (h : Header) (bar : BitVec 8) (s : State) :
    exec (.bararr h bar) s = execBararr h bar s := rfl
@[simp] theorem exec_barwait (h : Header) (bar : BitVec 8) (s : State) :
    exec (.barwait h bar) s = execBarwait h bar s := rfl
@[simp] theorem exec_barsync (h : Header) (bar : BitVec 8) (s : State) :
    exec (.barsync h bar) s = execBarsync h bar s := rfl
@[simp] theorem exec_vadd (h : Header) (ty : Ty) (d : Dst) (a : Src) (b : Src) (s : State) :
    exec (.vadd h ty d a b) s = execVadd h ty d a b s := rfl
@[simp] theorem exec_vsub (h : Header) (ty : Ty) (d : Dst) (a : Src) (b : Src) (s : State) :
    exec (.vsub h ty d a b) s = execVsub h ty d a b s := rfl
@[simp] theorem exec_vmul (h : Header) (ty : Ty) (d : Dst) (a : Src) (b : Src) (s : State) :
    exec (.vmul h ty d a b) s = execVmul h ty d a b s := rfl
@[simp] theorem exec_vmin (h : Header) (ty : Ty) (d : Dst) (a : Src) (b : Src) (s : State) :
    exec (.vmin h ty d a b) s = execVmin h ty d a b s := rfl
@[simp] theorem exec_vmax (h : Header) (ty : Ty) (d : Dst) (a : Src) (b : Src) (s : State) :
    exec (.vmax h ty d a b) s = execVmax h ty d a b s := rfl
@[simp] theorem exec_vand (h : Header) (ty : Ty) (d : Dst) (a : Src) (b : Src) (s : State) :
    exec (.vand h ty d a b) s = execVand h ty d a b s := rfl
@[simp] theorem exec_vor (h : Header) (ty : Ty) (d : Dst) (a : Src) (b : Src) (s : State) :
    exec (.vor h ty d a b) s = execVor h ty d a b s := rfl
@[simp] theorem exec_vxor (h : Header) (ty : Ty) (d : Dst) (a : Src) (b : Src) (s : State) :
    exec (.vxor h ty d a b) s = execVxor h ty d a b s := rfl
@[simp] theorem exec_vshl (h : Header) (ty : Ty) (d : Dst) (a : Src) (b : Src) (s : State) :
    exec (.vshl h ty d a b) s = execVshl h ty d a b s := rfl
@[simp] theorem exec_vshr (h : Header) (ty : Ty) (d : Dst) (a : Src) (b : Src) (s : State) :
    exec (.vshr h ty d a b) s = execVshr h ty d a b s := rfl
@[simp] theorem exec_vsra (h : Header) (ty : Ty) (d : Dst) (a : Src) (b : Src) (s : State) :
    exec (.vsra h ty d a b) s = execVsra h ty d a b s := rfl
@[simp] theorem exec_vwmul (h : Header) (ty : Ty) (d : Dst) (a : Src) (b : Src) (s : State) :
    exec (.vwmul h ty d a b) s = execVwmul h ty d a b s := rfl
@[simp] theorem exec_vwadd (h : Header) (ty : Ty) (d : Dst) (a : Src) (b : Src) (s : State) :
    exec (.vwadd h ty d a b) s = execVwadd h ty d a b s := rfl
@[simp] theorem exec_vfma (h : Header) (ty : Ty) (d : Dst) (a : Src) (b : Src) (c : Src) (s : State) :
    exec (.vfma h ty d a b c) s = execVfma h ty d a b c s := rfl
@[simp] theorem exec_vabs (h : Header) (ty : Ty) (d : Dst) (a : Src) (s : State) :
    exec (.vabs h ty d a) s = execVabs h ty d a s := rfl
@[simp] theorem exec_vneg (h : Header) (ty : Ty) (d : Dst) (a : Src) (s : State) :
    exec (.vneg h ty d a) s = execVneg h ty d a s := rfl
@[simp] theorem exec_vnot (h : Header) (ty : Ty) (d : Dst) (a : Src) (s : State) :
    exec (.vnot h ty d a) s = execVnot h ty d a s := rfl
@[simp] theorem exec_vcmp (h : Header) (cond : Cond) (ty : Ty) (d : Dst) (a : Src) (b : Src) (s : State) :
    exec (.vcmp h cond ty d a b) s = execVcmp h cond ty d a b s := rfl
@[simp] theorem exec_vsel (h : Header) (ty : Ty) (d : Dst) (a : Src) (b : Src) (c : Src) (s : State) :
    exec (.vsel h ty d a b c) s = execVsel h ty d a b c s := rfl
@[simp] theorem exec_vbcast (h : Header) (ty : Ty) (d : Dst) (gb : G) (s : State) :
    exec (.vbcast h ty d gb) s = execVbcast h ty d gb s := rfl
@[simp] theorem exec_vlane (h : Header) (ty : Ty) (gd : BitVec 8) (a : Src) (gb : G) (imm : BitVec 9) (s : State) :
    exec (.vlane h ty gd a gb imm) s = execVlane h ty gd a gb imm s := rfl
@[simp] theorem exec_vperm (h : Header) (d : Dst) (a : Src) (b : Src) (s : State) :
    exec (.vperm h d a b) s = execVperm h d a b s := rfl
@[simp] theorem exec_viota (h : Header) (ty : Ty) (d : Dst) (s : State) :
    exec (.viota h ty d) s = execViota h ty d s := rfl
@[simp] theorem exec_vexp2 (h : Header) (d : Dst) (a : Src) (s : State) :
    exec (.vexp2 h d a) s = execVexp2 h d a s := rfl
@[simp] theorem exec_vrcp (h : Header) (d : Dst) (a : Src) (s : State) :
    exec (.vrcp h d a) s = execVrcp h d a s := rfl
@[simp] theorem exec_vrsq (h : Header) (d : Dst) (a : Src) (s : State) :
    exec (.vrsq h d a) s = execVrsq h d a s := rfl
@[simp] theorem exec_vsqrt (h : Header) (d : Dst) (a : Src) (s : State) :
    exec (.vsqrt h d a) s = execVsqrt h d a s := rfl
@[simp] theorem exec_vcvt (h : Header) (toT : Ty) (fr : Ty) (rnd : BitVec 3) (d : Dst) (a : Src) (s : State) :
    exec (.vcvt h toT fr rnd d a) s = execVcvt h toT fr rnd d a s := rfl
@[simp] theorem exec_vquant (h : Header) (ty : Ty) (src : BitVec 4) (d : Dst) (a : Src) (s : State) :
    exec (.vquant h ty src d a) s = execVquant h ty src d a s := rfl
@[simp] theorem exec_vquant2 (h : Header) (ty : Ty) (d : Dst) (c : Dst) (a : Src) (s : State) :
    exec (.vquant2 h ty d c a) s = execVquant2 h ty d c a s := rfl
@[simp] theorem exec_vdeq (h : Header) (ty : Ty) (toT : BitVec 4) (d : Dst) (a : Src) (s : State) :
    exec (.vdeq h ty toT d a) s = execVdeq h ty toT d a s := rfl
@[simp] theorem exec_vsclr (h : Header) (d : Dst) (s : State) :
    exec (.vsclr h d) s = execVsclr h d s := rfl
@[simp] theorem exec_vstat (h : Header) (lg : BitVec 4) (d : Dst) (a : Src) (b : Src) (s : State) :
    exec (.vstat h lg d a b) s = execVstat h lg d a b s := rfl
@[simp] theorem exec_vstatw (h : Header) (lg : BitVec 4) (d : Dst) (a : Src) (b : Src) (c : Src) (s : State) :
    exec (.vstatw h lg d a b c) s = execVstatw h lg d a b c s := rfl
@[simp] theorem exec_vsmerge (h : Header) (d : Dst) (a : Src) (b : Src) (s : State) :
    exec (.vsmerge h d a b) s = execVsmerge h d a b s := rfl
@[simp] theorem exec_vsdrain (h : Header) (opt : BitVec 3) (fill : Bool) (d : Dst) (a : Src) (b : Src) (s : State) :
    exec (.vsdrain h opt fill d a b) s = execVsdrain h opt fill d a b s := rfl
@[simp] theorem exec_vsdrainNorm (h : Header) (fill : Bool) (d : Dst) (a : Src) (b : Src) (c : Src) (eps : BitVec 32) (aff : Bool) (lg : BitVec 3) (s : State) :
    exec (.vsdrainNorm h fill d a b c eps aff lg) s = execVsdrainNorm h fill d a b c eps aff lg s := rfl
@[simp] theorem exec_vredmax (h : Header) (ty : Ty) (d : Dst) (a : Src) (s : State) :
    exec (.vredmax h ty d a) s = execVredmax h ty d a s := rfl
@[simp] theorem exec_vredmin (h : Header) (ty : Ty) (d : Dst) (a : Src) (s : State) :
    exec (.vredmin h ty d a) s = execVredmin h ty d a s := rfl
@[simp] theorem exec_vhist (h : Header) (d : Dst) (a : Src) (b : Src) (s : State) :
    exec (.vhist h d a b) s = execVhist h d a b s := rfl
@[simp] theorem exec_vrank (h : Header) (d : Dst) (a : Src) (b : Src) (s : State) :
    exec (.vrank h d a b) s = execVrank h d a b s := rfl
@[simp] theorem exec_vamerge (h : Header) (d : Dst) (a : Src) (b : Src) (s : State) :
    exec (.vamerge h d a b) s = execVamerge h d a b s := rfl
@[simp] theorem exec_vafin (h : Header) (d : Dst) (a : Src) (s : State) :
    exec (.vafin h d a) s = execVafin h d a s := rfl
@[simp] theorem exec_vld (h : Header) (ty : Ty) (d : Dst) (a : Src) (gb : G) (imm : BitVec 9) (s : State) :
    exec (.vld h ty d a gb imm) s = execVld h ty d a gb imm s := rfl
@[simp] theorem exec_vst (h : Header) (d : Dst) (gb : G) (imm : BitVec 9) (a : Src) (s : State) :
    exec (.vst h d gb imm a) s = execVst h d gb imm a s := rfl
@[simp] theorem exec_vlds (h : Header) (ty : Ty) (d : Dst) (a : Src) (gb : G) (imm : BitVec 9) (stride : BitVec 16) (count : BitVec 10) (s : State) :
    exec (.vlds h ty d a gb imm stride count) s = execVlds h ty d a gb imm stride count s := rfl
@[simp] theorem exec_vgath (h : Header) (ty : Ty) (d : Dst) (a : Src) (b : Src) (s : State) :
    exec (.vgath h ty d a b) s = execVgath h ty d a b s := rfl
@[simp] theorem exec_vscat (h : Header) (ty : Ty) (d : Dst) (a : Src) (b : Src) (s : State) :
    exec (.vscat h ty d a b) s = execVscat h ty d a b s := rfl
@[simp] theorem exec_vldo (h : Header) (d : Dst) (a : Src) (row : BitVec 9) (s : State) :
    exec (.vldo h d a row) s = execVldo h d a row s := rfl
@[simp] theorem exec_vsto (h : Header) (d : Dst) (row : BitVec 9) (a : Src) (s : State) :
    exec (.vsto h d row a) s = execVsto h d row a s := rfl
@[simp] theorem exec_vqrd (h : Header) (d : Dst) (qn : BitVec 9) (s : State) :
    exec (.vqrd h d qn) s = execVqrd h d qn s := rfl
@[simp] theorem exec_mma (h : Header) (ty : Ty) (d : Dst) (a : Src) (b : Src) (o : MmaOpt) (s : State) :
    exec (.mma h ty d a b o) s = execMma h ty d a b o s := rfl
@[simp] theorem exec_mmas (h : Header) (ty : Ty) (d : Dst) (a : Src) (b : Src) (o : MmaOpt) (s : State) :
    exec (.mmas h ty d a b o) s = execMmas h ty d a b o s := rfl
@[simp] theorem exec_mgath (h : Header) (ty : Ty) (d : Dst) (a : Src) (b : Src) (ti : Src) (tj : Src) (o : MmaOpt) (pm1 : BitVec 2) (s : State) :
    exec (.mgath h ty d a b ti tj o pm1) s = execMgath h ty d a b ti tj o pm1 s := rfl
@[simp] theorem exec_mgroup (h : Header) (ty : Ty) (d : Dst) (a : Src) (b : Src) (fx : Src) (off9 : BitVec 9) (o : MmaOpt) (s : State) :
    exec (.mgroup h ty d a b fx off9 o) s = execMgroup h ty d a b fx off9 o s := rfl
@[simp] theorem exec_acalloc (h : Header) (gd : G) (count : BitVec 7) (s : State) :
    exec (.acalloc h gd count) s = execAcalloc h gd count s := rfl
@[simp] theorem exec_acfree (h : Header) (obj : BitVec 8) (s : State) :
    exec (.acfree h obj) s = execAcfree h obj s := rfl
@[simp] theorem exec_acband (h : Header) (obj : BitVec 8) (bands : BitVec 4) (strms : BitVec 8) (s : State) :
    exec (.acband h obj bands strms) s = execAcband h obj bands strms s := rfl
@[simp] theorem exec_aczero (h : Header) (d : Dst) (s : State) :
    exec (.aczero h d) s = execAczero h d s := rfl
@[simp] theorem exec_acdrain (h : Header) (ty : Ty) (band : BitVec 2) (now : Bool) (rnd : BitVec 2) (relu : Bool) (d : Dst) (a : Src) (s : State) :
    exec (.acdrain h ty band now rnd relu d a) s = execAcdrain h ty band now rnd relu d a s := rfl
@[simp] theorem exec_acfill (h : Header) (band : BitVec 2) (d : Dst) (a : Src) (s : State) :
    exec (.acfill h band d a) s = execAcfill h band d a s := rfl
@[simp] theorem exec_cp (h : Header) (spc : Spc) (d : Dst) (gs : G) (gc : G) (doff : BitVec 7) (part : Bool) (s : State) :
    exec (.cp h spc d gs gc doff part) s = execCp h spc d gs gc doff part s := rfl
@[simp] theorem exec_cpst (h : Header) (spc : Spc) (gs : G) (gc : G) (a : Src) (band : BitVec 2) (s : State) :
    exec (.cpst h spc gs gc a band) s = execCpst h spc gs gc a band s := rfl
@[simp] theorem exec_cpg (h : Header) (d : Dst) (gs : G) (c : Src) (s : State) :
    exec (.cpg h d gs c) s = execCpg h d gs c s := rfl
@[simp] theorem exec_cps (h : Header) (gs : G) (a : Src) (c : Src) (s : State) :
    exec (.cps h gs a c) s = execCps h gs a c s := rfl
@[simp] theorem exec_cpq (h : Header) (qn : BitVec 8) (gs : G) (gc : G) (s : State) :
    exec (.cpq h qn gs gc) s = execCpq h qn gs gc s := rfl
@[simp] theorem exec_cppub (h : Header) (spc : Spc) (obj : BitVec 8) (s : State) :
    exec (.cppub h spc obj) s = execCppub h spc obj s := rfl
@[simp] theorem exec_rfence (h : Header) (s : State) :
    exec (.rfence h) s = execRfence h s := rfl
@[simp] theorem exec_qpost (h : Header) (d : Dst) (c : Src) (gk : G) (gl : G) (qn : BitVec 4) (sigma : BitVec 32) (s : State) :
    exec (.qpost h d c gk gl qn sigma) s = execQpost h d c gk gl qn sigma s := rfl
@[simp] theorem exec_kvapp (h : Header) (gk : G) (gp : G) (a : Src) (s : State) :
    exec (.kvapp h gk gp a) s = execKvapp h gk gp a s := rfl
@[simp] theorem exec_coll (h : Header) (d : Dst) (gb : G) (s : State) :
    exec (.coll h d gb) s = execColl h d gb s := rfl
@[simp] theorem exec_trigarm (h : Header) (gi : G) (gb : G) (s : State) :
    exec (.trigarm h gi gb) s = execTrigarm h gi gb s := rfl
@[simp] theorem exec_trigclr (h : Header) (gi : G) (s : State) :
    exec (.trigclr h gi) s = execTrigclr h gi s := rfl
@[simp] theorem exec_tsend (h : Header) (gdev : G) (gi : G) (s : State) :
    exec (.tsend h gdev gi) s = execTsend h gdev gi s := rfl
@[simp] theorem exec_nextit (h : Header) (pd : P) (s : State) :
    exec (.nextit h pd) s = execNextit h pd s := rfl
@[simp] theorem exec_done (h : Header) (s : State) :
    exec (.done h) s = execDone h s := rfl
@[simp] theorem exec_spawn (h : Header) (ga : G) (s : State) :
    exec (.spawn h ga) s = execSpawn h ga s := rfl
@[simp] theorem exec_signal (h : Header) (ga : G) (s : State) :
    exec (.signal h ga) s = execSignal h ga s := rfl
@[simp] theorem exec_pendingValueArrival (c : Nat) (n : Nat) (k : Nat) (s : State) :
    exec (.pendingValueArrival c n k) s = execPendingValueArrival c n k s := rfl
@[simp] theorem exec_accessPerformed (c : Nat) (n : Nat) (k : Nat) (s : State) :
    exec (.accessPerformed c n k) s = execAccessPerformed c n k s := rfl
@[simp] theorem exec_targetFetchReady (c : Nat) (n : Nat) (b : Nat) (s : State) :
    exec (.targetFetchReady c n b) s = execTargetFetchReady c n b s := rfl
@[simp] theorem exec_engineStart (c : Nat) (e : Eng) (s : State) :
    exec (.engineStart c e) s = execEngineStart c e s := rfl
@[simp] theorem exec_readRetire (u : Nat) (s : State) :
    exec (.readRetire u) s = execReadRetire u s := rfl
@[simp] theorem exec_kStep (c : Nat) (s : State) :
    exec (.kStep c) s = execKStep c s := rfl
@[simp] theorem exec_copyElementStep (u : Nat) (s : State) :
    exec (.copyElementStep u) s = execCopyElementStep u s := rfl
@[simp] theorem exec_operationCommit (u : Nat) (s : State) :
    exec (.operationCommit u) s = execOperationCommit u s := rfl
@[simp] theorem exec_shadowPublish (c : Nat) (spc : Spc) (idx : Nat) (s : State) :
    exec (.shadowPublish c spc idx) s = execShadowPublish c spc idx s := rfl
@[simp] theorem exec_barrierRelease (c : Nat) (bar : Nat) (s : State) :
    exec (.barrierRelease c bar) s = execBarrierRelease c bar s := rfl
@[simp] theorem exec_waitLimitExpiry (w : Waiter) (s : State) :
    exec (.waitLimitExpiry w) s = execWaitLimitExpiry w s := rfl
@[simp] theorem exec_stackScan (u : Nat) (k : Nat) (s : State) :
    exec (.stackScan u k) s = execStackScan u k s := rfl
@[simp] theorem exec_stackPartialReturn (u : Nat) (k : Nat) (s : State) :
    exec (.stackPartialReturn u k) s = execStackPartialReturn u k s := rfl
@[simp] theorem exec_qpostAnswerComplete (u : Nat) (s : State) :
    exec (.qpostAnswerComplete u) s = execQpostAnswerComplete u s := rfl
@[simp] theorem exec_kvappPerformed (u : Nat) (s : State) :
    exec (.kvappPerformed u) s = execKvappPerformed u s := rfl
@[simp] theorem exec_collReceiveReduceStep (u : Nat) (ii : Nat) (part : List (BitVec 32)) (s : State) :
    exec (.collReceiveReduceStep u ii part) s = execCollReceiveReduceStep u ii part s := rfl
@[simp] theorem exec_collComplete (u : Nat) (o : CollEnd) (s : State) :
    exec (.collComplete u o) s = execCollComplete u o s := rfl
@[simp] theorem exec_collMemberTimeout (u : Nat) (s : State) :
    exec (.collMemberTimeout u) s = execCollMemberTimeout u s := rfl
@[simp] theorem exec_triggerPacketArrival (stack : Nat) (entry : Nat) (s : State) :
    exec (.triggerPacketArrival stack entry) s = execTriggerPacketArrival stack entry s := rfl
@[simp] theorem exec_triggerCommandStart (stack : Nat) (s : State) :
    exec (.triggerCommandStart stack) s = execTriggerCommandStart stack s := rfl
@[simp] theorem exec_triggerCommandComplete (stack : Nat) (s : State) :
    exec (.triggerCommandComplete stack) s = execTriggerCommandComplete stack s := rfl
@[simp] theorem exec_kernelComplete (lid : Nat) (s : State) :
    exec (.kernelComplete lid) s = execKernelComplete lid s := rfl
@[simp] theorem exec_sqEntryRead (q : Nat) (s : State) :
    exec (.sqEntryRead q) s = execSqEntryRead q s := rfl
@[simp] theorem exec_dispatchPlace (die : Nat) (s : State) :
    exec (.dispatchPlace die) s = execDispatchPlace die s := rfl
@[simp] theorem exec_victimSelection (die : Nat) (s : State) :
    exec (.victimSelection die) s = execVictimSelection die s := rfl
@[simp] theorem exec_shuttleAssign (lid : Nat) (s : State) :
    exec (.shuttleAssign lid) s = execShuttleAssign lid s := rfl
@[simp] theorem exec_nextitAnswer (c : Nat) (n : Nat) (s : State) :
    exec (.nextitAnswer c n) s = execNextitAnswer c n s := rfl
@[simp] theorem exec_taskYield (c : Nat) (k : Nat) (s : State) :
    exec (.taskYield c k) s = execTaskYield c k s := rfl
@[simp] theorem exec_yieldDeadlineExpiry (c : Nat) (k : Nat) (s : State) :
    exec (.yieldDeadlineExpiry c k) s = execYieldDeadlineExpiry c k s := rfl
@[simp] theorem exec_scanOut (c : Nat) (k : Nat) (s : State) :
    exec (.scanOut c k) s = execScanOut c k s := rfl
@[simp] theorem exec_taskRestore (token : Nat) (s : State) :
    exec (.taskRestore token) s = execTaskRestore token s := rfl
@[simp] theorem exec_faultStop (c : Nat) (k : Nat) (s : State) :
    exec (.faultStop c k) s = execFaultStop c k s := rfl
@[simp] theorem exec_faultVectoring (c : Nat) (k : Nat) (s : State) :
    exec (.faultVectoring c k) s = execFaultVectoring c k s := rfl
@[simp] theorem exec_faultQueueEntry (f : Nat) (s : State) :
    exec (.faultQueueEntry f) s = execFaultQueueEntry f s := rfl
@[simp] theorem exec_fqcmdResume (f : Nat) (token : Nat) (s : State) :
    exec (.fqcmdResume f token) s = execFqcmdResume f token s := rfl
@[simp] theorem exec_fqcmdTerminate (f : Nat) (token : Nat) (s : State) :
    exec (.fqcmdTerminate f token) s = execFqcmdTerminate f token s := rfl
@[simp] theorem exec_fqheadWrite (f : Nat) (v : BitVec 16) (s : State) :
    exec (.fqheadWrite f v) s = execFqheadWrite f v s := rfl
@[simp] theorem exec_eccCorrectableFreeze (c : Nat) (s : State) :
    exec (.eccCorrectableFreeze c) s = execEccCorrectableFreeze c s := rfl
@[simp] theorem exec_eccFreezeEnd (c : Nat) (s : State) :
    exec (.eccFreezeEnd c) s = execEccFreezeEnd c s := rfl
@[simp] theorem exec_onchipUncorrectableError (c : Nat) (st : ErrStore) (idx : Nat) (s : State) :
    exec (.onchipUncorrectableError c st idx) s = execOnchipUncorrectableError c st idx s := rfl
@[simp] theorem exec_patrolScrub (stack : Nat) (loc : Loc) (corr : Bool) (s : State) :
    exec (.patrolScrub stack loc corr) s = execPatrolScrub stack loc corr s := rfl
@[simp] theorem exec_bankSpare (stack : Nat) (die : Nat) (bank : Nat) (s : State) :
    exec (.bankSpare stack die bank) s = execBankSpare stack die bank s := rfl
@[simp] theorem exec_refresh (stack : Nat) (bank : Nat) (s : State) :
    exec (.refresh stack bank) s = execRefresh stack bank s := rfl
@[simp] theorem exec_debugStopped (ctx : Nat) (s : State) :
    exec (.debugStopped ctx) s = execDebugStopped ctx s := rfl
@[simp] theorem exec_breakpointHit (c : Nat) (n : Nat) (s : State) :
    exec (.breakpointHit c n) s = execBreakpointHit c n s := rfl
@[simp] theorem exec_telemetryTick (s : State) :
    exec (.telemetryTick) s = execTelemetryTick s := rfl
@[simp] theorem exec_dumpWrite (ctx : Nat) (s : State) :
    exec (.dumpWrite ctx) s = execDumpWrite ctx s := rfl
@[simp] theorem exec_checkpointEpochBegin (f : Nat) (s : State) :
    exec (.checkpointEpochBegin f) s = execCheckpointEpochBegin f s := rfl
@[simp] theorem exec_checkpointEpochComplete (f : Nat) (s : State) :
    exec (.checkpointEpochComplete f) s = execCheckpointEpochComplete f s := rfl
@[simp] theorem exec_replay (f : Nat) (ep : Nat) (s : State) :
    exec (.replay f ep) s = execReplay f ep s := rfl
@[simp] theorem exec_scrubComplete (q : Nat) (s : State) :
    exec (.scrubComplete q) s = execScrubComplete q s := rfl
@[simp] theorem exec_partmapWrite (v : BitVec 32) (s : State) :
    exec (.partmapWrite v) s = execPartmapWrite v s := rfl
@[simp] theorem exec_qmapWrite (v : BitVec 64) (s : State) :
    exec (.qmapWrite v) s = execQmapWrite v s := rfl
@[simp] theorem exec_ctxbindWrite (ctx : Nat) (v : BitVec 64) (s : State) :
    exec (.ctxbindWrite ctx v) s = execCtxbindWrite ctx v s := rfl
@[simp] theorem exec_ctxrootWrite (f : Nat) (ctx : Nat) (v : BitVec 64) (s : State) :
    exec (.ctxrootWrite f ctx v) s = execCtxrootWrite f ctx v s := rfl
@[simp] theorem exec_savepoolWrite (f : Nat) (ctx : Nat) (v : BitVec 64) (s : State) :
    exec (.savepoolWrite f ctx v) s = execSavepoolWrite f ctx v s := rfl
@[simp] theorem exec_contextEvbWrite (f : Nat) (ctx : Nat) (v : BitVec 64) (s : State) :
    exec (.contextEvbWrite f ctx v) s = execContextEvbWrite f ctx v s := rfl
@[simp] theorem exec_sqctlWrite (f : Nat) (q : Nat) (v : BitVec 64) (s : State) :
    exec (.sqctlWrite f q v) s = execSqctlWrite f q v s := rfl
@[simp] theorem exec_dbell (f : Nat) (q : Nat) (v : BitVec 32) (s : State) :
    exec (.dbell f q v) s = execDbell f q v s := rfl
@[simp] theorem exec_dbgctlStop (f : Nat) (ctx : Nat) (s : State) :
    exec (.dbgctlStop f ctx) s = execDbgctlStop f ctx s := rfl
@[simp] theorem exec_dbgctlForce (f : Nat) (ctx : Nat) (s : State) :
    exec (.dbgctlForce f ctx) s = execDbgctlForce f ctx s := rfl
@[simp] theorem exec_dbgctlGo (f : Nat) (ctx : Nat) (s : State) :
    exec (.dbgctlGo f ctx) s = execDbgctlGo f ctx s := rfl
@[simp] theorem exec_ttrigWrite (f : Nat) (ctx : Nat) (v : BitVec 64) (s : State) :
    exec (.ttrigWrite f ctx v) s = execTtrigWrite f ctx v s := rfl
@[simp] theorem exec_dumpctlGo (f : Nat) (ctx : Nat) (s : State) :
    exec (.dumpctlGo f ctx) s = execDumpctlGo f ctx s := rfl
@[simp] theorem exec_cktgtWrite (f : Nat) (v : BitVec 64) (s : State) :
    exec (.cktgtWrite f v) s = execCktgtWrite f v s := rfl
@[simp] theorem exec_pwrctlPp (v : BitVec 3) (s : State) :
    exec (.pwrctlPp v) s = execPwrctlPp v s := rfl
@[simp] theorem exec_pwrctlQgate (v : BitVec 4) (s : State) :
    exec (.pwrctlQgate v) s = execPwrctlQgate v s := rfl
@[simp] theorem exec_pwrctlSref (v : BitVec 8) (s : State) :
    exec (.pwrctlSref v) s = execPwrctlSref v s := rfl
@[simp] theorem exec_ppTransitionComplete (s : State) :
    exec (.ppTransitionComplete) s = execPpTransitionComplete s := rfl
@[simp] theorem exec_srefExitComplete (stack : Nat) (s : State) :
    exec (.srefExitComplete stack) s = execSrefExitComplete stack s := rfl
@[simp] theorem exec_pmcsrD3hot (s : State) :
    exec (.pmcsrD3hot) s = execPmcsrD3hot s := rfl
@[simp] theorem exec_junctionTrip (jmax : BitVec 16) (s : State) :
    exec (.junctionTrip jmax) s = execJunctionTrip jmax s := rfl
@[simp] theorem exec_getDebugNonce (s : State) :
    exec (.getDebugNonce) s = execGetDebugNonce s := rfl
@[simp] theorem exec_debugUnlock (tok : List Byte) (s : State) :
    exec (.debugUnlock tok) s = execDebugUnlock tok s := rfl
@[simp] theorem exec_lockInterfaceRequest (f : Nat) (s : State) :
    exec (.lockInterfaceRequest f) s = execLockInterfaceRequest f s := rfl
@[simp] theorem exec_getDeviceInterfaceReport (f : Nat) (s : State) :
    exec (.getDeviceInterfaceReport f) s = execGetDeviceInterfaceReport f s := rfl
@[simp] theorem exec_startInterfaceRequest (f : Nat) (nonce : BitVec 256) (s : State) :
    exec (.startInterfaceRequest f nonce) s = execStartInterfaceRequest f nonce s := rfl
@[simp] theorem exec_stopInterfaceRequest (f : Nat) (s : State) :
    exec (.stopInterfaceRequest f) s = execStopInterfaceRequest f s := rfl
@[simp] theorem exec_frozenItemWrite (f : Nat) (s : State) :
    exec (.frozenItemWrite f) s = execFrozenItemWrite f s := rfl
@[simp] theorem exec_keyProg (f : Nat) (set : Nat) (key : BitVec 256) (s : State) :
    exec (.keyProg f set key) s = execKeyProg f set key s := rfl
@[simp] theorem exec_kSetGo (f : Nat) (set : Nat) (s : State) :
    exec (.kSetGo f set) s = execKSetGo f set s := rfl
@[simp] theorem exec_kSetStop (f : Nat) (set : Nat) (s : State) :
    exec (.kSetStop f set) s = execKSetStop f set s := rfl
@[simp] theorem exec_keyset (f : Nat) (k : KeyUse) (key : BitVec 256) (s : State) :
    exec (.keyset f k key) s = execKeyset f k key s := rfl
@[simp] theorem exec_getMeasurements (s : State) :
    exec (.getMeasurements) s = execGetMeasurements s := rfl
@[simp] theorem exec_vfFlr (f : Nat) (s : State) :
    exec (.vfFlr f) s = execVfFlr f s := rfl
@[simp] theorem exec_pf0Flr (s : State) :
    exec (.pf0Flr) s = execPf0Flr s := rfl
@[simp] theorem exec_perstDeassert (s : State) :
    exec (.perstDeassert) s = execPerstDeassert s := rfl
@[simp] theorem exec_bringupComplete (ok : Bool) (s : State) :
    exec (.bringupComplete ok) s = execBringupComplete ok s := rfl
@[simp] theorem exec_bar2Access (f : Nat) (op : HostOp) (off : Nat) (size : Nat) (v : BitVec 64) (s : State) :
    exec (.bar2Access f op off size v) s = execBar2Access f op off size v s := rfl
@[simp] theorem exec_linkFlitReceive (port : Nat) (fl : Flit) (good : Bool) (s : State) :
    exec (.linkFlitReceive port fl good) s = execLinkFlitReceive port fl good s := rfl
@[simp] theorem exec_portRetrain (port : Nat) (two : Bool) (s : State) :
    exec (.portRetrain port two) s = execPortRetrain port two s := rfl
@[simp] theorem exec_laneRestore (port : Nat) (s : State) :
    exec (.laneRestore port) s = execLaneRestore port s := rfl
@[simp] theorem exec_e2eResend (port : Nat) (s : State) :
    exec (.e2eResend port) s = execE2eResend port s := rfl
@[simp] theorem exec_ingressRequest (port : Nat) (fl : Flit) (s : State) :
    exec (.ingressRequest port fl) s = execIngressRequest port fl s := rfl
@[simp] theorem exec_registerWrite (f : Nat) (r : HostReg) (v : BitVec 64) (s : State) :
    exec (.registerWrite f r v) s = execRegisterWrite f r v s := rfl
@[simp] theorem exec_salendCommand (cmd : Salend) (s : State) :
    exec (.salendCommand cmd) s = execSalendCommand cmd s := rfl
@[simp] theorem exec_hostInvalidation (ctx : Nat) (va : Option (BitVec 64)) (s : State) :
    exec (.hostInvalidation ctx va) s = execHostInvalidation ctx va s := rfl
@[simp] theorem exec_firmwarePlacement (c : Nat) (n : Nat) (pc : BitVec 64) (s : State) :
    exec (.firmwarePlacement c n pc) s = execFirmwarePlacement c n pc s := rfl

end Sys2Proof.Machine
end

