-- ==== Sys2Proof/Laws/Maps.lean ====
section
/-!
SUPPORT. What the map and memory operations of Machine/Maps.lean do: reading after writing, the keys staying in order, and the
canonical form of memory.
-/
namespace Sys2Proof.Machine

/-- The keys of a map rise. -/
abbrev rises {α : Type} (m : Sparse α) : Prop := (m.map (·.1)).Pairwise (· < ·)

/-! ### Reading after writing -/

theorem mget_mset_self {α : Type} (d : α) (m : Sparse α) (k : Nat) (v : α) : mget d (mset m k v) k = v := by
  induction m with
  | nil => simp [mset, mget]
  | cons e r ih =>
    obtain ⟨a, x⟩ := e
    simp only [mset]
    split
    · have : a ≠ k := by omega
      simp [mget, this, ih]
    · split <;> simp [mget]

theorem mget_mset_ne {α : Type} (d : α) (m : Sparse α) {k j : Nat} (v : α) (h : j ≠ k) :
    mget d (mset m k v) j = mget d m j := by
  induction m with
  | nil => simp [mset, mget, Ne.symm h]
  | cons e r ih =>
    obtain ⟨a, x⟩ := e
    simp only [mset]
    split
    · simp only [mget, ih]
    · split
      · subst a; simp [mget, Ne.symm h]
      · simp [mget, Ne.symm h]

theorem mget_mdel_self {α : Type} (d : α) (m : Sparse α) (k : Nat) : mget d (mdel m k) k = d := by
  induction m with
  | nil => rfl
  | cons e r ih =>
    obtain ⟨a, x⟩ := e
    by_cases h : a = k
    · simpa [mdel, h] using ih
    · simpa [mdel, mget, h] using ih

theorem mget_mdel_ne {α : Type} (d : α) (m : Sparse α) {k j : Nat} (h : j ≠ k) : mget d (mdel m k) j = mget d m j := by
  induction m with
  | nil => rfl
  | cons e r ih =>
    obtain ⟨a, x⟩ := e
    by_cases hk : a = k
    · subst a; simpa [mdel, mget, Ne.symm h] using ih
    · by_cases hj : a = j
      · subst hj; simp [mdel, mget, h]
      · simpa [mdel, mget, hk, hj] using ih

/-- A map reads what was put. -/
@[simp] theorem mget_mput_self {α : Type} [DecidableEq α] (d : α) (m : Sparse α) (k : Nat) (v : α) :
    mget d (mput d m k v) k = v := by
  unfold mput
  split
  · next h => rw [mget_mdel_self, h]
  · exact mget_mset_self ..

/-- Putting an entry leaves every other one. -/
theorem mget_mput_ne {α : Type} [DecidableEq α] (d : α) (m : Sparse α) {k j : Nat} (v : α) (h : j ≠ k) :
    mget d (mput d m k v) j = mget d m j := by
  unfold mput
  split
  · exact mget_mdel_ne d m h
  · exact mget_mset_ne d m v h

/-- Reading a map after an entry was put. -/
theorem mget_mput {α : Type} [DecidableEq α] (d : α) (m : Sparse α) (k j : Nat) (v : α) :
    mget d (mput d m k v) j = if j = k then v else mget d m j := by
  split
  · next h => subst h; simp
  · next h => exact mget_mput_ne d m v h

theorem mdel_mdel {α : Type} (m : Sparse α) (k : Nat) : mdel (mdel m k) k = mdel m k := by simp [mdel, List.filter_filter]

theorem mset_mset {α : Type} (m : Sparse α) (k : Nat) (v w : α) : mset (mset m k v) k w = mset m k w := by
  induction m with
  | nil => simp [mset]
  | cons e r ih =>
    obtain ⟨a, x⟩ := e
    rcases lt_trichotomy a k with h | h | h
    · simp [mset, h, ih]
    · subst h; simp [mset]
    · have h1 : ¬ a < k := by omega
      have h2 : a ≠ k := by omega
      simp [mset, h1, h2]

/-! ### The order of the keys -/

theorem mset_mem {α : Type} {m : Sparse α} {k : Nat} {v : α} {e : Nat × α} (h : e ∈ mset m k v) : e = (k, v) ∨ e ∈ m := by
  induction m with
  | nil => left; simpa [mset] using h
  | cons f r ih =>
    obtain ⟨a, x⟩ := f
    simp only [mset] at h
    split at h
    · rcases List.mem_cons.1 h with h | h
      · right; simp [h]
      · rcases ih h with h | h
        · left; exact h
        · right; simp [h]
    · split at h
      · rcases List.mem_cons.1 h with h | h
        · left; exact h
        · right; simp [h]
      · rcases List.mem_cons.1 h with h | h
        · left; exact h
        · right; exact h

theorem rises_mset {α : Type} {m : Sparse α} (h : rises m) (k : Nat) (v : α) : rises (mset m k v) := by
  induction m with
  | nil => simp [mset, rises]
  | cons f r ih =>
    obtain ⟨a, x⟩ := f
    simp only [rises, List.map_cons, List.pairwise_cons] at h ⊢
    obtain ⟨h1, h2⟩ := h
    simp only [mset]
    split
    · next hk =>
      simp only [List.map_cons, List.pairwise_cons]
      refine ⟨?_, ih h2⟩
      intro b hb
      obtain ⟨e, he, rfl⟩ := List.mem_map.1 hb
      rcases mset_mem he with rfl | he
      · exact hk
      · exact h1 _ (List.mem_map.2 ⟨e, he, rfl⟩)
    · next hk =>
      split
      · next hak => subst hak; exact List.pairwise_cons.2 ⟨h1, h2⟩
      · next hak =>
        simp only [List.map_cons, List.pairwise_cons, List.mem_cons]
        refine ⟨?_, h1, h2⟩
        rintro b (rfl | hb)
        · omega
        · have := h1 b hb; omega

theorem rises_mdel {α : Type} {m : Sparse α} (h : rises m) (k : Nat) : rises (mdel m k) := by
  have hs : List.Sublist ((mdel m k).map (·.1)) (m.map (·.1)) := List.Sublist.map _ List.filter_sublist
  exact h.sublist hs

theorem rises_mput {α : Type} [DecidableEq α] {m : Sparse α} (h : rises m) (d : α) (k : Nat) (v : α) : rises (mput d m k v) := by
  unfold mput
  split
  · exact rises_mdel h k
  · exact rises_mset h k v

/-! ### Memory -/

/-- Writing a byte keeps the canonical form. -/
theorem memWf_writeB {m : List Host.Cell} (h : memWf m) (k : Nat) (b : Byte) : memWf (writeB m k b) := by
  refine ⟨rises_mput h.1 0 k b, ?_⟩
  intro e he
  unfold writeB mput at he
  split at he
  · exact h.2 e (List.mem_filter.1 he).1
  · next hb =>
    rcases mset_mem he with rfl | he
    · exact hb
    · exact h.2 e he

/-- Writing bytes keeps the canonical form. -/
theorem memWf_writeN {m : List Host.Cell} (h : memWf m) (k n v : Nat) : memWf (writeN m k n v) := by
  induction n generalizing m k v with
  | zero => exact h
  | succ n ih => exact ih (memWf_writeB h k _) (k + 1) _

theorem memWf_nil : memWf [] := ⟨List.Pairwise.nil, by simp⟩

theorem readB_writeB (m : List Host.Cell) (k j : Nat) (b : Byte) :
    readB (writeB m k b) j = if j = k then b else readB m j := mget_mput 0 m k j b

/-- A byte outside what was written reads as before. -/
theorem readB_writeN_out {m : List Host.Cell} {k n v j : Nat} (h : j < k ∨ k + n ≤ j) :
    readB (writeN m k n v) j = readB m j := by
  induction n generalizing m k v with
  | zero => rfl
  | succ n ih =>
    rw [writeN, ih (by omega), readB_writeB]
    split
    · omega
    · rfl

/-- A byte of what was written. -/
theorem readB_writeN_in {m : List Host.Cell} {k n v i : Nat} (h : i < n) :
    readB (writeN m k n v) (k + i) = BitVec.ofNat 8 (v / 2^(8 * i)) := by
  induction n generalizing m k v i with
  | zero => omega
  | succ n ih =>
    rw [writeN]
    cases i with
    | zero =>
      rw [readB_writeN_out (by omega), readB_writeB]
      simp
    | succ i =>
      have e : k + (i + 1) = (k + 1) + i := by omega
      rw [e, ih (by omega), Nat.div_div_eq_div_mul, ← Nat.pow_add]
      congr 3; omega

/-- Reading what was written (R5). -/
theorem readN_writeN_self (m : List Host.Cell) (k n v : Nat) : readN (writeN m k n v) k n = v % 2^(8 * n) := by
  induction n generalizing m k v with
  | zero => simp [readN, Nat.mod_one]
  | succ n ih =>
    rw [readN, writeN, ih, readB_writeN_out (by omega), readB_writeB]
    simp only [if_true, BitVec.toNat_ofNat]
    have e : 8 * (n + 1) = 8 + 8 * n := by omega
    rw [e, Nat.pow_add, Nat.mod_mul]

/-- Bytes outside what was written read as before. -/
theorem readN_writeN_out {m : List Host.Cell} {k n v j l : Nat} (h : j + l ≤ k ∨ k + n ≤ j) :
    readN (writeN m k n v) j l = readN m j l := by
  induction l generalizing j with
  | zero => rfl
  | succ l ih => rw [readN, readN, readB_writeN_out (by omega), ih (by omega)]

end Sys2Proof.Machine
end

