-- ==== Sys2Proof/Laws/State.lean ====
section
/-!
SUPPORT. What each field of the state is after each of the operations of Machine/Base.lean that replace a part of it: one lemma
for each operation and field.
-/
namespace Sys2Proof.Machine

/-! ### setStrm -/

@[simp] theorem State.setStrm_now (s : State) (k : Nat) (x : Stream) : (s.setStrm k x).now = s.now := rfl
@[simp] theorem State.setStrm_strm (s : State) (k : Nat) (x : Stream) : (s.setStrm k x).strm = mput {} s.strm k x := rfl
@[simp] theorem State.setStrm_task (s : State) (k : Nat) (x : Stream) : (s.setStrm k x).task = s.task := rfl
@[simp] theorem State.setStrm_obj (s : State) (k : Nat) (x : Stream) : (s.setStrm k x).obj = s.obj := rfl
@[simp] theorem State.setStrm_ops (s : State) (k : Nat) (x : Stream) : (s.setStrm k x).ops = s.ops := rfl
@[simp] theorem State.setStrm_core (s : State) (k : Nat) (x : Stream) : (s.setStrm k x).core = s.core := rfl
@[simp] theorem State.setStrm_clus (s : State) (k : Nat) (x : Stream) : (s.setStrm k x).clus = s.clus := rfl
@[simp] theorem State.setStrm_mem (s : State) (k : Nat) (x : Stream) : (s.setStrm k x).mem = s.mem := rfl
@[simp] theorem State.setStrm_dirty (s : State) (k : Nat) (x : Stream) : (s.setStrm k x).dirty = s.dirty := rfl
@[simp] theorem State.setStrm_mpois (s : State) (k : Nat) (x : Stream) : (s.setStrm k x).mpois = s.mpois := rfl
@[simp] theorem State.setStrm_ctl (s : State) (k : Nat) (x : Stream) : (s.setStrm k x).ctl = s.ctl := rfl
@[simp] theorem State.setStrm_dev (s : State) (k : Nat) (x : Stream) : (s.setStrm k x).dev = s.dev := rfl
@[simp] theorem State.setStrm_resp (s : State) (k : Nat) (x : Stream) : (s.setStrm k x).resp = s.resp := rfl
@[simp] theorem State.setStrm_fresh (s : State) (k : Nat) (x : Stream) : (s.setStrm k x).fresh = s.fresh := rfl
@[simp] theorem State.setStrm_free (s : State) (k : Nat) (x : Stream) : (s.setStrm k x).free = s.free := rfl
@[simp] theorem State.setStrm_sched (s : State) (k : Nat) (x : Stream) : (s.setStrm k x).sched = s.sched := rfl
@[simp] theorem State.setStrm_stall (s : State) (k : Nat) (x : Stream) : (s.setStrm k x).stall = s.stall := rfl
@[simp] theorem State.setStrm_cur (s : State) (k : Nat) (x : Stream) : (s.setStrm k x).cur = s.cur := rfl

/-! ### setTask -/

@[simp] theorem State.setTask_now (s : State) (k : Nat) (x : Task) : (s.setTask k x).now = s.now := rfl
@[simp] theorem State.setTask_strm (s : State) (k : Nat) (x : Task) : (s.setTask k x).strm = s.strm := rfl
@[simp] theorem State.setTask_task (s : State) (k : Nat) (x : Task) : (s.setTask k x).task = mput {} s.task k x := rfl
@[simp] theorem State.setTask_obj (s : State) (k : Nat) (x : Task) : (s.setTask k x).obj = s.obj := rfl
@[simp] theorem State.setTask_ops (s : State) (k : Nat) (x : Task) : (s.setTask k x).ops = s.ops := rfl
@[simp] theorem State.setTask_core (s : State) (k : Nat) (x : Task) : (s.setTask k x).core = s.core := rfl
@[simp] theorem State.setTask_clus (s : State) (k : Nat) (x : Task) : (s.setTask k x).clus = s.clus := rfl
@[simp] theorem State.setTask_mem (s : State) (k : Nat) (x : Task) : (s.setTask k x).mem = s.mem := rfl
@[simp] theorem State.setTask_dirty (s : State) (k : Nat) (x : Task) : (s.setTask k x).dirty = s.dirty := rfl
@[simp] theorem State.setTask_mpois (s : State) (k : Nat) (x : Task) : (s.setTask k x).mpois = s.mpois := rfl
@[simp] theorem State.setTask_ctl (s : State) (k : Nat) (x : Task) : (s.setTask k x).ctl = s.ctl := rfl
@[simp] theorem State.setTask_dev (s : State) (k : Nat) (x : Task) : (s.setTask k x).dev = s.dev := rfl
@[simp] theorem State.setTask_resp (s : State) (k : Nat) (x : Task) : (s.setTask k x).resp = s.resp := rfl
@[simp] theorem State.setTask_fresh (s : State) (k : Nat) (x : Task) : (s.setTask k x).fresh = s.fresh := rfl
@[simp] theorem State.setTask_free (s : State) (k : Nat) (x : Task) : (s.setTask k x).free = s.free := rfl
@[simp] theorem State.setTask_sched (s : State) (k : Nat) (x : Task) : (s.setTask k x).sched = s.sched := rfl
@[simp] theorem State.setTask_stall (s : State) (k : Nat) (x : Task) : (s.setTask k x).stall = s.stall := rfl
@[simp] theorem State.setTask_cur (s : State) (k : Nat) (x : Task) : (s.setTask k x).cur = s.cur := rfl

/-! ### setCore -/

@[simp] theorem State.setCore_now (s : State) (k : Nat) (x : Core) : (s.setCore k x).now = s.now := rfl
@[simp] theorem State.setCore_strm (s : State) (k : Nat) (x : Core) : (s.setCore k x).strm = s.strm := rfl
@[simp] theorem State.setCore_task (s : State) (k : Nat) (x : Core) : (s.setCore k x).task = s.task := rfl
@[simp] theorem State.setCore_obj (s : State) (k : Nat) (x : Core) : (s.setCore k x).obj = s.obj := rfl
@[simp] theorem State.setCore_ops (s : State) (k : Nat) (x : Core) : (s.setCore k x).ops = s.ops := rfl
@[simp] theorem State.setCore_core (s : State) (k : Nat) (x : Core) : (s.setCore k x).core = mput {} s.core k x := rfl
@[simp] theorem State.setCore_clus (s : State) (k : Nat) (x : Core) : (s.setCore k x).clus = s.clus := rfl
@[simp] theorem State.setCore_mem (s : State) (k : Nat) (x : Core) : (s.setCore k x).mem = s.mem := rfl
@[simp] theorem State.setCore_dirty (s : State) (k : Nat) (x : Core) : (s.setCore k x).dirty = s.dirty := rfl
@[simp] theorem State.setCore_mpois (s : State) (k : Nat) (x : Core) : (s.setCore k x).mpois = s.mpois := rfl
@[simp] theorem State.setCore_ctl (s : State) (k : Nat) (x : Core) : (s.setCore k x).ctl = s.ctl := rfl
@[simp] theorem State.setCore_dev (s : State) (k : Nat) (x : Core) : (s.setCore k x).dev = s.dev := rfl
@[simp] theorem State.setCore_resp (s : State) (k : Nat) (x : Core) : (s.setCore k x).resp = s.resp := rfl
@[simp] theorem State.setCore_fresh (s : State) (k : Nat) (x : Core) : (s.setCore k x).fresh = s.fresh := rfl
@[simp] theorem State.setCore_free (s : State) (k : Nat) (x : Core) : (s.setCore k x).free = s.free := rfl
@[simp] theorem State.setCore_sched (s : State) (k : Nat) (x : Core) : (s.setCore k x).sched = s.sched := rfl
@[simp] theorem State.setCore_stall (s : State) (k : Nat) (x : Core) : (s.setCore k x).stall = s.stall := rfl
@[simp] theorem State.setCore_cur (s : State) (k : Nat) (x : Core) : (s.setCore k x).cur = s.cur := rfl

/-! ### setCnt -/

@[simp] theorem State.setCnt_now (s : State) (k : Nat) (x : Cnt) : (s.setCnt k x).now = s.now := rfl
@[simp] theorem State.setCnt_strm (s : State) (k : Nat) (x : Cnt) : (s.setCnt k x).strm = s.strm := rfl
@[simp] theorem State.setCnt_task (s : State) (k : Nat) (x : Cnt) : (s.setCnt k x).task = s.task := rfl
@[simp] theorem State.setCnt_obj (s : State) (k : Nat) (x : Cnt) : (s.setCnt k x).obj = { s.obj with cnts := mput {} s.obj.cnts k x } := rfl
@[simp] theorem State.setCnt_ops (s : State) (k : Nat) (x : Cnt) : (s.setCnt k x).ops = s.ops := rfl
@[simp] theorem State.setCnt_core (s : State) (k : Nat) (x : Cnt) : (s.setCnt k x).core = s.core := rfl
@[simp] theorem State.setCnt_clus (s : State) (k : Nat) (x : Cnt) : (s.setCnt k x).clus = s.clus := rfl
@[simp] theorem State.setCnt_mem (s : State) (k : Nat) (x : Cnt) : (s.setCnt k x).mem = s.mem := rfl
@[simp] theorem State.setCnt_dirty (s : State) (k : Nat) (x : Cnt) : (s.setCnt k x).dirty = s.dirty := rfl
@[simp] theorem State.setCnt_mpois (s : State) (k : Nat) (x : Cnt) : (s.setCnt k x).mpois = s.mpois := rfl
@[simp] theorem State.setCnt_ctl (s : State) (k : Nat) (x : Cnt) : (s.setCnt k x).ctl = s.ctl := rfl
@[simp] theorem State.setCnt_dev (s : State) (k : Nat) (x : Cnt) : (s.setCnt k x).dev = s.dev := rfl
@[simp] theorem State.setCnt_resp (s : State) (k : Nat) (x : Cnt) : (s.setCnt k x).resp = s.resp := rfl
@[simp] theorem State.setCnt_fresh (s : State) (k : Nat) (x : Cnt) : (s.setCnt k x).fresh = s.fresh := rfl
@[simp] theorem State.setCnt_free (s : State) (k : Nat) (x : Cnt) : (s.setCnt k x).free = s.free := rfl
@[simp] theorem State.setCnt_sched (s : State) (k : Nat) (x : Cnt) : (s.setCnt k x).sched = s.sched := rfl
@[simp] theorem State.setCnt_stall (s : State) (k : Nat) (x : Cnt) : (s.setCnt k x).stall = s.stall := rfl
@[simp] theorem State.setCnt_cur (s : State) (k : Nat) (x : Cnt) : (s.setCnt k x).cur = s.cur := rfl

/-! ### setFill -/

@[simp] theorem State.setFill_now (s : State) (k : Nat) (x : Fill) : (s.setFill k x).now = s.now := rfl
@[simp] theorem State.setFill_strm (s : State) (k : Nat) (x : Fill) : (s.setFill k x).strm = s.strm := rfl
@[simp] theorem State.setFill_task (s : State) (k : Nat) (x : Fill) : (s.setFill k x).task = s.task := rfl
@[simp] theorem State.setFill_obj (s : State) (k : Nat) (x : Fill) : (s.setFill k x).obj = { s.obj with fills := mput {} s.obj.fills k x } := rfl
@[simp] theorem State.setFill_ops (s : State) (k : Nat) (x : Fill) : (s.setFill k x).ops = s.ops := rfl
@[simp] theorem State.setFill_core (s : State) (k : Nat) (x : Fill) : (s.setFill k x).core = s.core := rfl
@[simp] theorem State.setFill_clus (s : State) (k : Nat) (x : Fill) : (s.setFill k x).clus = s.clus := rfl
@[simp] theorem State.setFill_mem (s : State) (k : Nat) (x : Fill) : (s.setFill k x).mem = s.mem := rfl
@[simp] theorem State.setFill_dirty (s : State) (k : Nat) (x : Fill) : (s.setFill k x).dirty = s.dirty := rfl
@[simp] theorem State.setFill_mpois (s : State) (k : Nat) (x : Fill) : (s.setFill k x).mpois = s.mpois := rfl
@[simp] theorem State.setFill_ctl (s : State) (k : Nat) (x : Fill) : (s.setFill k x).ctl = s.ctl := rfl
@[simp] theorem State.setFill_dev (s : State) (k : Nat) (x : Fill) : (s.setFill k x).dev = s.dev := rfl
@[simp] theorem State.setFill_resp (s : State) (k : Nat) (x : Fill) : (s.setFill k x).resp = s.resp := rfl
@[simp] theorem State.setFill_fresh (s : State) (k : Nat) (x : Fill) : (s.setFill k x).fresh = s.fresh := rfl
@[simp] theorem State.setFill_free (s : State) (k : Nat) (x : Fill) : (s.setFill k x).free = s.free := rfl
@[simp] theorem State.setFill_sched (s : State) (k : Nat) (x : Fill) : (s.setFill k x).sched = s.sched := rfl
@[simp] theorem State.setFill_stall (s : State) (k : Nat) (x : Fill) : (s.setFill k x).stall = s.stall := rfl
@[simp] theorem State.setFill_cur (s : State) (k : Nat) (x : Fill) : (s.setFill k x).cur = s.cur := rfl

/-! ### setBar -/

@[simp] theorem State.setBar_now (s : State) (k : Nat) (x : Bar) : (s.setBar k x).now = s.now := rfl
@[simp] theorem State.setBar_strm (s : State) (k : Nat) (x : Bar) : (s.setBar k x).strm = s.strm := rfl
@[simp] theorem State.setBar_task (s : State) (k : Nat) (x : Bar) : (s.setBar k x).task = s.task := rfl
@[simp] theorem State.setBar_obj (s : State) (k : Nat) (x : Bar) : (s.setBar k x).obj = { s.obj with bars := mput {} s.obj.bars k x } := rfl
@[simp] theorem State.setBar_ops (s : State) (k : Nat) (x : Bar) : (s.setBar k x).ops = s.ops := rfl
@[simp] theorem State.setBar_core (s : State) (k : Nat) (x : Bar) : (s.setBar k x).core = s.core := rfl
@[simp] theorem State.setBar_clus (s : State) (k : Nat) (x : Bar) : (s.setBar k x).clus = s.clus := rfl
@[simp] theorem State.setBar_mem (s : State) (k : Nat) (x : Bar) : (s.setBar k x).mem = s.mem := rfl
@[simp] theorem State.setBar_dirty (s : State) (k : Nat) (x : Bar) : (s.setBar k x).dirty = s.dirty := rfl
@[simp] theorem State.setBar_mpois (s : State) (k : Nat) (x : Bar) : (s.setBar k x).mpois = s.mpois := rfl
@[simp] theorem State.setBar_ctl (s : State) (k : Nat) (x : Bar) : (s.setBar k x).ctl = s.ctl := rfl
@[simp] theorem State.setBar_dev (s : State) (k : Nat) (x : Bar) : (s.setBar k x).dev = s.dev := rfl
@[simp] theorem State.setBar_resp (s : State) (k : Nat) (x : Bar) : (s.setBar k x).resp = s.resp := rfl
@[simp] theorem State.setBar_fresh (s : State) (k : Nat) (x : Bar) : (s.setBar k x).fresh = s.fresh := rfl
@[simp] theorem State.setBar_free (s : State) (k : Nat) (x : Bar) : (s.setBar k x).free = s.free := rfl
@[simp] theorem State.setBar_sched (s : State) (k : Nat) (x : Bar) : (s.setBar k x).sched = s.sched := rfl
@[simp] theorem State.setBar_stall (s : State) (k : Nat) (x : Bar) : (s.setBar k x).stall = s.stall := rfl
@[simp] theorem State.setBar_cur (s : State) (k : Nat) (x : Bar) : (s.setBar k x).cur = s.cur := rfl

/-! ### setCtx -/

@[simp] theorem State.setCtx_now (s : State) (k : Nat) (x : Ctx) : (s.setCtx k x).now = s.now := rfl
@[simp] theorem State.setCtx_strm (s : State) (k : Nat) (x : Ctx) : (s.setCtx k x).strm = s.strm := rfl
@[simp] theorem State.setCtx_task (s : State) (k : Nat) (x : Ctx) : (s.setCtx k x).task = s.task := rfl
@[simp] theorem State.setCtx_obj (s : State) (k : Nat) (x : Ctx) : (s.setCtx k x).obj = s.obj := rfl
@[simp] theorem State.setCtx_ops (s : State) (k : Nat) (x : Ctx) : (s.setCtx k x).ops = s.ops := rfl
@[simp] theorem State.setCtx_core (s : State) (k : Nat) (x : Ctx) : (s.setCtx k x).core = s.core := rfl
@[simp] theorem State.setCtx_clus (s : State) (k : Nat) (x : Ctx) : (s.setCtx k x).clus = s.clus := rfl
@[simp] theorem State.setCtx_mem (s : State) (k : Nat) (x : Ctx) : (s.setCtx k x).mem = s.mem := rfl
@[simp] theorem State.setCtx_dirty (s : State) (k : Nat) (x : Ctx) : (s.setCtx k x).dirty = s.dirty := rfl
@[simp] theorem State.setCtx_mpois (s : State) (k : Nat) (x : Ctx) : (s.setCtx k x).mpois = s.mpois := rfl
@[simp] theorem State.setCtx_ctl (s : State) (k : Nat) (x : Ctx) : (s.setCtx k x).ctl = s.ctl := rfl
@[simp] theorem State.setCtx_dev (s : State) (k : Nat) (x : Ctx) : (s.setCtx k x).dev = { s.dev with ctxs := mput {} s.dev.ctxs k x } := rfl
@[simp] theorem State.setCtx_resp (s : State) (k : Nat) (x : Ctx) : (s.setCtx k x).resp = s.resp := rfl
@[simp] theorem State.setCtx_fresh (s : State) (k : Nat) (x : Ctx) : (s.setCtx k x).fresh = s.fresh := rfl
@[simp] theorem State.setCtx_free (s : State) (k : Nat) (x : Ctx) : (s.setCtx k x).free = s.free := rfl
@[simp] theorem State.setCtx_sched (s : State) (k : Nat) (x : Ctx) : (s.setCtx k x).sched = s.sched := rfl
@[simp] theorem State.setCtx_stall (s : State) (k : Nat) (x : Ctx) : (s.setCtx k x).stall = s.stall := rfl
@[simp] theorem State.setCtx_cur (s : State) (k : Nat) (x : Ctx) : (s.setCtx k x).cur = s.cur := rfl

/-! ### setFun -/

@[simp] theorem State.setFun_now (s : State) (k : Nat) (x : Func) : (s.setFun k x).now = s.now := rfl
@[simp] theorem State.setFun_strm (s : State) (k : Nat) (x : Func) : (s.setFun k x).strm = s.strm := rfl
@[simp] theorem State.setFun_task (s : State) (k : Nat) (x : Func) : (s.setFun k x).task = s.task := rfl
@[simp] theorem State.setFun_obj (s : State) (k : Nat) (x : Func) : (s.setFun k x).obj = s.obj := rfl
@[simp] theorem State.setFun_ops (s : State) (k : Nat) (x : Func) : (s.setFun k x).ops = s.ops := rfl
@[simp] theorem State.setFun_core (s : State) (k : Nat) (x : Func) : (s.setFun k x).core = s.core := rfl
@[simp] theorem State.setFun_clus (s : State) (k : Nat) (x : Func) : (s.setFun k x).clus = s.clus := rfl
@[simp] theorem State.setFun_mem (s : State) (k : Nat) (x : Func) : (s.setFun k x).mem = s.mem := rfl
@[simp] theorem State.setFun_dirty (s : State) (k : Nat) (x : Func) : (s.setFun k x).dirty = s.dirty := rfl
@[simp] theorem State.setFun_mpois (s : State) (k : Nat) (x : Func) : (s.setFun k x).mpois = s.mpois := rfl
@[simp] theorem State.setFun_ctl (s : State) (k : Nat) (x : Func) : (s.setFun k x).ctl = s.ctl := rfl
@[simp] theorem State.setFun_dev (s : State) (k : Nat) (x : Func) : (s.setFun k x).dev = { s.dev with funs := mput {} s.dev.funs k x } := rfl
@[simp] theorem State.setFun_resp (s : State) (k : Nat) (x : Func) : (s.setFun k x).resp = s.resp := rfl
@[simp] theorem State.setFun_fresh (s : State) (k : Nat) (x : Func) : (s.setFun k x).fresh = s.fresh := rfl
@[simp] theorem State.setFun_free (s : State) (k : Nat) (x : Func) : (s.setFun k x).free = s.free := rfl
@[simp] theorem State.setFun_sched (s : State) (k : Nat) (x : Func) : (s.setFun k x).sched = s.sched := rfl
@[simp] theorem State.setFun_stall (s : State) (k : Nat) (x : Func) : (s.setFun k x).stall = s.stall := rfl
@[simp] theorem State.setFun_cur (s : State) (k : Nat) (x : Func) : (s.setFun k x).cur = s.cur := rfl

/-! ### setSq -/

@[simp] theorem State.setSq_now (s : State) (k : Nat) (x : Sq) : (s.setSq k x).now = s.now := rfl
@[simp] theorem State.setSq_strm (s : State) (k : Nat) (x : Sq) : (s.setSq k x).strm = s.strm := rfl
@[simp] theorem State.setSq_task (s : State) (k : Nat) (x : Sq) : (s.setSq k x).task = s.task := rfl
@[simp] theorem State.setSq_obj (s : State) (k : Nat) (x : Sq) : (s.setSq k x).obj = s.obj := rfl
@[simp] theorem State.setSq_ops (s : State) (k : Nat) (x : Sq) : (s.setSq k x).ops = s.ops := rfl
@[simp] theorem State.setSq_core (s : State) (k : Nat) (x : Sq) : (s.setSq k x).core = s.core := rfl
@[simp] theorem State.setSq_clus (s : State) (k : Nat) (x : Sq) : (s.setSq k x).clus = s.clus := rfl
@[simp] theorem State.setSq_mem (s : State) (k : Nat) (x : Sq) : (s.setSq k x).mem = s.mem := rfl
@[simp] theorem State.setSq_dirty (s : State) (k : Nat) (x : Sq) : (s.setSq k x).dirty = s.dirty := rfl
@[simp] theorem State.setSq_mpois (s : State) (k : Nat) (x : Sq) : (s.setSq k x).mpois = s.mpois := rfl
@[simp] theorem State.setSq_ctl (s : State) (k : Nat) (x : Sq) : (s.setSq k x).ctl = s.ctl := rfl
@[simp] theorem State.setSq_dev (s : State) (k : Nat) (x : Sq) : (s.setSq k x).dev = { s.dev with sqs := mput {} s.dev.sqs k x } := rfl
@[simp] theorem State.setSq_resp (s : State) (k : Nat) (x : Sq) : (s.setSq k x).resp = s.resp := rfl
@[simp] theorem State.setSq_fresh (s : State) (k : Nat) (x : Sq) : (s.setSq k x).fresh = s.fresh := rfl
@[simp] theorem State.setSq_free (s : State) (k : Nat) (x : Sq) : (s.setSq k x).free = s.free := rfl
@[simp] theorem State.setSq_sched (s : State) (k : Nat) (x : Sq) : (s.setSq k x).sched = s.sched := rfl
@[simp] theorem State.setSq_stall (s : State) (k : Nat) (x : Sq) : (s.setSq k x).stall = s.stall := rfl
@[simp] theorem State.setSq_cur (s : State) (k : Nat) (x : Sq) : (s.setSq k x).cur = s.cur := rfl

/-! ### setStack -/

@[simp] theorem State.setStack_now (s : State) (k : Nat) (x : Stack) : (s.setStack k x).now = s.now := rfl
@[simp] theorem State.setStack_strm (s : State) (k : Nat) (x : Stack) : (s.setStack k x).strm = s.strm := rfl
@[simp] theorem State.setStack_task (s : State) (k : Nat) (x : Stack) : (s.setStack k x).task = s.task := rfl
@[simp] theorem State.setStack_obj (s : State) (k : Nat) (x : Stack) : (s.setStack k x).obj = s.obj := rfl
@[simp] theorem State.setStack_ops (s : State) (k : Nat) (x : Stack) : (s.setStack k x).ops = s.ops := rfl
@[simp] theorem State.setStack_core (s : State) (k : Nat) (x : Stack) : (s.setStack k x).core = s.core := rfl
@[simp] theorem State.setStack_clus (s : State) (k : Nat) (x : Stack) : (s.setStack k x).clus = s.clus := rfl
@[simp] theorem State.setStack_mem (s : State) (k : Nat) (x : Stack) : (s.setStack k x).mem = s.mem := rfl
@[simp] theorem State.setStack_dirty (s : State) (k : Nat) (x : Stack) : (s.setStack k x).dirty = s.dirty := rfl
@[simp] theorem State.setStack_mpois (s : State) (k : Nat) (x : Stack) : (s.setStack k x).mpois = s.mpois := rfl
@[simp] theorem State.setStack_ctl (s : State) (k : Nat) (x : Stack) : (s.setStack k x).ctl = s.ctl := rfl
@[simp] theorem State.setStack_dev (s : State) (k : Nat) (x : Stack) : (s.setStack k x).dev = { s.dev with stks := mput {} s.dev.stks k x } := rfl
@[simp] theorem State.setStack_resp (s : State) (k : Nat) (x : Stack) : (s.setStack k x).resp = s.resp := rfl
@[simp] theorem State.setStack_fresh (s : State) (k : Nat) (x : Stack) : (s.setStack k x).fresh = s.fresh := rfl
@[simp] theorem State.setStack_free (s : State) (k : Nat) (x : Stack) : (s.setStack k x).free = s.free := rfl
@[simp] theorem State.setStack_sched (s : State) (k : Nat) (x : Stack) : (s.setStack k x).sched = s.sched := rfl
@[simp] theorem State.setStack_stall (s : State) (k : Nat) (x : Stack) : (s.setStack k x).stall = s.stall := rfl
@[simp] theorem State.setStack_cur (s : State) (k : Nat) (x : Stack) : (s.setStack k x).cur = s.cur := rfl

/-! ### setPort -/

@[simp] theorem State.setPort_now (s : State) (k : Nat) (x : Port) : (s.setPort k x).now = s.now := rfl
@[simp] theorem State.setPort_strm (s : State) (k : Nat) (x : Port) : (s.setPort k x).strm = s.strm := rfl
@[simp] theorem State.setPort_task (s : State) (k : Nat) (x : Port) : (s.setPort k x).task = s.task := rfl
@[simp] theorem State.setPort_obj (s : State) (k : Nat) (x : Port) : (s.setPort k x).obj = s.obj := rfl
@[simp] theorem State.setPort_ops (s : State) (k : Nat) (x : Port) : (s.setPort k x).ops = s.ops := rfl
@[simp] theorem State.setPort_core (s : State) (k : Nat) (x : Port) : (s.setPort k x).core = s.core := rfl
@[simp] theorem State.setPort_clus (s : State) (k : Nat) (x : Port) : (s.setPort k x).clus = s.clus := rfl
@[simp] theorem State.setPort_mem (s : State) (k : Nat) (x : Port) : (s.setPort k x).mem = s.mem := rfl
@[simp] theorem State.setPort_dirty (s : State) (k : Nat) (x : Port) : (s.setPort k x).dirty = s.dirty := rfl
@[simp] theorem State.setPort_mpois (s : State) (k : Nat) (x : Port) : (s.setPort k x).mpois = s.mpois := rfl
@[simp] theorem State.setPort_ctl (s : State) (k : Nat) (x : Port) : (s.setPort k x).ctl = s.ctl := rfl
@[simp] theorem State.setPort_dev (s : State) (k : Nat) (x : Port) : (s.setPort k x).dev = { s.dev with ports := mput {} s.dev.ports k x } := rfl
@[simp] theorem State.setPort_resp (s : State) (k : Nat) (x : Port) : (s.setPort k x).resp = s.resp := rfl
@[simp] theorem State.setPort_fresh (s : State) (k : Nat) (x : Port) : (s.setPort k x).fresh = s.fresh := rfl
@[simp] theorem State.setPort_free (s : State) (k : Nat) (x : Port) : (s.setPort k x).free = s.free := rfl
@[simp] theorem State.setPort_sched (s : State) (k : Nat) (x : Port) : (s.setPort k x).sched = s.sched := rfl
@[simp] theorem State.setPort_stall (s : State) (k : Nat) (x : Port) : (s.setPort k x).stall = s.stall := rfl
@[simp] theorem State.setPort_cur (s : State) (k : Nat) (x : Port) : (s.setPort k x).cur = s.cur := rfl

/-! ### setPf0 -/

@[simp] theorem State.setPf0_now (s : State) (x : Pf0) : (s.setPf0 x).now = s.now := rfl
@[simp] theorem State.setPf0_strm (s : State) (x : Pf0) : (s.setPf0 x).strm = s.strm := rfl
@[simp] theorem State.setPf0_task (s : State) (x : Pf0) : (s.setPf0 x).task = s.task := rfl
@[simp] theorem State.setPf0_obj (s : State) (x : Pf0) : (s.setPf0 x).obj = s.obj := rfl
@[simp] theorem State.setPf0_ops (s : State) (x : Pf0) : (s.setPf0 x).ops = s.ops := rfl
@[simp] theorem State.setPf0_core (s : State) (x : Pf0) : (s.setPf0 x).core = s.core := rfl
@[simp] theorem State.setPf0_clus (s : State) (x : Pf0) : (s.setPf0 x).clus = s.clus := rfl
@[simp] theorem State.setPf0_mem (s : State) (x : Pf0) : (s.setPf0 x).mem = s.mem := rfl
@[simp] theorem State.setPf0_dirty (s : State) (x : Pf0) : (s.setPf0 x).dirty = s.dirty := rfl
@[simp] theorem State.setPf0_mpois (s : State) (x : Pf0) : (s.setPf0 x).mpois = s.mpois := rfl
@[simp] theorem State.setPf0_ctl (s : State) (x : Pf0) : (s.setPf0 x).ctl = s.ctl := rfl
@[simp] theorem State.setPf0_dev (s : State) (x : Pf0) : (s.setPf0 x).dev = { s.dev with pf0 := x } := rfl
@[simp] theorem State.setPf0_resp (s : State) (x : Pf0) : (s.setPf0 x).resp = s.resp := rfl
@[simp] theorem State.setPf0_fresh (s : State) (x : Pf0) : (s.setPf0 x).fresh = s.fresh := rfl
@[simp] theorem State.setPf0_free (s : State) (x : Pf0) : (s.setPf0 x).free = s.free := rfl
@[simp] theorem State.setPf0_sched (s : State) (x : Pf0) : (s.setPf0 x).sched = s.sched := rfl
@[simp] theorem State.setPf0_stall (s : State) (x : Pf0) : (s.setPf0 x).stall = s.stall := rfl
@[simp] theorem State.setPf0_cur (s : State) (x : Pf0) : (s.setPf0 x).cur = s.cur := rfl

/-! ### setSec -/

@[simp] theorem State.setSec_now (s : State) (x : Sec) : (s.setSec x).now = s.now := rfl
@[simp] theorem State.setSec_strm (s : State) (x : Sec) : (s.setSec x).strm = s.strm := rfl
@[simp] theorem State.setSec_task (s : State) (x : Sec) : (s.setSec x).task = s.task := rfl
@[simp] theorem State.setSec_obj (s : State) (x : Sec) : (s.setSec x).obj = s.obj := rfl
@[simp] theorem State.setSec_ops (s : State) (x : Sec) : (s.setSec x).ops = s.ops := rfl
@[simp] theorem State.setSec_core (s : State) (x : Sec) : (s.setSec x).core = s.core := rfl
@[simp] theorem State.setSec_clus (s : State) (x : Sec) : (s.setSec x).clus = s.clus := rfl
@[simp] theorem State.setSec_mem (s : State) (x : Sec) : (s.setSec x).mem = s.mem := rfl
@[simp] theorem State.setSec_dirty (s : State) (x : Sec) : (s.setSec x).dirty = s.dirty := rfl
@[simp] theorem State.setSec_mpois (s : State) (x : Sec) : (s.setSec x).mpois = s.mpois := rfl
@[simp] theorem State.setSec_ctl (s : State) (x : Sec) : (s.setSec x).ctl = s.ctl := rfl
@[simp] theorem State.setSec_dev (s : State) (x : Sec) : (s.setSec x).dev = { s.dev with sec := x } := rfl
@[simp] theorem State.setSec_resp (s : State) (x : Sec) : (s.setSec x).resp = s.resp := rfl
@[simp] theorem State.setSec_fresh (s : State) (x : Sec) : (s.setSec x).fresh = s.fresh := rfl
@[simp] theorem State.setSec_free (s : State) (x : Sec) : (s.setSec x).free = s.free := rfl
@[simp] theorem State.setSec_sched (s : State) (x : Sec) : (s.setSec x).sched = s.sched := rfl
@[simp] theorem State.setSec_stall (s : State) (x : Sec) : (s.setSec x).stall = s.stall := rfl
@[simp] theorem State.setSec_cur (s : State) (x : Sec) : (s.setSec x).cur = s.cur := rfl

/-! ### setCtl -/

@[simp] theorem State.setCtl_now (s : State) (x : Ctl) : (s.setCtl x).now = s.now := rfl
@[simp] theorem State.setCtl_strm (s : State) (x : Ctl) : (s.setCtl x).strm = s.strm := rfl
@[simp] theorem State.setCtl_task (s : State) (x : Ctl) : (s.setCtl x).task = s.task := rfl
@[simp] theorem State.setCtl_obj (s : State) (x : Ctl) : (s.setCtl x).obj = s.obj := rfl
@[simp] theorem State.setCtl_ops (s : State) (x : Ctl) : (s.setCtl x).ops = s.ops := rfl
@[simp] theorem State.setCtl_core (s : State) (x : Ctl) : (s.setCtl x).core = s.core := rfl
@[simp] theorem State.setCtl_clus (s : State) (x : Ctl) : (s.setCtl x).clus = s.clus := rfl
@[simp] theorem State.setCtl_mem (s : State) (x : Ctl) : (s.setCtl x).mem = s.mem := rfl
@[simp] theorem State.setCtl_dirty (s : State) (x : Ctl) : (s.setCtl x).dirty = s.dirty := rfl
@[simp] theorem State.setCtl_mpois (s : State) (x : Ctl) : (s.setCtl x).mpois = s.mpois := rfl
@[simp] theorem State.setCtl_ctl (s : State) (x : Ctl) : (s.setCtl x).ctl = x := rfl
@[simp] theorem State.setCtl_dev (s : State) (x : Ctl) : (s.setCtl x).dev = s.dev := rfl
@[simp] theorem State.setCtl_resp (s : State) (x : Ctl) : (s.setCtl x).resp = s.resp := rfl
@[simp] theorem State.setCtl_fresh (s : State) (x : Ctl) : (s.setCtl x).fresh = s.fresh := rfl
@[simp] theorem State.setCtl_free (s : State) (x : Ctl) : (s.setCtl x).free = s.free := rfl
@[simp] theorem State.setCtl_sched (s : State) (x : Ctl) : (s.setCtl x).sched = s.sched := rfl
@[simp] theorem State.setCtl_stall (s : State) (x : Ctl) : (s.setCtl x).stall = s.stall := rfl
@[simp] theorem State.setCtl_cur (s : State) (x : Ctl) : (s.setCtl x).cur = s.cur := rfl

/-! ### setMem -/

@[simp] theorem State.setMem_now (s : State) (x : List Host.Cell) : (s.setMem x).now = s.now := rfl
@[simp] theorem State.setMem_strm (s : State) (x : List Host.Cell) : (s.setMem x).strm = s.strm := rfl
@[simp] theorem State.setMem_task (s : State) (x : List Host.Cell) : (s.setMem x).task = s.task := rfl
@[simp] theorem State.setMem_obj (s : State) (x : List Host.Cell) : (s.setMem x).obj = s.obj := rfl
@[simp] theorem State.setMem_ops (s : State) (x : List Host.Cell) : (s.setMem x).ops = s.ops := rfl
@[simp] theorem State.setMem_core (s : State) (x : List Host.Cell) : (s.setMem x).core = s.core := rfl
@[simp] theorem State.setMem_clus (s : State) (x : List Host.Cell) : (s.setMem x).clus = s.clus := rfl
@[simp] theorem State.setMem_mem (s : State) (x : List Host.Cell) : (s.setMem x).mem = x := rfl
@[simp] theorem State.setMem_dirty (s : State) (x : List Host.Cell) : (s.setMem x).dirty = s.dirty := rfl
@[simp] theorem State.setMem_mpois (s : State) (x : List Host.Cell) : (s.setMem x).mpois = s.mpois := rfl
@[simp] theorem State.setMem_ctl (s : State) (x : List Host.Cell) : (s.setMem x).ctl = s.ctl := rfl
@[simp] theorem State.setMem_dev (s : State) (x : List Host.Cell) : (s.setMem x).dev = s.dev := rfl
@[simp] theorem State.setMem_resp (s : State) (x : List Host.Cell) : (s.setMem x).resp = s.resp := rfl
@[simp] theorem State.setMem_fresh (s : State) (x : List Host.Cell) : (s.setMem x).fresh = s.fresh := rfl
@[simp] theorem State.setMem_free (s : State) (x : List Host.Cell) : (s.setMem x).free = s.free := rfl
@[simp] theorem State.setMem_sched (s : State) (x : List Host.Cell) : (s.setMem x).sched = s.sched := rfl
@[simp] theorem State.setMem_stall (s : State) (x : List Host.Cell) : (s.setMem x).stall = s.stall := rfl
@[simp] theorem State.setMem_cur (s : State) (x : List Host.Cell) : (s.setMem x).cur = s.cur := rfl

/-! ### setOps -/

@[simp] theorem State.setOps_now (s : State) (x : List Op) : (s.setOps x).now = s.now := rfl
@[simp] theorem State.setOps_strm (s : State) (x : List Op) : (s.setOps x).strm = s.strm := rfl
@[simp] theorem State.setOps_task (s : State) (x : List Op) : (s.setOps x).task = s.task := rfl
@[simp] theorem State.setOps_obj (s : State) (x : List Op) : (s.setOps x).obj = s.obj := rfl
@[simp] theorem State.setOps_ops (s : State) (x : List Op) : (s.setOps x).ops = x := rfl
@[simp] theorem State.setOps_core (s : State) (x : List Op) : (s.setOps x).core = s.core := rfl
@[simp] theorem State.setOps_clus (s : State) (x : List Op) : (s.setOps x).clus = s.clus := rfl
@[simp] theorem State.setOps_mem (s : State) (x : List Op) : (s.setOps x).mem = s.mem := rfl
@[simp] theorem State.setOps_dirty (s : State) (x : List Op) : (s.setOps x).dirty = s.dirty := rfl
@[simp] theorem State.setOps_mpois (s : State) (x : List Op) : (s.setOps x).mpois = s.mpois := rfl
@[simp] theorem State.setOps_ctl (s : State) (x : List Op) : (s.setOps x).ctl = s.ctl := rfl
@[simp] theorem State.setOps_dev (s : State) (x : List Op) : (s.setOps x).dev = s.dev := rfl
@[simp] theorem State.setOps_resp (s : State) (x : List Op) : (s.setOps x).resp = s.resp := rfl
@[simp] theorem State.setOps_fresh (s : State) (x : List Op) : (s.setOps x).fresh = s.fresh := rfl
@[simp] theorem State.setOps_free (s : State) (x : List Op) : (s.setOps x).free = s.free := rfl
@[simp] theorem State.setOps_sched (s : State) (x : List Op) : (s.setOps x).sched = s.sched := rfl
@[simp] theorem State.setOps_stall (s : State) (x : List Op) : (s.setOps x).stall = s.stall := rfl
@[simp] theorem State.setOps_cur (s : State) (x : List Op) : (s.setOps x).cur = s.cur := rfl

/-! ### setObj -/

@[simp] theorem State.setObj_now (s : State) (x : Objs) : (s.setObj x).now = s.now := rfl
@[simp] theorem State.setObj_strm (s : State) (x : Objs) : (s.setObj x).strm = s.strm := rfl
@[simp] theorem State.setObj_task (s : State) (x : Objs) : (s.setObj x).task = s.task := rfl
@[simp] theorem State.setObj_obj (s : State) (x : Objs) : (s.setObj x).obj = x := rfl
@[simp] theorem State.setObj_ops (s : State) (x : Objs) : (s.setObj x).ops = s.ops := rfl
@[simp] theorem State.setObj_core (s : State) (x : Objs) : (s.setObj x).core = s.core := rfl
@[simp] theorem State.setObj_clus (s : State) (x : Objs) : (s.setObj x).clus = s.clus := rfl
@[simp] theorem State.setObj_mem (s : State) (x : Objs) : (s.setObj x).mem = s.mem := rfl
@[simp] theorem State.setObj_dirty (s : State) (x : Objs) : (s.setObj x).dirty = s.dirty := rfl
@[simp] theorem State.setObj_mpois (s : State) (x : Objs) : (s.setObj x).mpois = s.mpois := rfl
@[simp] theorem State.setObj_ctl (s : State) (x : Objs) : (s.setObj x).ctl = s.ctl := rfl
@[simp] theorem State.setObj_dev (s : State) (x : Objs) : (s.setObj x).dev = s.dev := rfl
@[simp] theorem State.setObj_resp (s : State) (x : Objs) : (s.setObj x).resp = s.resp := rfl
@[simp] theorem State.setObj_fresh (s : State) (x : Objs) : (s.setObj x).fresh = s.fresh := rfl
@[simp] theorem State.setObj_free (s : State) (x : Objs) : (s.setObj x).free = s.free := rfl
@[simp] theorem State.setObj_sched (s : State) (x : Objs) : (s.setObj x).sched = s.sched := rfl
@[simp] theorem State.setObj_stall (s : State) (x : Objs) : (s.setObj x).stall = s.stall := rfl
@[simp] theorem State.setObj_cur (s : State) (x : Objs) : (s.setObj x).cur = s.cur := rfl

/-! ### setMe -/

@[simp] theorem State.setMe_now (s : State) (x : Stream) : (s.setMe x).now = s.now := rfl
@[simp] theorem State.setMe_strm (s : State) (x : Stream) : (s.setMe x).strm = mput {} s.strm s.cur x := rfl
@[simp] theorem State.setMe_task (s : State) (x : Stream) : (s.setMe x).task = s.task := rfl
@[simp] theorem State.setMe_obj (s : State) (x : Stream) : (s.setMe x).obj = s.obj := rfl
@[simp] theorem State.setMe_ops (s : State) (x : Stream) : (s.setMe x).ops = s.ops := rfl
@[simp] theorem State.setMe_core (s : State) (x : Stream) : (s.setMe x).core = s.core := rfl
@[simp] theorem State.setMe_clus (s : State) (x : Stream) : (s.setMe x).clus = s.clus := rfl
@[simp] theorem State.setMe_mem (s : State) (x : Stream) : (s.setMe x).mem = s.mem := rfl
@[simp] theorem State.setMe_dirty (s : State) (x : Stream) : (s.setMe x).dirty = s.dirty := rfl
@[simp] theorem State.setMe_mpois (s : State) (x : Stream) : (s.setMe x).mpois = s.mpois := rfl
@[simp] theorem State.setMe_ctl (s : State) (x : Stream) : (s.setMe x).ctl = s.ctl := rfl
@[simp] theorem State.setMe_dev (s : State) (x : Stream) : (s.setMe x).dev = s.dev := rfl
@[simp] theorem State.setMe_resp (s : State) (x : Stream) : (s.setMe x).resp = s.resp := rfl
@[simp] theorem State.setMe_fresh (s : State) (x : Stream) : (s.setMe x).fresh = s.fresh := rfl
@[simp] theorem State.setMe_free (s : State) (x : Stream) : (s.setMe x).free = s.free := rfl
@[simp] theorem State.setMe_sched (s : State) (x : Stream) : (s.setMe x).sched = s.sched := rfl
@[simp] theorem State.setMe_stall (s : State) (x : Stream) : (s.setMe x).stall = s.stall := rfl
@[simp] theorem State.setMe_cur (s : State) (x : Stream) : (s.setMe x).cur = s.cur := rfl

/-! ### answer -/

@[simp] theorem State.answer_now (s : State) (x : Resp) : (s.answer x).now = s.now := rfl
@[simp] theorem State.answer_strm (s : State) (x : Resp) : (s.answer x).strm = s.strm := rfl
@[simp] theorem State.answer_task (s : State) (x : Resp) : (s.answer x).task = s.task := rfl
@[simp] theorem State.answer_obj (s : State) (x : Resp) : (s.answer x).obj = s.obj := rfl
@[simp] theorem State.answer_ops (s : State) (x : Resp) : (s.answer x).ops = s.ops := rfl
@[simp] theorem State.answer_core (s : State) (x : Resp) : (s.answer x).core = s.core := rfl
@[simp] theorem State.answer_clus (s : State) (x : Resp) : (s.answer x).clus = s.clus := rfl
@[simp] theorem State.answer_mem (s : State) (x : Resp) : (s.answer x).mem = s.mem := rfl
@[simp] theorem State.answer_dirty (s : State) (x : Resp) : (s.answer x).dirty = s.dirty := rfl
@[simp] theorem State.answer_mpois (s : State) (x : Resp) : (s.answer x).mpois = s.mpois := rfl
@[simp] theorem State.answer_ctl (s : State) (x : Resp) : (s.answer x).ctl = s.ctl := rfl
@[simp] theorem State.answer_dev (s : State) (x : Resp) : (s.answer x).dev = s.dev := rfl
@[simp] theorem State.answer_resp (s : State) (x : Resp) : (s.answer x).resp = x := rfl
@[simp] theorem State.answer_fresh (s : State) (x : Resp) : (s.answer x).fresh = s.fresh := rfl
@[simp] theorem State.answer_free (s : State) (x : Resp) : (s.answer x).free = s.free := rfl
@[simp] theorem State.answer_sched (s : State) (x : Resp) : (s.answer x).sched = s.sched := rfl
@[simp] theorem State.answer_stall (s : State) (x : Resp) : (s.answer x).stall = s.stall := rfl
@[simp] theorem State.answer_cur (s : State) (x : Resp) : (s.answer x).cur = s.cur := rfl

/-! ### upTo -/

@[simp] theorem State.upTo_now (s : State) (x : Nat) : (s.upTo x).now = if s.now < x then x else s.now := rfl
@[simp] theorem State.upTo_strm (s : State) (x : Nat) : (s.upTo x).strm = s.strm := rfl
@[simp] theorem State.upTo_task (s : State) (x : Nat) : (s.upTo x).task = s.task := rfl
@[simp] theorem State.upTo_obj (s : State) (x : Nat) : (s.upTo x).obj = s.obj := rfl
@[simp] theorem State.upTo_ops (s : State) (x : Nat) : (s.upTo x).ops = s.ops := rfl
@[simp] theorem State.upTo_core (s : State) (x : Nat) : (s.upTo x).core = s.core := rfl
@[simp] theorem State.upTo_clus (s : State) (x : Nat) : (s.upTo x).clus = s.clus := rfl
@[simp] theorem State.upTo_mem (s : State) (x : Nat) : (s.upTo x).mem = s.mem := rfl
@[simp] theorem State.upTo_dirty (s : State) (x : Nat) : (s.upTo x).dirty = s.dirty := rfl
@[simp] theorem State.upTo_mpois (s : State) (x : Nat) : (s.upTo x).mpois = s.mpois := rfl
@[simp] theorem State.upTo_ctl (s : State) (x : Nat) : (s.upTo x).ctl = s.ctl := rfl
@[simp] theorem State.upTo_dev (s : State) (x : Nat) : (s.upTo x).dev = s.dev := rfl
@[simp] theorem State.upTo_resp (s : State) (x : Nat) : (s.upTo x).resp = s.resp := rfl
@[simp] theorem State.upTo_fresh (s : State) (x : Nat) : (s.upTo x).fresh = s.fresh := rfl
@[simp] theorem State.upTo_free (s : State) (x : Nat) : (s.upTo x).free = s.free := rfl
@[simp] theorem State.upTo_sched (s : State) (x : Nat) : (s.upTo x).sched = s.sched := rfl
@[simp] theorem State.upTo_stall (s : State) (x : Nat) : (s.upTo x).stall = s.stall := rfl
@[simp] theorem State.upTo_cur (s : State) (x : Nat) : (s.upTo x).cur = s.cur := rfl

/-! ### wake -/

@[simp] theorem State.wake_now (s : State) : (s.wake).now = s.now := rfl
@[simp] theorem State.wake_strm (s : State) : (s.wake).strm = s.strm := rfl
@[simp] theorem State.wake_task (s : State) : (s.wake).task = s.task := rfl
@[simp] theorem State.wake_obj (s : State) : (s.wake).obj = s.obj := rfl
@[simp] theorem State.wake_ops (s : State) : (s.wake).ops = s.ops := rfl
@[simp] theorem State.wake_core (s : State) : (s.wake).core = s.core := rfl
@[simp] theorem State.wake_clus (s : State) : (s.wake).clus = s.clus := rfl
@[simp] theorem State.wake_mem (s : State) : (s.wake).mem = s.mem := rfl
@[simp] theorem State.wake_dirty (s : State) : (s.wake).dirty = s.dirty := rfl
@[simp] theorem State.wake_mpois (s : State) : (s.wake).mpois = s.mpois := rfl
@[simp] theorem State.wake_ctl (s : State) : (s.wake).ctl = s.ctl := rfl
@[simp] theorem State.wake_dev (s : State) : (s.wake).dev = s.dev := rfl
@[simp] theorem State.wake_resp (s : State) : (s.wake).resp = s.resp := rfl
@[simp] theorem State.wake_fresh (s : State) : (s.wake).fresh = s.fresh := rfl
@[simp] theorem State.wake_free (s : State) : (s.wake).free = s.free := rfl
@[simp] theorem State.wake_sched (s : State) : (s.wake).sched = s.sched := rfl
@[simp] theorem State.wake_stall (s : State) : (s.wake).stall = [] := rfl
@[simp] theorem State.wake_cur (s : State) : (s.wake).cur = s.cur := rfl

end Sys2Proof.Machine
end

