-- ==== Sys2Proof/Laws/Land.lean ====
section
/-!
SUPPORT. Results on their way (R89): the stable sort of landings, what a register reads in a cycle, and what SetG, SetP and
taking a stream-register element change.
-/
namespace Sys2Proof.Machine

/-! ### The stable sort -/

theorem sortBy_append {α : Type} (lt : α → α → Bool) (l : List α) (x : α) :
    sortBy lt (l ++ [x]) = insertBy lt x (sortBy lt l) := by simp [sortBy, List.foldl_append]

theorem insertBy_last {α : Type} (lt : α → α → Bool) (x : α) (l : List α) (h : ∀ y ∈ l, lt x y = false) :
    insertBy lt x l = l ++ [x] := by
  induction l with
  | nil => rfl
  | cons y r ih =>
    have h1 := h y (by simp)
    simp [insertBy, h1, ih fun z hz => h z (by simp [hz])]

theorem mem_insertBy {α : Type} (lt : α → α → Bool) (x : α) (l : List α) (y : α) : y ∈ insertBy lt x l ↔ y = x ∨ y ∈ l := by
  induction l with
  | nil => simp [insertBy]
  | cons z r ih =>
    simp only [insertBy]
    split
    · simp
    · simp only [List.mem_cons, ih]; tauto

theorem mem_sortBy {α : Type} (lt : α → α → Bool) (l : List α) (y : α) : y ∈ sortBy lt l ↔ y ∈ l := by
  induction l using List.reverseRecOn with
  | nil => simp [sortBy]
  | append_singleton l x ih => rw [sortBy_append, mem_insertBy, ih]; simp; tauto

/-- An element that a filter drops leaves no trace in a sorted list. -/
theorem filter_insertBy {α : Type} (lt : α → α → Bool) (p : α → Bool) (x : α) (l : List α) (h : p x = false) :
    (insertBy lt x l).filter p = l.filter p := by
  induction l with
  | nil => simp [insertBy, h]
  | cons y r ih =>
    simp only [insertBy]
    split
    · simp [h]
    · simp only [List.filter_cons, ih]

/-! ### Landing -/

theorem landAll_append (st : Stream) (a b : List Land) : landAll st (a ++ b) = landAll (landAll st a) b := by
  induction a generalizing st with
  | nil => rfl
  | cons l r ih => simp only [List.cons_append, landAll]; exact ih _

/-- One landing. -/
def land1 (st : Stream) (l : Land) : Stream :=
  if l.reg < 32 then (if l.reg = 0 then st else { st with g := mput 0 st.g l.reg l.val })
  else if l.reg = 32 then st
  else { st with p := BitVec.ofNat 8 (setBits st.p.toNat (l.reg - 32) 1 l.val.toNat) }

theorem landAll_cons (st : Stream) (l : Land) (r : List Land) : landAll st (l :: r) = landAll (land1 st l) r := rfl

theorem land1_g (st : Stream) (l : Land) (r : Nat) (h : l.reg ≠ r) : mget 0 (land1 st l).g r = mget 0 st.g r := by
  unfold land1
  split
  · split
    · rfl
    · exact mget_mput_ne 0 _ _ (Ne.symm h)
  · split <;> rfl

theorem land1_congr {a b : Stream} {r : Nat} (l : Land) (h : mget 0 a.g r = mget 0 b.g r) :
    mget 0 (land1 a l).g r = mget 0 (land1 b l).g r := by
  unfold land1
  split
  · split
    · exact h
    · rw [mget_mput, mget_mput, h]
  · split <;> exact h

theorem landAll_congr {r : Nat} (l : List Land) {a b : Stream} (h : mget 0 a.g r = mget 0 b.g r) :
    mget 0 (landAll a l).g r = mget 0 (landAll b l).g r := by
  induction l generalizing a b with
  | nil => exact h
  | cons x t ih => exact ih (land1_congr x h)

/-- A landing elsewhere leaves a g register. -/
theorem landAll_g (st : Stream) (l : List Land) (r : Nat) :
    mget 0 (landAll st l).g r = mget 0 (landAll st (l.filter fun x => x.reg == r)).g r := by
  induction l generalizing st with
  | nil => rfl
  | cons x t ih =>
    rw [landAll_cons, ih]
    by_cases hx : x.reg = r
    · simp only [List.filter_cons, hx, beq_self_eq_true, if_true, landAll_cons]
    · simp only [List.filter_cons, beq_eq_false_iff_ne.2 hx]
      exact landAll_congr _ (land1_g st x r hx)


theorem settle_land (st : Stream) (l : List Land) (c : Nat) :
    settle { st with land := l } c = landAll { st with land := l.filter fun x => c < x.due }
      (sortBy (fun a b => a.due < b.due) (l.filter fun x => x.due ≤ c)) := rfl

theorem landAll_frame (st : Stream) (l : List Land) (f : Stream → α)
    (hf : ∀ (s : Stream) g p, f { s with g := g, p := p } = f s) : f (landAll st l) = f st := by
  induction l generalizing st with
  | nil => rfl
  | cons x t ih =>
    simp only [landAll]
    rw [ih]
    split
    · split
      · rfl
      · exact hf st _ st.p
    · split
      · rfl
      · exact hf st st.g _

/-- What a new landing makes its register read in its cycle. -/
theorem gAt_land_self (st : Stream) (r c : Nat) (v : Word) (h0 : r ≠ 0) (h : r < 32) :
    gAt { st with land := st.land ++ [⟨r, c, v⟩] } c r = v := by
  unfold gAt
  rw [settle_land]
  simp only [List.filter_append, List.filter_cons, le_refl, decide_true, if_true, List.filter_nil]
  rw [sortBy_append, insertBy_last, landAll_append]
  · simp [landAll, h, h0]
  · intro y hy
    rw [mem_sortBy] at hy
    have := (List.mem_filter.1 hy).2
    simpa using this

/-- A new landing leaves every other register in every cycle. -/
theorem gAt_land_ne (st : Stream) (x : Land) (c r : Nat) (h : x.reg ≠ r) :
    gAt { st with land := st.land ++ [x] } c r = gAt st c r := by
  unfold gAt
  rw [settle_land]
  have e : settle st c = settle { st with land := st.land } c := rfl
  rw [e, settle_land, landAll_g, landAll_g (l := sortBy _ (st.land.filter _))]
  have hf : (sortBy (fun a b => decide (a.due < b.due)) ((st.land ++ [x]).filter fun y => y.due ≤ c)).filter (fun y => y.reg == r)
      = (sortBy (fun a b => decide (a.due < b.due)) (st.land.filter fun y => y.due ≤ c)).filter (fun y => y.reg == r) := by
    rw [List.filter_append]
    by_cases hx : x.due ≤ c
    · simp only [List.filter_cons, hx, decide_true, if_true, List.filter_nil]
      rw [sortBy_append, filter_insertBy]
      simpa using h
    · simp [hx]
  rw [hf]
  exact landAll_congr _ rfl

/-! ### Predicates -/


theorem land1_p (st : Stream) (l : Land) (i : Nat) (hi : i < 8) :
    bitN (land1 st l).p.toNat i = if l.reg = 32 + i ∧ i ≠ 0 then bitN l.val.toNat 0 else bitN st.p.toNat i := by
  unfold land1
  split
  · next h => rw [if_neg (c := l.reg = 32 + i ∧ i ≠ 0) (by omega)]; split <;> rfl
  · next h =>
    split
    · next h2 => rw [if_neg (c := l.reg = 32 + i ∧ i ≠ 0) (by omega)]
    · next h2 =>
      have e : bitN (BitVec.ofNat 8 (setBits st.p.toNat (l.reg - 32) 1 l.val.toNat)).toNat i
          = bitN (setBits st.p.toNat (l.reg - 32) 1 l.val.toNat) i := by
        rw [BitVec.toNat_ofNat, bitN_testBit, bitN_testBit, Nat.testBit_mod_two_pow]
        simp [hi]
      simp only [e, bitN_setBits]
      by_cases h3 : l.reg = 32 + i
      · rw [if_neg (by omega), if_pos (by omega), if_pos ⟨h3, by omega⟩]
        congr 1; omega
      · rw [if_neg (c := l.reg = 32 + i ∧ i ≠ 0) (by tauto)]
        split
        · rfl
        · rw [if_neg (by omega)]

theorem landAll_p_congr {i : Nat} (hi : i < 8) (l : List Land) {a b : Stream} (h : bitN a.p.toNat i = bitN b.p.toNat i) :
    bitN (landAll a l).p.toNat i = bitN (landAll b l).p.toNat i := by
  induction l generalizing a b with
  | nil => exact h
  | cons x t ih => exact ih (a := land1 a x) (b := land1 b x) (by rw [land1_p _ _ _ hi, land1_p _ _ _ hi, h])

theorem landAll_p (st : Stream) (l : List Land) (i : Nat) (hi : i < 8) :
    bitN (landAll st l).p.toNat i = bitN (landAll st (l.filter fun x => x.reg == 32 + i)).p.toNat i := by
  induction l generalizing st with
  | nil => rfl
  | cons x t ih =>
    rw [landAll_cons, ih]
    by_cases hx : x.reg = 32 + i
    · simp only [List.filter_cons, hx, beq_self_eq_true, if_true, landAll_cons]
    · simp only [List.filter_cons, beq_eq_false_iff_ne.2 hx]
      refine landAll_p_congr hi _ ?_
      rw [land1_p _ _ _ hi, if_neg (by tauto)]

/-- What a new landing makes its predicate read in its cycle. -/
theorem pAt_land_self (st : Stream) (i c : Nat) (v : Word) (h0 : i ≠ 0) (h : i < 8) :
    pAt { st with land := st.land ++ [⟨32 + i, c, v⟩] } c i = bitN v.toNat 0 := by
  unfold pAt
  rw [settle_land]
  simp only [List.filter_append, List.filter_cons, le_refl, decide_true, if_true, List.filter_nil]
  rw [sortBy_append, insertBy_last, landAll_append, landAll_cons]
  · simp only [landAll]
    rw [land1_p _ _ _ h, if_pos ⟨rfl, h0⟩]
  · intro y hy
    rw [mem_sortBy] at hy
    have := (List.mem_filter.1 hy).2
    simpa using this

/-- A new landing leaves every other predicate in every cycle. -/
theorem pAt_land_ne (st : Stream) (x : Land) (c i : Nat) (hi : i < 8) (h : x.reg ≠ 32 + i) :
    pAt { st with land := st.land ++ [x] } c i = pAt st c i := by
  unfold pAt
  rw [settle_land]
  have e : settle st c = settle { st with land := st.land } c := rfl
  rw [e, settle_land, landAll_p (hi := hi), landAll_p (hi := hi) (l := sortBy _ (st.land.filter _))]
  have hf : (sortBy (fun a b => decide (a.due < b.due)) ((st.land ++ [x]).filter fun y => y.due ≤ c)).filter (fun y => y.reg == 32 + i)
      = (sortBy (fun a b => decide (a.due < b.due)) (st.land.filter fun y => y.due ≤ c)).filter (fun y => y.reg == 32 + i) := by
    rw [List.filter_append]
    by_cases hx : x.due ≤ c
    · simp only [List.filter_cons, hx, decide_true, if_true, List.filter_nil]
      rw [sortBy_append, filter_insertBy]
      simpa using h
    · simp [hx]
  rw [hf]
  exact landAll_p_congr hi _ rfl

/-! ### Streams that differ elsewhere -/

theorem gAt_congr {a b : Stream} (hg : a.g = b.g) (hl : a.land = b.land) (c r : Nat) : gAt a c r = gAt b c r := by
  unfold gAt settle
  rw [hl]
  exact landAll_congr _ (by simp only [hg])

theorem pAt_congr {a b : Stream} (hp : a.p = b.p) (hl : a.land = b.land) (c : Nat) {i : Nat} (hi : i < 8) :
    pAt a c i = pAt b c i := by
  unfold pAt settle
  rw [hl]
  exact landAll_p_congr hi _ (by simp only [hp])

end Sys2Proof.Machine
end

