-- ==== Sys2Proof/Laws/Issue.lean ====
section
/-!
SUPPORT. What the shared operations of an issue do (Machine/Ops.lean): beginning an instruction, reading its operands, and
its issue, each said once.
-/
namespace Sys2Proof.Machine

/-! ### Parts of the state -/

@[simp] theorem State.strmOf_setStrm (s : State) (k : Nat) (x : Stream) : (s.setStrm k x).strmOf k = x := mget_mput_self ..
theorem State.strmOf_setStrm_ne (s : State) {k j : Nat} (x : Stream) (h : j ≠ k) : (s.setStrm k x).strmOf j = s.strmOf j :=
  mget_mput_ne _ _ _ h
@[simp] theorem State.strmOf_setCore (s : State) (c k : Nat) (x : Core) : (s.setCore c x).strmOf k = s.strmOf k := rfl
@[simp] theorem State.coreOf_setCore (s : State) (c : Nat) (x : Core) : (s.setCore c x).coreOf c = x := mget_mput_self ..
theorem State.coreOf_setCore_ne (s : State) {c j : Nat} (x : Core) (h : j ≠ c) : (s.setCore c x).coreOf j = s.coreOf j :=
  mget_mput_ne _ _ _ h
@[simp] theorem State.coreOf_setStrm (s : State) (c k : Nat) (x : Stream) : (s.setStrm k x).coreOf c = s.coreOf c := rfl
@[simp] theorem State.strmOf_wake (s : State) (k : Nat) : s.wake.strmOf k = s.strmOf k := rfl
@[simp] theorem State.coreOf_wake (s : State) (c : Nat) : s.wake.coreOf c = s.coreOf c := rfl
@[simp] theorem State.taskOf_setTask (s : State) (k : Nat) (x : Task) : (s.setTask k x).taskOf k = x := mget_mput_self ..
theorem State.taskOf_setTask_ne (s : State) {k j : Nat} (x : Task) (h : j ≠ k) : (s.setTask k x).taskOf j = s.taskOf j :=
  mget_mput_ne _ _ _ h
@[simp] theorem State.cntOf_setCnt (s : State) (k : Nat) (x : Cnt) : (s.setCnt k x).cntOf k = x := mget_mput_self ..
theorem State.cntOf_setCnt_ne (s : State) {k j : Nat} (x : Cnt) (h : j ≠ k) : (s.setCnt k x).cntOf j = s.cntOf j :=
  mget_mput_ne _ _ _ h
@[simp] theorem State.barOf_setBar (s : State) (k : Nat) (x : Bar) : (s.setBar k x).barOf k = x := mget_mput_self ..
theorem State.barOf_setBar_ne (s : State) {k j : Nat} (x : Bar) (h : j ≠ k) : (s.setBar k x).barOf j = s.barOf j :=
  mget_mput_ne _ _ _ h

@[simp] theorem State.strmOf_setMe (s : State) (x : Stream) : (s.setMe x).strmOf s.cur = x := State.strmOf_setStrm ..
theorem State.strmOf_setMe_ne (s : State) {j : Nat} (x : Stream) (h : j ≠ s.cur) : (s.setMe x).strmOf j = s.strmOf j :=
  State.strmOf_setStrm_ne _ _ h
@[simp] theorem State.coreOf_setMe (s : State) (c : Nat) (x : Stream) : (s.setMe x).coreOf c = s.coreOf c := rfl
@[simp] theorem State.taskOf_setMe (s : State) (k : Nat) (x : Stream) : (s.setMe x).taskOf k = s.taskOf k := rfl
@[simp] theorem State.cntOf_setMe (s : State) (k : Nat) (x : Stream) : (s.setMe x).cntOf k = s.cntOf k := rfl
@[simp] theorem State.barOf_setMe (s : State) (k : Nat) (x : Stream) : (s.setMe x).barOf k = s.barOf k := rfl
@[simp] theorem State.ctxOf_setMe (s : State) (k : Nat) (x : Stream) : (s.setMe x).ctxOf k = s.ctxOf k := rfl
@[simp] theorem State.myCore_setMe (s : State) (x : Stream) : (s.setMe x).myCore = s.myCore := rfl

theorem mdel_mset {α : Type} (m : Sparse α) (k : Nat) (v : α) : mdel (mset m k v) k = mdel m k := by
  induction m with
  | nil => simp [mset, mdel]
  | cons e r ih =>
    obtain ⟨a, x⟩ := e
    simp only [mset]
    split
    · next h =>
      have : a ≠ k := by omega
      simpa [mdel, this] using ih
    · split
      · next h => subst h; simp [mdel]
      · next h => simp [mdel]

theorem mput_mput {α : Type} [DecidableEq α] {d v w : α} (m : Sparse α) (k : Nat) (h : v ≠ d) :
    mput d (mput d m k v) k w = mput d m k w := by
  unfold mput
  rw [if_neg h]
  split
  · exact mdel_mset m k v
  · exact mset_mset m k v w

/-- A stream that runs is replaced as a whole. -/
theorem State.setMe_setMe (s : State) {a : Stream} (b : Stream) (h : a.run = .run) : (s.setMe a).setMe b = s.setMe b := by
  have hd : a ≠ ({} : Stream) := by
    intro e
    rw [e] at h
    cases h
  show ({ s with strm := _ } : State) = { s with strm := _ }
  rw [show (s.setMe a).strm = mput {} s.strm s.cur a from rfl, State.setMe_cur, mput_mput _ _ hd]

/-! ### Beginning -/

theorem landAll_run (st : Stream) (l : List Land) : (landAll st l).run = st.run :=
  landAll_frame st l (·.run) fun _ _ _ => rfl

/-- An instruction of a running stream begins (R48, R331). -/
theorem begin_go {s : State} {mj : Nat} (h : Header) (hr : s.mayRun mj) : begin' h mj s = .go (s.me.guard h) (s.setMe s.start) := by
  obtain ⟨h1, h2⟩ := hr
  have hm : (s.me.mode = .handler && decide (6 ≤ mj)) = false := by
    by_cases hh : s.me.mode = .handler
    · have := h2 hh; simp [hh]; omega
    · simp [hh]
  unfold begin'
  have hne : (s.me.run != .run) = false := by simp [h1]
  simp only [hne, Bool.false_eq_true, if_false, hm]
  rfl

@[simp] theorem State.start_run (s : State) : s.start.run = s.me.run := rfl
@[simp] theorem State.start_slot (s : State) : s.start.slot = s.me.slot := rfl
@[simp] theorem State.start_tnum (s : State) : s.start.tnum = s.me.tnum := rfl
@[simp] theorem State.start_mode (s : State) : s.start.mode = s.me.mode := rfl
@[simp] theorem State.start_pc (s : State) : s.start.pc = s.me.pc := rfl
@[simp] theorem State.start_g (s : State) : s.start.g = s.me.g := rfl
@[simp] theorem State.start_pend (s : State) : s.start.pend = s.me.pend := rfl
@[simp] theorem State.start_p (s : State) : s.start.p = s.me.p := rfl
@[simp] theorem State.start_b (s : State) : s.start.b = s.me.b := rfl
@[simp] theorem State.start_q (s : State) : s.start.q = s.me.q := rfl
@[simp] theorem State.start_spill (s : State) : s.start.spill = s.me.spill := rfl
@[simp] theorem State.start_cntL (s : State) : s.start.cntL = s.me.cntL := rfl
@[simp] theorem State.start_cntS (s : State) : s.start.cntS = s.me.cntS := rfl
@[simp] theorem State.start_cntC (s : State) : s.start.cntC = s.me.cntC := rfl
@[simp] theorem State.start_cntT (s : State) : s.start.cntT = s.me.cntT := rfl
@[simp] theorem State.start_fpc (s : State) : s.start.fpc = s.me.fpc := rfl
@[simp] theorem State.start_flg (s : State) : s.start.flg = s.me.flg := rfl
@[simp] theorem State.start_seed (s : State) : s.start.seed = s.me.seed := rfl
@[simp] theorem State.start_lanes (s : State) : s.start.lanes = s.me.lanes := rfl
@[simp] theorem State.start_finfo (s : State) : s.start.finfo = s.me.finfo := rfl
@[simp] theorem State.start_syncBar (s : State) : s.start.syncBar = s.me.syncBar := rfl
@[simp] theorem State.start_nextIss (s : State) : s.start.nextIss = s.me.nextIss := rfl
@[simp] theorem State.start_sw (s : State) : s.start.sw = s.me.sw := rfl
@[simp] theorem State.start_land (s : State) : s.start.land = s.me.land := rfl
@[simp] theorem State.start_arr (s : State) : s.start.arr = s.me.arr := rfl
@[simp] theorem State.start_mq (s : State) : s.start.mq = s.me.mq := rfl
@[simp] theorem State.start_wait (s : State) : s.start.wait = s.me.wait := rfl
@[simp] theorem State.start_barW (s : State) : s.start.barW = s.me.barW := rfl
@[simp] theorem State.start_nx (s : State) : s.start.nx = s.me.nx := rfl
@[simp] theorem State.start_yclean (s : State) : s.start.yclean = s.me.yclean := rfl
@[simp] theorem State.start_ymask (s : State) : s.start.ymask = s.me.ymask := rfl
@[simp] theorem State.start_dstop (s : State) : s.start.dstop = s.me.dstop := rfl
@[simp] theorem State.start_stopC (s : State) : s.start.stopC = s.me.stopC := rfl
@[simp] theorem State.start_bphit (s : State) : s.start.bphit = s.me.bphit := rfl

@[simp] theorem State.start_syncArr (s : State) : s.start.syncArr = s.me.syncArr := rfl
@[simp] theorem State.start_iss0 (s : State) : s.start.iss0 = s.me.iss0 := rfl

/-- A guarded body of a running stream under a true guard. -/
theorem guarded_go {s : State} {h : Header} {mj : Nat} (hr : s.runs h mj) (body : State → Out) :
    guarded h mj s body = body (s.setMe s.start) := by
  unfold guarded
  rw [begin_go h hr.1, hr.2]

/-- Under a false guard an instruction only issues. -/
theorem guarded_not {s : State} {h : Header} {mj : Nat} (hr : s.mayRun mj) (hg : s.me.guard h = false) (body : State → Out) :
    guarded h mj s body = retire h 8 (s.setMe s.start) := by
  unfold guarded
  rw [begin_go h hr, hg]

/-! ### Issuing -/

theorem State.ownOnly_refl (s : State) : s.ownOnly s :=
  ⟨fun _ => rfl, fun _ _ => rfl, rfl, rfl, rfl, rfl, rfl, rfl, rfl, rfl, rfl, rfl, fun _ => ⟨rfl, rfl, rfl, rfl⟩⟩

theorem State.ownOnly_setMe {s t : State} {x : Stream} (h : (s.setMe x).ownOnly t) : s.ownOnly t := by
  obtain ⟨h1, h2, h3⟩ := h
  exact ⟨h1, fun k hk => (h2 k hk).trans (State.strmOf_setMe_ne s x hk), h3⟩

/-- What an issue leaves (R49, R50, R290). -/
theorem retireTo_next (h : Header) (pc : Word) (s : State) :
    ∃ t, retireTo h pc s = .next t ∧ s.issues s h pc (s.strmOf s.cur) t := by
  refine ⟨_, rfl, ⟨fun _ => rfl, ?_, rfl, rfl, rfl, rfl, rfl, rfl, rfl, rfl, rfl, rfl, ?_⟩, ?_, ?_, ?_, rfl⟩
  · intro k hk
    exact State.strmOf_setMe_ne s _ hk
  · intro c
    by_cases hc : c = s.myCore
    · subst hc; simp [State.coreIssued, Core.issued]
    · simp [State.coreIssued, State.coreOf_setCore_ne _ _ hc]
  · simp [State.coreIssued, Stream.after, Stream.issued]
  · simp [State.coreIssued, Core.issued]
  · simp [State.coreIssued, Core.issued]

theorem retire_next (h : Header) (n : Nat) (s : State) :
    ∃ t, retire h n s = .next t ∧ s.issues s h ((s.strmOf s.cur).pc + BitVec.ofNat 64 n) (s.strmOf s.cur) t :=
  retireTo_next h _ s

/-- An issue after effects on the rest of the machine and on its stream. -/
theorem State.issues_of {s u : State} {h : Header} {pc : Word} {st : Stream} {t : State} (hc : u.cur = s.cur) (hn : u.now = s.now)
    (ht : (u.setMe st).issues (u.setMe st) h pc ((u.setMe st).strmOf u.cur) t) : s.issues u h pc st t := by
  obtain ⟨h1, h2, h3, h4, h5⟩ := ht
  refine ⟨State.ownOnly_setMe h1, ?_, ?_, ?_, h5⟩
  · rw [State.strmOf_setMe] at h2; rw [← hc, ← hn]; exact h2
  · unfold State.myCore; rw [← hc, ← hn]; exact h3
  · unfold State.myCore; rw [← hc]; exact h4

/-- The instruction issues after effects: the state it leaves. -/
theorem retireTo_issues {s u : State} (h : Header) (pc : Word) (st : Stream) (hc : u.cur = s.cur) (hn : u.now = s.now) :
    ∃ t, retireTo h pc (u.setMe st) = .next t ∧ s.issues u h pc st t := by
  obtain ⟨t, h1, h2⟩ := retireTo_next h pc (u.setMe st)
  exact ⟨t, h1, State.issues_of hc hn h2⟩

theorem retire_issues {s u : State} (h : Header) (n : Nat) (st : Stream) (hc : u.cur = s.cur) (hn : u.now = s.now) :
    ∃ t, retire h n (u.setMe st) = .next t ∧ s.issues u h (st.pc + BitVec.ofNat 64 n) st t := by
  have e : retire h n (u.setMe st) = retireTo h (st.pc + BitVec.ofNat 64 n) (u.setMe st) := by
    unfold retire
    rw [show (u.setMe st).cur = u.cur from rfl, State.strmOf_setMe]
  rw [e]
  exact retireTo_issues h _ st hc hn

theorem retire_at {s u : State} {pc : Word} (h : Header) (n : Nat) (st : Stream) (hc : u.cur = s.cur) (hn : u.now = s.now)
    (hp : st.pc = pc) : ∃ t, retire h n (u.setMe st) = .next t ∧ s.issues u h (pc + BitVec.ofNat 64 n) st t :=
  hp ▸ retire_issues h n st hc hn

/-! ### Operands -/

theorem rulesOk_start (s : State) (u : Use) : rulesOk s.start u = rulesOk s.me u := rfl

theorem qReady_setMe (s : State) (x st : Stream) (u : Use) : qReady (s.setMe x) st u = qReady s st u := rfl

theorem qReady_start (s : State) (u : Use) : qReady s s.start u = qReady s s.me u := rfl

theorem readGs_setMe (s : State) (x st : Stream) (l : List G) : readGs (s.setMe x) st l = readGs s st l := by
  induction l generalizing st with
  | nil => rfl
  | cons f r ih =>
    simp only [readGs]
    rw [show readG (s.setMe x) st f = readG s st f from rfl, ih]

theorem readG_frame (s : State) (st : Stream) (f : G) :
    (readG s st f).2 = { st with q := (readG s st f).2.q } := by
  unfold readG Stream.popQ
  split
  · rfl
  · split <;> rfl

/-- Reading operands changes the stream registers alone. -/
theorem readGs_frame (s : State) (st : Stream) (l : List G) : (readGs s st l).2 = { st with q := (readGs s st l).2.q } := by
  induction l generalizing st with
  | nil => rfl
  | cons f r ih =>
    simp only [readGs]
    rw [ih, readG_frame s st f]

/-- The stream that acts reads the values that the stream holds. -/
theorem readGs_start (s : State) (l : List G) :
    readGs s s.start l = ((readGs s s.me l).1, { s.start with q := (readGs s s.me l).2.q }) := by
  rw [State.start, ← readGs_frame]

/-- With no stream register among them, reading operands changes nothing. -/
theorem readGs_noQ (s : State) (st : Stream) (l : List G) (h : l.any G.isQ = false) : (readGs s st l).2 = st := by
  induction l generalizing st with
  | nil => rfl
  | cons f r ih =>
    simp only [List.any_cons, Bool.or_eq_false_iff] at h
    simp only [readGs]
    have e : (readG s st f).2 = st := by
      unfold readG
      simp only [h.1, Bool.false_eq_true, if_false]
      split <;> rfl
    rw [e]
    exact ih st h.2

/-- An instruction whose operands are ready reads them. -/
theorem withOperands_go {s : State} {st : Stream} (u : Use) (k : List Word → State → Out) (hst : st.run = .run)
    (h : canRead s st u = true) :
    withOperands u (s.setMe st) k = k (readGs s st u.srcs).1 (s.setMe (readGs s st u.srcs).2) := by
  unfold canRead at h
  rw [Bool.and_eq_true] at h
  unfold withOperands
  simp only [State.setMe_cur, State.strmOf_setMe, h.1, qReady_setMe, h.2, Bool.not_true, Bool.false_eq_true, if_false,
    readGs_setMe]
  rw [State.setMe_setMe _ _ hst]

theorem canRead_start {s : State} {u : Use} (h : canRead s s.me u = true) : canRead s s.start u = true := h

/-- The stream after its operands are read differs in its stream registers alone. -/
theorem readGs_pc (s : State) (st : Stream) (l : List G) : (readGs s st l).2.pc = st.pc := by rw [readGs_frame]
theorem readGs_run (s : State) (st : Stream) (l : List G) : (readGs s st l).2.run = st.run := by rw [readGs_frame]
theorem readGs_p (s : State) (st : Stream) (l : List G) : (readGs s st l).2.p = st.p := by rw [readGs_frame]

/-- SetG changes landings, arrivals and pending bits alone. -/
theorem setG_frame (st : Stream) (now : Nat) (f : G) (v : Word) (lat : Nat) (q : Bool) :
    setG st now f v lat q = { st with land := (setG st now f v lat q).land, arr := (setG st now f v lat q).arr,
                                      pend := (setG st now f v lat q).pend } := by
  unfold setG
  split
  · rfl
  · split <;> rfl

theorem setP_frame (st : Stream) (now : Nat) (f : P) (v q : Bool) :
    setP st now f v q = { st with land := (setP st now f v q).land } := by
  unfold setP
  split <;> rfl

theorem setG_pc (st : Stream) (now : Nat) (f : G) (v : Word) (lat : Nat) (q : Bool) : (setG st now f v lat q).pc = st.pc := by
  rw [setG_frame]
theorem setP_pc (st : Stream) (now : Nat) (f : P) (v q : Bool) : (setP st now f v q).pc = st.pc := by rw [setP_frame]

/-- A body that reads operands, changes its stream and issues. -/
theorem operands_issue {s : State} {h : Header} {mj : Nat} {u : Use} {k : List Word → State → Out}
    (hr : s.runs h mj) (hc : canRead s s.me u = true) :
    guarded h mj s (fun s1 => withOperands u s1 k) = k (readGs s s.start u.srcs).1 (s.setMe (readGs s s.start u.srcs).2) := by
  rw [guarded_go hr, withOperands_go _ _ (by rw [State.start_run]; exact hr.1.1) (canRead_start hc)]

/-- A scalar computation issues (R88, R90). -/
theorem alu_issues {s : State} {h : Header} {mj : Nat} {gd : G} {srcs : List G} {lat : Nat} {f : List Word → State → Word}
    (hr : s.runs h mj) (hc : canRead s s.me { srcs := srcs, dst := some gd } = true) :
    ∃ t, alu h mj gd srcs lat f s = .next t ∧
      s.issues s h (s.me.pc + 8)
        (setG (readGs s s.start srcs).2 s.now gd (f (readGs s s.start srcs).1 (s.setMe (readGs s s.start srcs).2)) lat
          (srcs.any G.isQ)) t := by
  unfold alu
  rw [operands_issue hr hc]
  simp only [State.setMe_cur, State.strmOf_setMe, State.setMe_now]
  rw [State.setMe_setMe _ _ (by rw [readGs_run]; exact hr.1.1)]
  exact retire_at (s := s) h 8 _ rfl rfl (by rw [setG_pc, readGs_pc]; rfl)

/-- A compare issues (R88, R90). -/
theorem cmp_issues {s : State} {h : Header} {mj : Nat} {pd : P} {srcs : List G} {f : List Word → Bool}
    (hr : s.runs h mj) (hc : canRead s s.me { srcs := srcs } = true) :
    ∃ t, cmp h mj pd srcs f s = .next t ∧
      s.issues s h (s.me.pc + 8) (setP (readGs s s.start srcs).2 s.now pd (f (readGs s s.start srcs).1) (srcs.any G.isQ)) t := by
  unfold cmp
  rw [operands_issue hr hc]
  simp only [State.setMe_cur, State.strmOf_setMe, State.setMe_now]
  rw [State.setMe_setMe _ _ (by rw [readGs_run]; exact hr.1.1)]
  exact retire_at (s := s) h 8 _ rfl rfl (by rw [setP_pc, readGs_pc]; rfl)

/-- A predicate operation issues (R88, R112). -/
theorem pop2_issues {s : State} {h : Header} {pd pa pb : P} {f : Bool → Bool → Bool} (hr : s.runs h 2) :
    ∃ t, pop2 h pd pa pb f s = .next t ∧
      s.issues s h (s.me.pc + 8) (setP s.start s.now pd (f (s.me.pr pa) (s.me.pr pb)) false) t := by
  unfold pop2
  rw [guarded_go hr]
  simp only [State.setMe_cur, State.strmOf_setMe, State.setMe_now]
  rw [State.setMe_setMe _ _ (by rw [State.start_run]; exact hr.1.1)]
  exact retire_at (s := s) h 8 _ rfl rfl (by rw [setP_pc]; rfl)

end Sys2Proof.Machine
end

