-- ==== Sys2Proof/Laws/Fault.lean ====
section
/-!
SUPPORT. What taking a fault does (Machine/Ops.lean): translation beside other state, the bytes of an image, and the entry of
the handler, each said once.
-/
namespace Sys2Proof.Machine

/-! ### Translation looks at memory, the caches and the device alone -/

/-- What an address translation looks at. -/
def State.sameView (s t : State) : Prop := s.mem = t.mem ∧ s.core = t.core ∧ s.clus = t.clus ∧ s.dev = t.dev

theorem walkGo_view {s t : State} (h : s.sameView t) (o va lvl tbl : Nat) : walkGo s o va lvl tbl = walkGo t o va lvl tbl := by
  obtain ⟨h1, -, -, h4⟩ := h
  induction lvl generalizing tbl with
  | zero => rfl
  | succ n ih =>
    have e : s.partSize o = t.partSize o := by simp only [State.partSize, State.stacksOf, State.quarters, State.ownerQ, h4]
    have e2 : ∀ d, s.inDomain d = t.inDomain d := by intro d; simp only [State.inDomain, h4]
    simp only [walkGo, e, h1, e2, ih]

theorem walk_view {s t : State} (h : s.sameView t) (ctx va : Nat) : walk s ctx va = walk t ctx va := by
  have h4 := h.2.2.2
  simp only [walk, walkGo_view h, State.ctxOf, State.ownerC, h4]
  rfl

theorem asleep_view {s t : State} (h : s.sameView t) (l : Loc) : s.asleep l = t.asleep l := by
  have h4 := h.2.2.2
  simp only [State.asleep, State.stacksOf, State.quarters, State.ownerQ, State.stackOf, h4]

/-- A change beside what translation looks at goes through it. -/
theorem translate_beside {s : State} (g : State → State) (hg : ∀ x : State, (g x).sameView x)
    (hc : ∀ (x : State) (c : Sparse Core) (m : List Host.Cell) (k : Sparse (List Tlb)),
      g { x with core := c, mem := m, clus := k } = { g x with core := c, mem := m, clus := k })
    {core ctx va : Nat} {n : Need} {l : Loc} {e : Nat} {u : State} (h : translate s core ctx va n = .ok l e u) :
    translate (g s) core ctx va n = .ok l e (g u) := by
  have hv := hg s
  have h1 : (g s).coreOf core = s.coreOf core := by simp only [State.coreOf, hv.2.1]
  have ht : ∀ o x w, touchPage (g s) core o x w = ((touchPage s core o x w).1, g (touchPage s core o x w).2) := by
    intro o x w
    simp only [touchPage, State.setCore, hv.1, hv.2.2.1, hv.2.1, h1]
    exact congrArg _ (hc ..).symm
  unfold translate at h ⊢
  split at h
  · cases h
  · rw [if_neg ‹_›]
    simp only [h1, hv.2.2.1, walk_view hv, asleep_view hv, ht, State.ownerC, State.ctxOf, hv.2.2.2] at h ⊢
    revert h
    split
    · intro h; cases h
    · split <;> (split <;> intro h <;> cases h; rfl)

/-! ### Images -/

/-- Fields written beside a field leave it. -/
theorem bits_image_ne (l : List (Nat × Nat × Nat)) (v lo n : Nat) (h : ∀ x ∈ l, lo + n ≤ 8 * x.1) :
    bits (l.foldl (fun v x => setBits v (8 * x.1) (8 * x.2.1) x.2.2) v) lo n = bits v lo n := by
  induction l generalizing v with
  | nil => rfl
  | cons x r ih =>
    rw [List.foldl_cons, ih _ fun y hy => h y (List.mem_cons_of_mem _ hy)]
    exact bits_setBits_ne _ _ _ _ _ _ (.inl (h x List.mem_cons_self))

theorem bits_whole (v n : Nat) : bits v 0 n = v % 2^n := by simp [bits]

/-- The first words of the frame page (R329). -/
theorem frameImage_words (s : State) (tk : Nat) (f : FaultRec) :
    bits (frameImage s tk (some f)) 0 64 = f.finfo.toNat ∧ bits (frameImage s tk (some f)) 64 64 = f.faddr.toNat
      ∧ bits (frameImage s tk (some f)) 128 64 = f.fcyc % 2^64 := by
  unfold frameImage image
  simp only [Option.getD_some]
  generalize hp : List.flatMap _ (streamKeys (s.taskOf tk) tk) = per
  have hper : ∀ x ∈ per, 256 ≤ 8 * x.1 := by
    intro x hx
    rw [← hp, List.mem_flatMap] at hx
    obtain ⟨k, -, hk⟩ := hx
    simp only [List.cons_append, List.nil_append, List.mem_cons, List.mem_flatMap, List.mem_range] at hk
    rcases hk with rfl | rfl | rfl | ⟨e, -, he⟩
    · simp; omega
    · simp; omega
    · simp; omega
    · simp only [List.not_mem_nil, or_false] at he
      rcases he with rfl | rfl <;> simp <;> omega
  simp only [List.cons_append, List.nil_append, List.foldl_cons]
  refine ⟨?_, ?_, ?_⟩
  · rw [bits_image_ne _ _ _ _ fun x hx => by have := hper x hx; omega, bits_setBits_ne _ _ _ _ _ _ (by omega),
      bits_setBits_ne _ _ _ _ _ _ (by omega), bits_setBits_ne _ _ _ _ _ _ (by omega), bits_setBits_self]
    exact Nat.mod_eq_of_lt f.finfo.isLt
  · rw [bits_image_ne _ _ _ _ fun x hx => by have := hper x hx; omega, bits_setBits_ne _ _ _ _ _ _ (by omega),
      bits_setBits_ne _ _ _ _ _ _ (by omega), bits_setBits_self]
    exact Nat.mod_eq_of_lt f.faddr.isLt
  · rw [bits_image_ne _ _ _ _ fun x hx => by have := hper x hx; omega, bits_setBits_ne _ _ _ _ _ _ (by omega),
      bits_setBits_self]
    omega

/-! ### Taking a fault -/

theorem mem_foldl_strm (s : State) (f : Stream → Stream) (ks : List Nat) :
    ks.foldl (fun s k => s.setStrm k (f (s.strmOf k))) s =
      { s with strm := (ks.foldl (fun s k => s.setStrm k (f (s.strmOf k))) s).strm } := by
  induction ks generalizing s with
  | nil => rfl
  | cons k r ih => simp only [List.foldl_cons]; rw [ih]; rfl

theorem strmOf_foldl_out (s : State) (f : Stream → Stream) (ks : List Nat) {j : Nat} (h : j ∉ ks) :
    (ks.foldl (fun s k => s.setStrm k (f (s.strmOf k))) s).strmOf j = s.strmOf j := by
  induction ks generalizing s with
  | nil => rfl
  | cons k r ih =>
    simp only [List.mem_cons, not_or] at h
    rw [List.foldl_cons, ih _ h.2, State.strmOf_setStrm_ne _ _ h.1]

theorem strmOf_foldl_in (s : State) (f : Stream → Stream) (ks : List Nat) {j : Nat} (h : j ∈ ks) (hn : ks.Nodup) :
    (ks.foldl (fun s k => s.setStrm k (f (s.strmOf k))) s).strmOf j = f (s.strmOf j) := by
  induction ks generalizing s with
  | nil => cases h
  | cons k r ih =>
    rw [List.nodup_cons] at hn
    rw [List.foldl_cons]
    rcases List.mem_cons.1 h with rfl | h'
    · rw [strmOf_foldl_out _ _ _ hn.1, State.strmOf_setStrm]
    · rw [ih _ h' hn.2, State.strmOf_setStrm_ne]
      rintro rfl
      exact hn.1 h'

/-- A function of a task's streams reaches each of them, and nothing else. -/
theorem onStreams_in (s : State) (tk : Nat) (f : Stream → Stream) {n : Nat} (h : n ∈ (s.taskOf tk).phys)
    (hn : (s.taskOf tk).phys.Nodup) (ho : bitN (s.taskOf tk).out.toNat 0 = false) : (onStreams s tk f).strmOf (8 * (tk / 4) + n) = f (s.strmOf (8 * (tk / 4) + n)) := by
  unfold onStreams streamKeys
  rw [ho, if_neg (by simp)]
  apply strmOf_foldl_in
  · exact List.mem_map_of_mem h
  · exact hn.map fun a b e => by simpa using e

theorem onStreams_out (s : State) (tk : Nat) (f : Stream → Stream) {j : Nat}
    (h : j / 8 ≠ tk / 4 ∨ j % 8 ∉ (s.taskOf tk).phys) (hp : ∀ n ∈ (s.taskOf tk).phys, n < 8) :
    (onStreams s tk f).strmOf j = s.strmOf j := by
  unfold onStreams streamKeys
  apply strmOf_foldl_out
  intro hm
  split at hm
  · cases hm
  obtain ⟨n, hn, rfl⟩ := List.mem_map.1 hm
  have := hp n hn
  rcases h with h | h
  · omega
  · apply h
    rwa [show (8 * (tk / 4) + n) % 8 = n by omega]

theorem onStreams_frame (s : State) (tk : Nat) (f : Stream → Stream) : onStreams s tk f = { s with strm := (onStreams s tk f).strm } :=
  mem_foldl_strm s f _

/-- A field of a written image, read as bytes. -/
theorem readN_field (m : List Host.Cell) (k n v o l : Nat) (h : o + l ≤ n) :
    readN (writeN m k n v) (k + o) l = bits v (8 * o) (8 * l) := by
  induction l generalizing o with
  | zero => simp [readN, bits, Nat.mod_one]
  | succ l ih =>
    have e := ih (o + 1) (by omega)
    simp only [readN, Nat.add_assoc] at e ⊢
    rw [e, readB_writeN_in (by omega)]
    simp only [bits, BitVec.toNat_ofNat]
    rw [show 8 * (l + 1) = 8 + 8 * l by ring, Nat.pow_add 2 8, Nat.mod_mul, Nat.div_div_eq_div_mul, ← Nat.pow_add,
      show 8 * o + 8 = 8 * (o + 1) by ring]

theorem State.store_mem (s : State) (k n v : Nat) : (s.store k n v).mem = writeN s.mem k n v := rfl

/-- A write by the device itself to a block that no epoch has still to copy is a store past the hot words. -/
theorem State.put_free {s : State} {k : Nat} (h : s.ckHold k = false) (n v : Nat) : s.put k n v = (s.forward k n 1).store k n v := by
  unfold State.put State.ckFirst
  rw [h]
  rfl

theorem sortBy_nil {α : Type} (lt : α → α → Bool) : sortBy lt ([] : List α) = [] := rfl

theorem me_slot (s : State) : s.me.slot = (s.strmOf s.cur).slot := landAll_frame _ _ (·.slot) fun _ _ _ => rfl
theorem me_tnum (s : State) : s.me.tnum = (s.strmOf s.cur).tnum := landAll_frame _ _ (·.tnum) fun _ _ _ => rfl
theorem me_mode (s : State) : s.me.mode = (s.strmOf s.cur).mode := landAll_frame _ _ (·.mode) fun _ _ _ => rfl

theorem reportFault_idle {s : State} {tk : Nat} {f : FaultRec} (h1 : (s.taskOf tk).fault = none) (h2 : (s.taskOf tk).stat = .run)
    (h3 : (s.ctxOf (s.taskOf tk).ctx).ttrig = 0) :
    reportFault s tk f = s.setTask tk { s.taskOf tk with fault := some f, stat := .stopping } := by
  unfold reportFault
  simp only [h1, h2, bne_self_eq_false, Bool.not_true, Bool.false_and, Bool.or_self, Bool.false_eq_true, if_false]
  unfold traceEvent
  rw [show ∀ x, (s.setTask tk x).ctxOf (s.taskOf tk).ctx = s.ctxOf (s.taskOf tk).ctx from fun _ => rfl]
  dsimp only
  rw [h3]
  rfl

theorem commitStarted_none {s : State} {tk : Nat} (h : ∀ o ∈ s.taskOps tk, o.eng = .vec → o.ph = .queued) : commitStarted s tk = s := by
  unfold commitStarted
  dsimp only
  rw [List.filter_eq_nil_iff.2, sortBy_nil]
  · rfl
  · intro o ho
    have := h o ho
    simp only [Bool.and_eq_true, beq_iff_eq, bne_iff_ne, not_and, not_not]
    exact this

/-- Translating changes the caches and the page table alone. -/
theorem translate_frame {s : State} {core ctx va : Nat} {n : Need} {l : Loc} {e : Nat} {u : State}
    (h : translate s core ctx va n = .ok l e u) : u = { s with core := u.core, clus := u.clus, mem := u.mem } := by
  unfold translate at h
  split at h
  · cases h
  · revert h
    dsimp only
    split
    · intro h; cases h
    · split <;> (split <;> intro h <;> cases h; rfl)

/-- Whether others may still fault in this cycle does not depend on the current stream's own record. -/
theorem mayStill_setMe (s : State) (tk : Nat) (x : Stream) : (s.setMe x).mayStill tk s.cur = s.mayStill tk s.cur := by
  unfold State.mayStill
  rw [show (s.setMe x).taskOf tk = s.taskOf tk from rfl]
  congr 1
  funext j
  by_cases h : j = s.cur
  · simp [h]
  · rw [State.strmOf_setMe_ne _ _ h]
    rfl

/-- Without sampling a fault leaves no sample. -/
theorem sampleFault_off {s : State} (h : sampleK (s.ctxOf s.myCtx) = none) : sampleFault s = s := by
  unfold sampleFault
  simp [h]

/-- Where no vector operation of a task has started, a fault stop ends its counted waits and marks it stopped (R327). -/
theorem faultStop_quiet {s : State} {tk : Nat} (h : ∀ o ∈ s.taskOps tk, o.eng = .vec → o.ph = .queued) :
    faultStop s tk = (s.setOps (s.ops.map fun o => if o.core = tk / 4 && o.slot = tk % 4 then { o with wait := none } else o)).setTask tk
      { s.taskOf tk with stat := .stopped, gate0 := s.now } := by
  unfold faultStop
  rw [commitStarted_none h]
  rfl

/-- A task none of whose operations is in a step has no step to wait for. -/
theorem stepsEnd_none {s : State} {tk : Nat} (h : ∀ o ∈ s.taskOps tk, o.inStep s.now = false) : stepsEnd s tk = 0 := by
  unfold stepsEnd
  generalize s.taskOps tk = l at h
  induction l with
  | nil => rfl
  | cons o r ih =>
    rw [List.foldl_cons, h o List.mem_cons_self]
    exact ih fun p hp => h p (List.mem_cons_of_mem _ hp)

/-- A fault of the current stream enters its handler (R327, R331). -/
theorem raise_vectors {s u : State} {l : Loc} {f : FaultRec} (h : s.vectorsTo l u) (hr : s.me.run = .run)
    (hc : f.cause ≠ 0x11) (hh : f.host = false) (hs : f.strm = s.me.tnum) (hn : f.fcyc = s.now) :
    ∃ t, raise (s.setMe s.me) f = .next t ∧ s.vectors u f (memKey l) t := by
  obtain ⟨⟨p1, p5, p2, p3, p4⟩, h1, h2, h3, h4, h5, h8, h9, h6, h10, h11, e, h7⟩ := h
  have htk : s.tkey s.cur / 4 = s.cur / 8 := by unfold State.tkey; rw [← me_slot]; omega
  have htm : s.tkey s.cur % 4 = s.me.slot := by unfold State.tkey; rw [← me_slot]; omega
  set s0 := s.setMe s.me with hs0
  have k0 : s0.tkey s0.cur = s.tkey s.cur := by
    show 4 * (s.cur / 8) + (s0.strmOf s.cur).slot = _
    rw [hs0, State.strmOf_setMe]; unfold State.tkey; rw [← me_slot]
  have t0 : s0.taskOf (s.tkey s.cur) = s.myTask := rfl
  have c0 : s0.myCtx = s.myCtx := by
    show (s0.taskOf (s0.tkey s0.cur)).ctx = _
    rw [k0]; rfl
  have e1 : takeFault s0 f = (faultVector (faultStop (reportFault s0 (s.tkey s.cur) f) (s.tkey s.cur)) (s.tkey s.cur)).wake := by
    unfold takeFault
    rw [sampleFault_off (by rw [c0]; exact h8), k0, show s0.cur = s.cur from rfl, hs0, State.strmOf_setMe]
    dsimp only
    rw [mayStill_setMe, h9]
    simp only [h1, Bool.false_eq_true, if_false]
  refine ⟨_, rfl, ?_⟩
  rw [e1, reportFault_idle (by rw [t0]; exact h3) (by rw [t0]; exact h2) (by rw [t0]; exact h5), t0]
  obtain ⟨s1, hs1⟩ : ∃ x, x = faultStop (s0.setTask (s.tkey s.cur) { s.myTask with fault := some f, stat := .stopping }) (s.tkey s.cur) :=
    ⟨_, rfl⟩
  rw [← hs1]
  rw [faultStop_quiet] at hs1
  · set quiet : Op → Op := fun o => if o.core = s.tkey s.cur / 4 && o.slot = s.tkey s.cur % 4 then { o with wait := none } else o with hq
    have hs1e : s1 = { s with strm := s1.strm, task := s1.task, ops := s.ops.map quiet } := by rw [hs1]; rfl
    have hT1 : s1.taskOf (s.tkey s.cur) = { s.myTask with fault := some f, stat := .stopped, gate0 := s.now } := by
      rw [hs1, State.taskOf_setTask, State.taskOf_setTask]; rfl
    have hTn : ∀ j, j ≠ s.tkey s.cur → s1.taskOf j = s.taskOf j := by
      intro j hj
      rw [hs1, State.taskOf_setTask_ne _ _ hj]
      exact mget_mput_ne {} s0.task { s.myTask with fault := some f, stat := .stopping } hj
    have s1S : ∀ j, s1.strmOf j = s0.strmOf j := fun j => by rw [hs1]; rfl
    clear hs1
    unfold faultVector
    rw [hT1]
    dsimp only
    rw [if_neg hc, hh, if_neg (by simp), if_neg h4]
    have hu := translate_frame h7
    have uD : u.dev = s.dev := by rw [hu]
    have hw : writeFrame s1 (s.tkey s.cur) f = some ((({ u with strm := s1.strm, task := s1.task, ops := s.ops.map quiet } : State).forward (memKey l) 4096 1).store
        (memKey l) 4096 (frameImage s1 (s.tkey s.cur) (some f))) := by
      unfold writeFrame
      have ht := translate_beside (fun x => { x with strm := s1.strm, task := s1.task, ops := s.ops.map quiet })
        (fun x => ⟨rfl, rfl, rfl, rfl⟩) (fun _ _ _ _ => rfl) h7
      rw [hT1, htk, hs1e]
      dsimp only
      rw [show translate { s with strm := s1.strm, task := s1.task, ops := s.ops.map quiet } (s.cur / 8) s.myTask.ctx
        (s.myTask.evb.toNat + 4096) .w = _ from ht]
      dsimp only
      rw [show reachable { s with strm := s1.strm, task := s1.task, ops := s.ops.map quiet } s.myTask.ctx l = true from h10, if_pos rfl,
        State.put_free]
      show State.ckHold { u with strm := s1.strm, task := s1.task, ops := s.ops.map quiet } (memKey l) = false
      unfold State.ckHold State.funOf at h11 ⊢
      dsimp only
      rw [uD]
      exact h11
    rw [hw]
    dsimp only
    set w := ((({ u with strm := s1.strm, task := s1.task, ops := s.ops.map quiet } : State).forward (memKey l) 4096 1).store (memKey l) 4096
      (frameImage s1 (s.tkey s.cur) (some f))) with hw'
    have wT : w.task = s1.task := rfl
    have wS : w.strm = s1.strm := rfl
    have hwt : w.taskOf (s.tkey s.cur) = { s.myTask with fault := some f, stat := .stopped, gate0 := s.now } := by
      unfold State.taskOf; rw [wT]; exact hT1
    rw [hwt]
    set x := w.setTask (s.tkey s.cur) { s.myTask with stat := .handler, fault := none, kept := some f, gate0 := s.now } with hx
    have hxt : x.taskOf (s.tkey s.cur) = { s.myTask with stat := .handler, fault := none, kept := some f, gate0 := s.now } :=
      State.taskOf_setTask ..
    have s1n : s1.now = s.now := by rw [hs1e]
    have hend : stepsEnd s1 (s.tkey s.cur) = 0 := by
      refine stepsEnd_none fun o ho => ?_
      unfold State.taskOps at ho
      rw [hs1e] at ho ⊢
      simp only [List.mem_filter, List.mem_map, Bool.and_eq_true, beq_iff_eq, htk, htm] at ho
      obtain ⟨⟨p, hp, rfl⟩, ho1, ho2⟩ := ho
      have e1 : (quiet p).core = p.core ∧ (quiet p).slot = p.slot ∧ (quiet p).inStep s.now = p.inStep s.now := by
        rw [hq]; dsimp only; split <;> exact ⟨rfl, rfl, rfl⟩
      rw [e1.2.2]
      exact (h6 p hp (e1.1 ▸ ho1) (e1.2.1 ▸ ho2)).2
    rw [s1n, hend, Nat.max_eq_left (Nat.zero_le _)]
    rw [onStreams_frame]
    have hcur : 8 * (s.tkey s.cur / 4) + s.cur % 8 = s.cur := by rw [htk]; omega
    have hm : w.mem = writeN u.mem (memKey l) 4096 (frameImage s1 (s.tkey s.cur) (some f)) := State.store_mem ..
    obtain ⟨f1, f2, f3⟩ := frameImage_words s1 (s.tkey s.cur) f
    have hrest : w.obj = s.obj ∧ w.ops = s.ops.map quiet ∧ w.ctl = s.ctl ∧ w.dev = { s.dev with ports := w.dev.ports, hbm := w.dev.hbm } ∧ w.now = s.now :=
      ⟨by show u.obj = _; rw [hu], rfl, by show u.ctl = _; rw [hu], by rw [← uD]; rfl, by show u.now = _; rw [hu]⟩
    have hops : s.ops.map quiet = s.ops.map (fun o => if o.core = s.myCore ∧ o.slot = s.me.slot then { o with wait := none } else o) := by
      rw [hq]
      refine List.map_congr_left fun o _ => ?_
      rw [htk, htm]
      simp only [Bool.and_eq_true, decide_eq_true_eq]
      rfl
    rw [hops] at hrest
    clear_value w
    refine ⟨hxt, ?_, ?_, ?_, ?_, ?_, ?_, ?_, ?_⟩
    · show (onStreams x (s.tkey s.cur) _).strmOf s.cur = _
      have := onStreams_in x (s.tkey s.cur) (fun st =>
          if st.tnum = f.strm then
            { st with mode := .handler, finfo := f.finfo, pc := s.myTask.evb + BitVec.ofNat 64 (64 * f.cause), run := .run
                      nextIss := s.now + 1, wait := none, barW := none }
          else { st with wait := none, barW := none }) (n := s.cur % 8) (by rw [hxt]; exact p2) (by rw [hxt]; exact p3)
          (by rw [hxt]; exact p5)
      rw [hcur] at this
      refine Eq.trans this ?_
      rw [show x.strmOf s.cur = s.me from by
        show w.strmOf s.cur = _
        rw [show w.strmOf s.cur = s1.strmOf s.cur by unfold State.strmOf; rw [wS], s1S, hs0, State.strmOf_setMe]]
      rw [if_pos hs.symm]
      simp only [hr]
    · show readN w.mem (memKey l) 8 = _
      rw [hm]
      have := readN_field u.mem (memKey l) 4096 (frameImage s1 (s.tkey s.cur) (some f)) 0 8 (by omega)
      rw [Nat.add_zero] at this; rw [this]; exact f1
    · show readN w.mem (memKey l + 8) 8 = _
      rw [hm, readN_field _ _ _ _ _ _ (by omega)]; exact f2
    · show readN w.mem (memKey l + 16) 8 = _
      rw [hm, readN_field _ _ _ _ _ _ (by omega)]; rw [← hn]; exact f3
    · intro a ha
      show readB w.mem a = _
      rw [hm]; exact readB_writeN_out ha
    · intro j hj
      show x.taskOf j = _
      rw [hx, State.taskOf_setTask_ne _ _ hj, show w.taskOf j = s1.taskOf j by unfold State.taskOf; rw [wT]]
      exact hTn j hj
    · intro j hj
      refine Eq.trans (onStreams_out x (s.tkey s.cur) _ (by rw [hxt, htk]; exact hj) (by rw [hxt]; exact p4)) ?_
      show w.strmOf j = _
      rw [show w.strmOf j = s1.strmOf j by unfold State.strmOf; rw [wS], s1S, hs0]
      apply State.strmOf_setMe_ne
      rintro rfl
      rcases hj with hj | hj
      · exact hj rfl
      · exact hj p2
    · exact hrest
  · intro o ho
    unfold State.taskOps at ho
    rw [List.mem_filter] at ho
    simp only [Bool.and_eq_true, beq_iff_eq, htk, htm] at ho
    exact (h6 o ho.1 ho.2.1 ho.2.2).1
end Sys2Proof.Machine
end

