-- ==== Sys2Proof/Laws/Memory.lean ====
section
/-!
SUPPORT. Every operation that writes memory keeps its canonical form (assumption 3): stores and atomics, the accessed and
dirty marks of a table entry, writes through a context's tables, records in host memory, the wiping of a partition, moved
bytes, blocks put back, PERST#, and the words that `withFetchWord` places. Reset's memory has it.
-/
namespace Sys2Proof.Machine

/-- Leaving out cells keeps the form. -/
theorem memWf_filter {m : List Host.Cell} (h : memWf m) (p : Host.Cell → Bool) : memWf (m.filter p) :=
  ⟨h.1.sublist (List.Sublist.map _ List.filter_sublist), fun e he => h.2 e (List.mem_filter.1 he).1⟩

/-- Writing any list of bytes keeps the form. -/
theorem memWf_foldl {α : Type} {m : List Host.Cell} (h : memWf m) (l : List α) (k : α → Nat) (b : α → Byte) :
    memWf (l.foldl (fun m e => writeB m (k e) (b e)) m) := by
  induction l generalizing m with
  | nil => exact h
  | cons e r ih => exact ih (memWf_writeB h _ _)

/-- A fold over states keeps the form where each step does. -/
theorem memOk_foldl {α : Type} {f : State → α → State} (hf : ∀ s a, s.memOk → (f s a).memOk) (l : List α) {s : State}
    (h : s.memOk) : (l.foldl f s).memOk := by
  induction l generalizing s with
  | nil => exact h
  | cons e r ih => exact ih (hf s e h)

theorem memOk_store {s : State} (h : s.memOk) (k n v : Nat) : (s.store k n v).memOk := memWf_writeN h k n v

/-- The marks that an access leaves in a table entry keep the form. -/
theorem memOk_touch {s : State} (h : s.memOk) (ctx va : Nat) (wr : Bool) : (s.touch ctx va wr).memOk := by
  unfold State.touch
  split
  · exact memWf_writeN h _ 8 _
  · exact h

/-- Taking a block before a write leaves memory as it is. -/
theorem State.ckFirst_mem (s : State) (k : Nat) : (s.ckFirst k).mem = s.mem := by
  unfold State.ckFirst
  split <;> rfl

/-- Passing the hot words leaves memory as it is. -/
theorem State.forward_mem (s : State) (k n kind : Nat) : (s.forward k n kind).mem = s.mem := rfl

theorem memOk_put {s : State} (h : s.memOk) (k n v : Nat) : (s.put k n v).memOk :=
  memOk_store (by unfold State.memOk; rw [State.forward_mem, State.ckFirst_mem]; exact h) k n v

theorem memOk_touchPage {s : State} (h : s.memOk) (core : Nat) (own : Bool) (e : Tlb) (wr : Bool) : (touchPage s core own e wr).2.memOk := by
  have one (c : Prop) [Decidable c] (v : Nat) : memWf (if c then s.mem else writeN s.mem e.ploc 8 v) := by
    split
    · exact h
    · exact memWf_writeN h _ _ _
  exact one _ _

/-- A translation keeps the form: it marks at most one entry. -/
theorem memOk_translate {s u : State} {core ctx va : Nat} {n : Need} {l : Loc} {e : Nat} (h : s.memOk)
    (ht : translate s core ctx va n = .ok l e u) : u.memOk := by
  unfold translate at ht
  dsimp only at ht
  have stop (l' : Loc) (p own : Bool) (e' : Tlb) (h' : (if p = true then TRes.attr else
      .ok l' (touchPage s core own e' n.writes).1.pte.toNat (touchPage s core own e' n.writes).2) = .ok l e u) : u.memOk := by
    split at h'
    · cases h'
    · injection h' with _ _ hu
      exact hu ▸ memOk_touchPage h _ _ _ _
  split at ht
  · cases ht
  · split at ht
    · cases ht
    · split at ht <;> exact stop _ _ _ _ ht

/-- A write through a context's tables keeps the form, also where it stops at a page. -/
theorem memOk_vwrite {s : State} (h : s.memOk) (ctx : Nat) (pin : Bool) (fuel va n v : Nat) :
    (vwrite s ctx pin fuel va n v).2.2.memOk := by
  induction fuel generalizing s va n v with
  | zero => exact h
  | succ fuel ih =>
    unfold vwrite
    split
    · exact h
    · split
      · exact h
      · dsimp only
        split
        · exact h
        · exact ih (memOk_put (memOk_touch h _ _ _) _ _ _) _ _ _

/-- A record written to a ring of host memory keeps the form, also where it wraps. -/
theorem memWf_hostRing {m : List Host.Cell} (h : memWf m) (base size pos n v : Nat) : memWf (hostRing m base size pos n v) :=
  memWf_writeN (memWf_writeN h _ _ _) _ _ _

/-- A machine check writes its ring entry and keeps the form. -/
theorem memOk_machineCheck {s : State} (h : s.memOk) (kind qtr sev ctx : Nat) (loc info : Word) :
    (machineCheck s kind qtr sev ctx loc info).memOk := by
  unfold machineCheck
  dsimp only
  split
  · exact memWf_writeN h _ _ _
  · exact h

theorem memOk_wipeMem {s : State} (h : s.memOk) (o : Nat) : (wipeMem s o).memOk := memWf_filter h _

theorem memOk_unbind {s : State} (h : s.memOk) (c : Nat) : (unbind s c).memOk := h

/-- A change of an owner's quarters keeps the form. -/
theorem memOk_remap {s : State} (h : s.memOk) (o : Nat) : (remap s o).memOk := by
  unfold remap
  split
  · exact memOk_foldl (fun s a hs => memOk_unbind hs a) _ (memOk_wipeMem h o)
  · exact memWf_foldl h _ (fun e : Nat × Host.Cell => e.2.1) _

/-- Putting a checkpoint's block back keeps the form. -/
theorem memOk_putBlock {s : State} (h : s.memOk) (b : Block) : (putBlock s b).memOk :=
  memWf_foldl (memWf_filter h _) b.data (fun e => b.key + e.1) (fun e => e.2)

/-- PERST# keeps the form. -/
theorem memOk_perst {s t : State} (h : s.memOk) (ht : execPerstDeassert s = .next t) : t.memOk := by
  unfold execPerstDeassert at ht
  injection ht with ht
  subst ht
  exact memWf_filter h _

theorem memOk_withFetchWord {s : State} (h : s.memOk) (n w : Nat) : (s.withFetchWord n w).memOk := memWf_writeN h _ _ _

theorem memOk_reset : State.reset.memOk := memWf_nil

end Sys2Proof.Machine
end

