-- ==== Sys2Proof/Laws/PerInstr.lean ====
section
/-!
SUPPORT. Decoding inverts encoding, instruction by instruction: the family `Decodes`.
-/
set_option linter.unusedSimpArgs false
set_option linter.unreachableTactic false
set_option linter.unusedTactic false
namespace Sys2Proof.Laws.Decodes

/-- Where a well-formed instruction has words, its first word, with its extension word or, of a short form, with anything behind
it, decodes to the instruction (R44 to R68, R70). -/
def Statement (i : Instr) : Prop := i.wf = true → ∀ (w : Word) (r : List Word), encode i = w :: r → ∀ x : Nat,
  (∀ y ∈ r.head?, x = y.toNat) → decodeWords w.toNat x = .ok i

/-- A step without words is no instruction's word. -/
theorem none' (i : Instr) (h : encode i = []) : Statement i := fun _ w r e => by rw [h] at e; cases e

theorem nop h : Statement (.nop h) := fun hwf => decode_short (maj := 0) (min := 0) (ops := 0) rfl
    (by decide) (by decide) (by decide) rfl (by intro w x r; simp [hasLong, raw, raw0, r.maj, r.min, r.hdr]) hwf

theorem halt h : Statement (.halt h) := fun hwf => decode_short (maj := 0) (min := 1) (ops := 0) rfl
    (by decide) (by decide) (by decide) rfl (by intro w x r; simp [hasLong, raw, raw0, r.maj, r.min, r.hdr]) hwf

theorem rdcs h gd r : Statement (.rdcs h gd r) := fun hwf => decode_short (maj := 0) (min := 2) (ops := eSI gd 0 (r.code.setWidth 33)) rfl
    (by decide) (by decide) (eSI_lt ..) rfl (by intro w x r; simp [hasLong, raw, raw0, r.maj, r.min, r.hdr, r.fld, r.bit, fGd, fGa, fImm33]) hwf

theorem wrcs h r ga : Statement (.wrcs h r ga) := fun hwf => decode_short (maj := 0) (min := 3) (ops := eSI 0 ga (r.code.setWidth 33)) rfl
    (by decide) (by decide) (eSI_lt ..) rfl (by intro w x r; simp [hasLong, raw, raw0, r.maj, r.min, r.hdr, r.fld, r.bit, fGd, fGa, fImm33]) hwf

theorem setfpc h img : Statement (.setfpc h img) := fun hwf => decode_short (maj := 0) (min := 4) (ops := eSI 0 0 (img.setWidth 33)) rfl
    (by decide) (by decide) (eSI_lt ..) rfl (by 
        intro w x r
        simp [hasLong, raw, raw0, r.maj, r.min, r.hdr, r.fld, r.bit, fGd, fGa, fImm33]
        and_intros
        all_goals first
          | (refine F_eq ?_; (repeat rw [append_toNat]); (try simp only [BitVec.toNat_setWidth, BitVec.toNat_ofBool, BitVec.toNat_ofNat]); omega)
          | (refine fBit_eq ?_; (repeat rw [append_toNat]); (try simp only [BitVec.toNat_setWidth, BitVec.toNat_ofBool, BitVec.toNat_ofNat]); omega)) hwf

theorem rdcyc h gd : Statement (.rdcyc h gd) := fun hwf => decode_short (maj := 0) (min := 5) (ops := eSI gd 0 0) rfl
    (by decide) (by decide) (eSI_lt ..) rfl (by intro w x r; simp [hasLong, raw, raw0, r.maj, r.min, r.hdr, r.fld, r.bit, fGd, fGa, fImm33]) hwf

theorem brkpt h : Statement (.brkpt h) := fun hwf => decode_short (maj := 0) (min := 6) (ops := 0) rfl
    (by decide) (by decide) (by decide) rfl (by intro w x r; simp [hasLong, raw, raw0, r.maj, r.min, r.hdr]) hwf

theorem tlbinv h ga kind : Statement (.tlbinv h ga kind) := fun hwf => decode_short (maj := 0) (min := 7) (ops := eSI 0 ga kind) rfl
    (by decide) (by decide) (eSI_lt ..) rfl (by intro w x r; simp [hasLong, raw, raw0, r.maj, r.min, r.hdr, r.fld, r.bit, fGd, fGa, fImm33]) hwf

theorem ctxsave h ga : Statement (.ctxsave h ga) := fun hwf => decode_short (maj := 0) (min := 8) (ops := eSI 0 ga 0) rfl
    (by decide) (by decide) (eSI_lt ..) rfl (by intro w x r; simp [hasLong, raw, raw0, r.maj, r.min, r.hdr, r.fld, r.bit, fGd, fGa, fImm33]) hwf

theorem ctxload h ga : Statement (.ctxload h ga) := fun hwf => decode_short (maj := 0) (min := 9) (ops := eSI 0 ga 0) rfl
    (by decide) (by decide) (eSI_lt ..) rfl (by intro w x r; simp [hasLong, raw, raw0, r.maj, r.min, r.hdr, r.fld, r.bit, fGd, fGa, fImm33]) hwf

theorem add h gd ga gb : Statement (.add h gd ga gb) := fun hwf => decode_short (maj := 1) (min := 0) (ops := eSR gd ga gb 0) rfl
    (by decide) (by decide) (eSR_lt ..) rfl (by intro w x r; simp [hasLong, raw, raw1, r.maj, r.min, r.hdr, r.fld, r.bit, fGd, fGa, fGb]) hwf

theorem sub h gd ga gb : Statement (.sub h gd ga gb) := fun hwf => decode_short (maj := 1) (min := 1) (ops := eSR gd ga gb 0) rfl
    (by decide) (by decide) (eSR_lt ..) rfl (by intro w x r; simp [hasLong, raw, raw1, r.maj, r.min, r.hdr, r.fld, r.bit, fGd, fGa, fGb]) hwf

theorem mul h gd ga gb : Statement (.mul h gd ga gb) := fun hwf => decode_short (maj := 1) (min := 2) (ops := eSR gd ga gb 0) rfl
    (by decide) (by decide) (eSR_lt ..) rfl (by intro w x r; simp [hasLong, raw, raw1, r.maj, r.min, r.hdr, r.fld, r.bit, fGd, fGa, fGb]) hwf

theorem mulh h gd ga gb : Statement (.mulh h gd ga gb) := fun hwf => decode_short (maj := 1) (min := 3) (ops := eSR gd ga gb 0) rfl
    (by decide) (by decide) (eSR_lt ..) rfl (by intro w x r; simp [hasLong, raw, raw1, r.maj, r.min, r.hdr, r.fld, r.bit, fGd, fGa, fGb]) hwf

theorem mulhn h gd ga gb : Statement (.mulhn h gd ga gb) := fun hwf => decode_short (maj := 1) (min := 4) (ops := eSR gd ga gb 0) rfl
    (by decide) (by decide) (eSR_lt ..) rfl (by intro w x r; simp [hasLong, raw, raw1, r.maj, r.min, r.hdr, r.fld, r.bit, fGd, fGa, fGb]) hwf

theorem div h gd ga gb : Statement (.div h gd ga gb) := fun hwf => decode_short (maj := 1) (min := 5) (ops := eSR gd ga gb 0) rfl
    (by decide) (by decide) (eSR_lt ..) rfl (by intro w x r; simp [hasLong, raw, raw1, r.maj, r.min, r.hdr, r.fld, r.bit, fGd, fGa, fGb]) hwf

theorem divn h gd ga gb : Statement (.divn h gd ga gb) := fun hwf => decode_short (maj := 1) (min := 6) (ops := eSR gd ga gb 0) rfl
    (by decide) (by decide) (eSR_lt ..) rfl (by intro w x r; simp [hasLong, raw, raw1, r.maj, r.min, r.hdr, r.fld, r.bit, fGd, fGa, fGb]) hwf

theorem and h gd ga gb : Statement (.and h gd ga gb) := fun hwf => decode_short (maj := 1) (min := 7) (ops := eSR gd ga gb 0) rfl
    (by decide) (by decide) (eSR_lt ..) rfl (by intro w x r; simp [hasLong, raw, raw1, r.maj, r.min, r.hdr, r.fld, r.bit, fGd, fGa, fGb]) hwf

theorem or h gd ga gb : Statement (.or h gd ga gb) := fun hwf => decode_short (maj := 1) (min := 8) (ops := eSR gd ga gb 0) rfl
    (by decide) (by decide) (eSR_lt ..) rfl (by intro w x r; simp [hasLong, raw, raw1, r.maj, r.min, r.hdr, r.fld, r.bit, fGd, fGa, fGb]) hwf

theorem xor h gd ga gb : Statement (.xor h gd ga gb) := fun hwf => decode_short (maj := 1) (min := 9) (ops := eSR gd ga gb 0) rfl
    (by decide) (by decide) (eSR_lt ..) rfl (by intro w x r; simp [hasLong, raw, raw1, r.maj, r.min, r.hdr, r.fld, r.bit, fGd, fGa, fGb]) hwf

theorem andn h gd ga gb : Statement (.andn h gd ga gb) := fun hwf => decode_short (maj := 1) (min := 10) (ops := eSR gd ga gb 0) rfl
    (by decide) (by decide) (eSR_lt ..) rfl (by intro w x r; simp [hasLong, raw, raw1, r.maj, r.min, r.hdr, r.fld, r.bit, fGd, fGa, fGb]) hwf

theorem shl h gd ga gb : Statement (.shl h gd ga gb) := fun hwf => decode_short (maj := 1) (min := 11) (ops := eSR gd ga gb 0) rfl
    (by decide) (by decide) (eSR_lt ..) rfl (by intro w x r; simp [hasLong, raw, raw1, r.maj, r.min, r.hdr, r.fld, r.bit, fGd, fGa, fGb]) hwf

theorem shr h gd ga gb : Statement (.shr h gd ga gb) := fun hwf => decode_short (maj := 1) (min := 12) (ops := eSR gd ga gb 0) rfl
    (by decide) (by decide) (eSR_lt ..) rfl (by intro w x r; simp [hasLong, raw, raw1, r.maj, r.min, r.hdr, r.fld, r.bit, fGd, fGa, fGb]) hwf

theorem sra h gd ga gb : Statement (.sra h gd ga gb) := fun hwf => decode_short (maj := 1) (min := 13) (ops := eSR gd ga gb 0) rfl
    (by decide) (by decide) (eSR_lt ..) rfl (by intro w x r; simp [hasLong, raw, raw1, r.maj, r.min, r.hdr, r.fld, r.bit, fGd, fGa, fGb]) hwf

theorem min h gd ga gb : Statement (.min h gd ga gb) := fun hwf => decode_short (maj := 1) (min := 14) (ops := eSR gd ga gb 0) rfl
    (by decide) (by decide) (eSR_lt ..) rfl (by intro w x r; simp [hasLong, raw, raw1, r.maj, r.min, r.hdr, r.fld, r.bit, fGd, fGa, fGb]) hwf

theorem max h gd ga gb : Statement (.max h gd ga gb) := fun hwf => decode_short (maj := 1) (min := 15) (ops := eSR gd ga gb 0) rfl
    (by decide) (by decide) (eSR_lt ..) rfl (by intro w x r; simp [hasLong, raw, raw1, r.maj, r.min, r.hdr, r.fld, r.bit, fGd, fGa, fGb]) hwf

theorem clz h gd ga : Statement (.clz h gd ga) := fun hwf => decode_short (maj := 1) (min := 16) (ops := eSR gd ga 0 0) rfl
    (by decide) (by decide) (eSR_lt ..) rfl (by intro w x r; simp [hasLong, raw, raw1, r.maj, r.min, r.hdr, r.fld, r.bit, fGd, fGa, fGb]) hwf

theorem popc h gd ga : Statement (.popc h gd ga) := fun hwf => decode_short (maj := 1) (min := 17) (ops := eSR gd ga 0 0) rfl
    (by decide) (by decide) (eSR_lt ..) rfl (by intro w x r; simp [hasLong, raw, raw1, r.maj, r.min, r.hdr, r.fld, r.bit, fGd, fGa, fGb]) hwf

theorem sel h gd ga gb ps : Statement (.sel h gd ga gb ps) := fun hwf => decode_short (maj := 1) (min := 18) (ops := eSR gd ga gb ps) rfl
    (by decide) (by decide) (eSR_lt ..) rfl (by intro w x r; simp [hasLong, raw, raw1, r.maj, r.min, r.hdr, r.fld, r.bit, fGd, fGa, fGb]) hwf

theorem addi h gd ga imm : Statement (.addi h gd ga imm) := fun hwf => decode_short (maj := 2) (min := 0) (ops := eSI gd ga imm) rfl
    (by decide) (by decide) (eSI_lt ..) rfl (by intro w x r; simp [hasLong, raw, raw2, r.maj, r.min, r.hdr, r.fld, r.bit, fGd, fGa, fImm33]) hwf

theorem muli h gd ga imm : Statement (.muli h gd ga imm) := fun hwf => decode_short (maj := 2) (min := 1) (ops := eSI gd ga imm) rfl
    (by decide) (by decide) (eSI_lt ..) rfl (by intro w x r; simp [hasLong, raw, raw2, r.maj, r.min, r.hdr, r.fld, r.bit, fGd, fGa, fImm33]) hwf

theorem andi h gd ga imm : Statement (.andi h gd ga imm) := fun hwf => decode_short (maj := 2) (min := 2) (ops := eSI gd ga imm) rfl
    (by decide) (by decide) (eSI_lt ..) rfl (by intro w x r; simp [hasLong, raw, raw2, r.maj, r.min, r.hdr, r.fld, r.bit, fGd, fGa, fImm33]) hwf

theorem ori h gd ga imm : Statement (.ori h gd ga imm) := fun hwf => decode_short (maj := 2) (min := 3) (ops := eSI gd ga imm) rfl
    (by decide) (by decide) (eSI_lt ..) rfl (by intro w x r; simp [hasLong, raw, raw2, r.maj, r.min, r.hdr, r.fld, r.bit, fGd, fGa, fImm33]) hwf

theorem xori h gd ga imm : Statement (.xori h gd ga imm) := fun hwf => decode_short (maj := 2) (min := 4) (ops := eSI gd ga imm) rfl
    (by decide) (by decide) (eSI_lt ..) rfl (by intro w x r; simp [hasLong, raw, raw2, r.maj, r.min, r.hdr, r.fld, r.bit, fGd, fGa, fImm33]) hwf

theorem shli h gd ga imm : Statement (.shli h gd ga imm) := fun hwf => decode_short (maj := 2) (min := 5) (ops := eSI gd ga imm) rfl
    (by decide) (by decide) (eSI_lt ..) rfl (by intro w x r; simp [hasLong, raw, raw2, r.maj, r.min, r.hdr, r.fld, r.bit, fGd, fGa, fImm33]) hwf

theorem shri h gd ga imm : Statement (.shri h gd ga imm) := fun hwf => decode_short (maj := 2) (min := 6) (ops := eSI gd ga imm) rfl
    (by decide) (by decide) (eSI_lt ..) rfl (by intro w x r; simp [hasLong, raw, raw2, r.maj, r.min, r.hdr, r.fld, r.bit, fGd, fGa, fImm33]) hwf

theorem srai h gd ga imm : Statement (.srai h gd ga imm) := fun hwf => decode_short (maj := 2) (min := 7) (ops := eSI gd ga imm) rfl
    (by decide) (by decide) (eSI_lt ..) rfl (by intro w x r; simp [hasLong, raw, raw2, r.maj, r.min, r.hdr, r.fld, r.bit, fGd, fGa, fImm33]) hwf

theorem li h gd imm : Statement (.li h gd imm) := fun hwf => decode_short (maj := 2) (min := 8) (ops := eSI gd 0 imm) rfl
    (by decide) (by decide) (eSI_lt ..) rfl (by intro w x r; simp [hasLong, raw, raw2, r.maj, r.min, r.hdr, r.fld, r.bit, fGd, fGa, fImm33]) hwf

theorem lih h gd imm : Statement (.lih h gd imm) := fun hwf => decode_short (maj := 2) (min := 9) (ops := eSI gd 0 imm) rfl
    (by decide) (by decide) (eSI_lt ..) rfl (by intro w x r; simp [hasLong, raw, raw2, r.maj, r.min, r.hdr, r.fld, r.bit, fGd, fGa, fImm33]) hwf

theorem cmpeq h pd ga gb : Statement (.cmpeq h pd ga gb) := fun hwf => decode_short (maj := 2) (min := 16) (ops := eSC pd 0 ga gb 0) rfl
    (by decide) (by decide) (eSC_lt ..) rfl (by intro w x r; simp [hasLong, raw, raw2, r.maj, r.min, r.hdr, r.fld, r.bit, fPd, fGa, fGb]) hwf

theorem cmpne h pd ga gb : Statement (.cmpne h pd ga gb) := fun hwf => decode_short (maj := 2) (min := 17) (ops := eSC pd 0 ga gb 0) rfl
    (by decide) (by decide) (eSC_lt ..) rfl (by intro w x r; simp [hasLong, raw, raw2, r.maj, r.min, r.hdr, r.fld, r.bit, fPd, fGa, fGb]) hwf

theorem cmplt h pd ga gb : Statement (.cmplt h pd ga gb) := fun hwf => decode_short (maj := 2) (min := 18) (ops := eSC pd 0 ga gb 0) rfl
    (by decide) (by decide) (eSC_lt ..) rfl (by intro w x r; simp [hasLong, raw, raw2, r.maj, r.min, r.hdr, r.fld, r.bit, fPd, fGa, fGb]) hwf

theorem cmple h pd ga gb : Statement (.cmple h pd ga gb) := fun hwf => decode_short (maj := 2) (min := 19) (ops := eSC pd 0 ga gb 0) rfl
    (by decide) (by decide) (eSC_lt ..) rfl (by intro w x r; simp [hasLong, raw, raw2, r.maj, r.min, r.hdr, r.fld, r.bit, fPd, fGa, fGb]) hwf

theorem cmpltn h pd ga gb : Statement (.cmpltn h pd ga gb) := fun hwf => decode_short (maj := 2) (min := 20) (ops := eSC pd 0 ga gb 0) rfl
    (by decide) (by decide) (eSC_lt ..) rfl (by intro w x r; simp [hasLong, raw, raw2, r.maj, r.min, r.hdr, r.fld, r.bit, fPd, fGa, fGb]) hwf

theorem cmplen h pd ga gb : Statement (.cmplen h pd ga gb) := fun hwf => decode_short (maj := 2) (min := 21) (ops := eSC pd 0 ga gb 0) rfl
    (by decide) (by decide) (eSC_lt ..) rfl (by intro w x r; simp [hasLong, raw, raw2, r.maj, r.min, r.hdr, r.fld, r.bit, fPd, fGa, fGb]) hwf

theorem cmpeqi h pd ga imm : Statement (.cmpeqi h pd ga imm) := fun hwf => decode_short (maj := 2) (min := 22) (ops := eSC pd 0 ga 0 imm) rfl
    (by decide) (by decide) (eSC_lt ..) rfl (by intro w x r; simp [hasLong, raw, raw2, r.maj, r.min, r.hdr, r.fld, r.bit, fPd, fGa, fGb]) hwf

theorem cmplti h pd ga imm : Statement (.cmplti h pd ga imm) := fun hwf => decode_short (maj := 2) (min := 23) (ops := eSC pd 0 ga 0 imm) rfl
    (by decide) (by decide) (eSC_lt ..) rfl (by intro w x r; simp [hasLong, raw, raw2, r.maj, r.min, r.hdr, r.fld, r.bit, fPd, fGa, fGb]) hwf

theorem cmpltni h pd ga imm : Statement (.cmpltni h pd ga imm) := fun hwf => decode_short (maj := 2) (min := 24) (ops := eSC pd 0 ga 0 imm) rfl
    (by decide) (by decide) (eSC_lt ..) rfl (by intro w x r; simp [hasLong, raw, raw2, r.maj, r.min, r.hdr, r.fld, r.bit, fPd, fGa, fGb]) hwf

theorem pand h pd pa pb : Statement (.pand h pd pa pb) := fun hwf => decode_short (maj := 2) (min := 32) (ops := eSP pd pa pb) rfl
    (by decide) (by decide) (eSP_lt ..) rfl (by intro w x r; simp [hasLong, raw, raw2, r.maj, r.min, r.hdr, r.fld, r.bit, fPd]) hwf

theorem por h pd pa pb : Statement (.por h pd pa pb) := fun hwf => decode_short (maj := 2) (min := 33) (ops := eSP pd pa pb) rfl
    (by decide) (by decide) (eSP_lt ..) rfl (by intro w x r; simp [hasLong, raw, raw2, r.maj, r.min, r.hdr, r.fld, r.bit, fPd]) hwf

theorem pxor h pd pa pb : Statement (.pxor h pd pa pb) := fun hwf => decode_short (maj := 2) (min := 34) (ops := eSP pd pa pb) rfl
    (by decide) (by decide) (eSP_lt ..) rfl (by intro w x r; simp [hasLong, raw, raw2, r.maj, r.min, r.hdr, r.fld, r.bit, fPd]) hwf

theorem pnot h pd pa : Statement (.pnot h pd pa) := fun hwf => decode_short (maj := 2) (min := 35) (ops := eSP pd pa 0) rfl
    (by decide) (by decide) (eSP_lt ..) rfl (by intro w x r; simp [hasLong, raw, raw2, r.maj, r.min, r.hdr, r.fld, r.bit, fPd]) hwf

theorem ld h sz g ga disp : Statement (.ld h sz g ga disp) := fun hwf => decode_short (maj := 3) (min := 0) (ops := eSM g ga sz.code disp) rfl
    (by decide) (by decide) (eSM_lt ..) rfl (by intro w x r; simp [hasLong, raw, raw3, r.maj, r.min, r.hdr, r.fld, r.bit, fGd, fGa]) hwf

theorem st h sz g ga disp : Statement (.st h sz g ga disp) := fun hwf => decode_short (maj := 3) (min := 1) (ops := eSM g ga sz.code disp) rfl
    (by decide) (by decide) (eSM_lt ..) rfl (by intro w x r; simp [hasLong, raw, raw3, r.maj, r.min, r.hdr, r.fld, r.bit, fGd, fGa]) hwf

theorem lda h sz g ga disp : Statement (.lda h sz g ga disp) := fun hwf => decode_short (maj := 3) (min := 2) (ops := eSM g ga sz.code disp) rfl
    (by decide) (by decide) (eSM_lt ..) rfl (by intro w x r; simp [hasLong, raw, raw3, r.maj, r.min, r.hdr, r.fld, r.bit, fGd, fGa]) hwf

theorem sta h sz g ga disp : Statement (.sta h sz g ga disp) := fun hwf => decode_short (maj := 3) (min := 3) (ops := eSM g ga sz.code disp) rfl
    (by decide) (by decide) (eSM_lt ..) rfl (by intro w x r; simp [hasLong, raw, raw3, r.maj, r.min, r.hdr, r.fld, r.bit, fGd, fGa]) hwf

theorem spld h g off : Statement (.spld h g off) := fun hwf => decode_short (maj := 3) (min := 4) (ops := eSM g 0 6 off) rfl
    (by decide) (by decide) (eSM_lt ..) rfl (by intro w x r; simp [hasLong, raw, raw3, r.maj, r.min, r.hdr, r.fld, r.bit, fGd, fGa]) hwf

theorem spst h g off : Statement (.spst h g off) := fun hwf => decode_short (maj := 3) (min := 5) (ops := eSM g 0 6 off) rfl
    (by decide) (by decide) (eSM_lt ..) rfl (by intro w x r; simp [hasLong, raw, raw3, r.maj, r.min, r.hdr, r.fld, r.bit, fGd, fGa]) hwf

theorem lsmark h : Statement (.lsmark h) := fun hwf => decode_short (maj := 3) (min := 6) (ops := 0) rfl
    (by decide) (by decide) (by decide) rfl (by intro w x r; simp [hasLong, raw, raw3, r.maj, r.min, r.hdr]) hwf

theorem waitc h l s c t : Statement (.waitc h l s c t) := fun hwf => decode_short (maj := 3) (min := 7) (ops := l.toNat * 2^18 + s.toNat * 2^12 + c.toNat * 2^6 + t.toNat) rfl
    (by decide) (by decide) (by omega) rfl (by 
        intro w x r
        simp [hasLong, raw, raw3, r.maj, r.min, r.hdr, r.fld, r.bit]
        and_intros
        all_goals first
          | (refine F_eq ?_; (repeat rw [append_toNat]); (try simp only [BitVec.toNat_setWidth, BitVec.toNat_ofBool, BitVec.toNat_ofNat]); omega)
          | (refine fBit_eq ?_; (repeat rw [append_toNat]); (try simp only [BitVec.toNat_setWidth, BitVec.toNat_ofBool, BitVec.toNat_ofNat]); omega)) hwf

theorem fence h sc kind : Statement (.fence h sc kind) := by
  have e1 : F (sc.code.toNat + kind.code.toNat * 8) 0 3 = sc.code := F_eq (by omega)
  have e2 : F (sc.code.toNat + kind.code.toNat * 8) 3 3 = kind.code := F_eq (by omega)
  exact fun hwf => decode_short (maj := 3) (min := 8) (ops := sc.code.toNat + kind.code.toNat * 2^3) rfl (by decide) (by decide)
    (by omega) rfl (by intro w x r; simp [hasLong, raw, raw3, r.maj, r.min, r.hdr, r.fld, e1, e2]) hwf

theorem amo h op w64 sc ord gd ga gb : Statement (.amo h op w64 sc ord gd ga gb) := fun hwf => decode_short (maj := 4) (min := 0) (ops := eAT gd ga gb op.code sc.code ord.code w64) rfl
    (by decide) (by decide) (eAT_lt ..) rfl (by intro w x r; simp [hasLong, raw, raw4, r.maj, r.min, r.hdr, r.fld, r.bit, fGd, fGa, fGb]) hwf

theorem cas h w64 sc ord gd ga gb : Statement (.cas h w64 sc ord gd ga gb) := fun hwf => decode_short (maj := 4) (min := 1) (ops := eAT gd ga gb 0 sc.code ord.code w64) rfl
    (by decide) (by decide) (eAT_lt ..) rfl (by intro w x r; simp [hasLong, raw, raw4, r.maj, r.min, r.hdr, r.fld, r.bit, fGd, fGa, fGb]) hwf

theorem amoa h op w64 sc ord gd ga gb : Statement (.amoa h op w64 sc ord gd ga gb) := fun hwf => decode_short (maj := 4) (min := 2) (ops := eAT gd ga gb op.code sc.code ord.code w64) rfl
    (by decide) (by decide) (eAT_lt ..) rfl (by intro w x r; simp [hasLong, raw, raw4, r.maj, r.min, r.hdr, r.fld, r.bit, fGd, fGa, fGb]) hwf

theorem casa h w64 sc ord gd ga gb : Statement (.casa h w64 sc ord gd ga gb) := fun hwf => decode_short (maj := 4) (min := 3) (ops := eAT gd ga gb 0 sc.code ord.code w64) rfl
    (by decide) (by decide) (eAT_lt ..) rfl (by intro w x r; simp [hasLong, raw, raw4, r.maj, r.min, r.hdr, r.fld, r.bit, fGd, fGa, fGb]) hwf

theorem pbr h bt off : Statement (.pbr h bt off) := fun hwf => decode_short (maj := 5) (min := 0) (ops := eBR bt 0 off) rfl
    (by decide) (by decide) (eBR_lt ..) rfl (by intro w x r; simp [hasLong, raw, raw5, r.maj, r.min, r.hdr, r.fld, r.bit, fPd, fGa, fImm33]) hwf

theorem pbrg h bt ga : Statement (.pbrg h bt ga) := fun hwf => decode_short (maj := 5) (min := 1) (ops := eBR bt ga 0) rfl
    (by decide) (by decide) (eBR_lt ..) rfl (by intro w x r; simp [hasLong, raw, raw5, r.maj, r.min, r.hdr, r.fld, r.bit, fPd, fGa, fImm33]) hwf

theorem br h bt : Statement (.br h bt) := fun hwf => decode_short (maj := 5) (min := 2) (ops := eBR bt 0 0) rfl
    (by decide) (by decide) (eBR_lt ..) rfl (by intro w x r; simp [hasLong, raw, raw5, r.maj, r.min, r.hdr, r.fld, r.bit, fPd, fGa, fImm33]) hwf

theorem brl h bt gl : Statement (.brl h bt gl) := fun hwf => decode_short (maj := 5) (min := 3) (ops := eBR bt gl 0) rfl
    (by decide) (by decide) (eBR_lt ..) rfl (by intro w x r; simp [hasLong, raw, raw5, r.maj, r.min, r.hdr, r.fld, r.bit, fPd, fGa, fImm33]) hwf

theorem trap h code : Statement (.trap h code) := fun hwf => decode_short (maj := 5) (min := 4) (ops := eBR 0 0 (code.setWidth 33)) rfl
    (by decide) (by decide) (eBR_lt ..) rfl (by 
        intro w x r
        simp [hasLong, raw, raw5, r.maj, r.min, r.hdr, r.fld, r.bit, fPd, fGa, fImm33]
        and_intros
        all_goals first
          | (refine F_eq ?_; (repeat rw [append_toNat]); (try simp only [BitVec.toNat_setWidth, BitVec.toNat_ofBool, BitVec.toNat_ofNat]); omega)
          | (refine fBit_eq ?_; (repeat rw [append_toNat]); (try simp only [BitVec.toNat_setWidth, BitVec.toNat_ofBool, BitVec.toNat_ofNat]); omega)) hwf

theorem tfence h : Statement (.tfence h) := fun hwf => decode_short (maj := 5) (min := 5) (ops := 0) rfl
    (by decide) (by decide) (by decide) rfl (by intro w x r; simp [hasLong, raw, raw5, r.maj, r.min, r.hdr]) hwf

theorem yield h clean mask : Statement (.yield h clean mask) := by
  intro hwf; have b0 := clean.toNat_lt; exact decode_short (maj := 5) (min := 6) (ops := mask.toNat + clean.toNat * 2^32) rfl (by decide) (by decide)
    (by omega) rfl (by 
        intro w x r
        simp [hasLong, raw, raw5, r.maj, r.min, r.hdr, r.fld, r.bit]
        and_intros
        all_goals first
          | (refine F_eq ?_; (repeat rw [append_toNat]); (try simp only [BitVec.toNat_setWidth, BitVec.toNat_ofBool, BitVec.toNat_ofNat]); omega)
          | (refine fBit_eq ?_; (repeat rw [append_toNat]); (try simp only [BitVec.toNat_setWidth, BitVec.toNat_ofBool, BitVec.toNat_ofNat]); omega)) hwf

theorem eret h : Statement (.eret h) := fun hwf => decode_short (maj := 5) (min := 7) (ops := 0) rfl
    (by decide) (by decide) (by decide) rfl (by intro w x r; simp [hasLong, raw, raw5, r.maj, r.min, r.hdr]) hwf

theorem twait h spc x : Statement (.twait h spc x) := fun hwf => decode_short (maj := 6) (min := 0) (ops := eCT spc.code x.obj 0 x.tag 0 0) rfl
    (by decide) (by decide) (eCT_lt ..) rfl (by intro w x r; simp [hasLong, raw, raw6, r.maj, r.min, r.hdr, r.fld, r.bit]) hwf

theorem drop h spc x : Statement (.drop h spc x) := fun hwf => decode_short (maj := 6) (min := 2) (ops := eCT spc.code x.obj 0 x.tag 0 0) rfl
    (by decide) (by decide) (eCT_lt ..) rfl (by intro w x r; simp [hasLong, raw, raw6, r.maj, r.min, r.hdr, r.fld, r.bit]) hwf

theorem bump h spc x : Statement (.bump h spc x) := fun hwf => decode_short (maj := 6) (min := 1) (ops := eCT spc.code x.obj x.rc 0 0 0) rfl
    (by decide) (by decide) (eCT_lt ..) rfl (by intro w x r; simp [hasLong, raw, raw6, r.maj, r.min, r.hdr, r.fld, r.bit]) hwf

theorem tsync h spc obj : Statement (.tsync h spc obj) := fun hwf => decode_short (maj := 6) (min := 3) (ops := eCT spc.code obj 0 0 0 0) rfl
    (by decide) (by decide) (eCT_lt ..) rfl (by intro w x r; simp [hasLong, raw, raw6, r.maj, r.min, r.hdr, r.fld, r.bit]) hwf

theorem trel h spc obj : Statement (.trel h spc obj) := fun hwf => decode_short (maj := 6) (min := 5) (ops := eCT spc.code obj 0 0 0 0) rfl
    (by decide) (by decide) (eCT_lt ..) rfl (by intro w x r; simp [hasLong, raw, raw6, r.maj, r.min, r.hdr, r.fld, r.bit]) hwf

theorem tview h gd spc obj : Statement (.tview h gd spc obj) := fun hwf => decode_short (maj := 6) (min := 4) (ops := eCT spc.code obj 0 0 gd 0) rfl
    (by decide) (by decide) (eCT_lt ..) rfl (by intro w x r; simp [hasLong, raw, raw6, r.maj, r.min, r.hdr, r.fld, r.bit]) hwf

theorem barinit h bar count gang : Statement (.barinit h bar count gang) := by
  intro hwf; have b0 := gang.toNat_lt; exact decode_short (maj := 6) (min := 6) (ops := eCT 0 bar 0 0 0 ((BitVec.ofBool gang) ++ count)) rfl (by decide) (by decide)
    (eCT_lt ..) rfl (by 
        intro w x r
        simp [hasLong, raw, raw6, r.maj, r.min, r.hdr, r.fld, r.bit]
        and_intros
        all_goals first
          | (refine F_eq ?_; (repeat rw [append_toNat]); (try simp only [BitVec.toNat_setWidth, BitVec.toNat_ofBool, BitVec.toNat_ofNat]); omega)
          | (refine fBit_eq ?_; (repeat rw [append_toNat]); (try simp only [BitVec.toNat_setWidth, BitVec.toNat_ofBool, BitVec.toNat_ofNat]); omega)) hwf

theorem bararr h bar : Statement (.bararr h bar) := fun hwf => decode_short (maj := 6) (min := 7) (ops := eCT 0 bar 0 0 0 0) rfl
    (by decide) (by decide) (eCT_lt ..) rfl (by intro w x r; simp [hasLong, raw, raw6, r.maj, r.min, r.hdr, r.fld, r.bit]) hwf

theorem barwait h bar : Statement (.barwait h bar) := fun hwf => decode_short (maj := 6) (min := 8) (ops := eCT 0 bar 0 0 0 0) rfl
    (by decide) (by decide) (eCT_lt ..) rfl (by intro w x r; simp [hasLong, raw, raw6, r.maj, r.min, r.hdr, r.fld, r.bit]) hwf

theorem barsync h bar : Statement (.barsync h bar) := fun hwf => decode_short (maj := 6) (min := 9) (ops := eCT 0 bar 0 0 0 0) rfl
    (by decide) (by decide) (eCT_lt ..) rfl (by intro w x r; simp [hasLong, raw, raw6, r.maj, r.min, r.hdr, r.fld, r.bit]) hwf

theorem vadd h ty d a b : Statement (.vadd h ty d a b) := fun hwf => decode_short (maj := 7) (min := 0) (ops := eTT ty.code d.obj d.rc a.obj a.tag b.obj b.tag) rfl
    (by decide) (by decide) (eTT_lt ..) rfl (by intro w x r; simp [hasLong, raw, raw7, r.maj, r.min, r.hdr, r.fld, r.bit]) hwf

theorem vsub h ty d a b : Statement (.vsub h ty d a b) := fun hwf => decode_short (maj := 7) (min := 1) (ops := eTT ty.code d.obj d.rc a.obj a.tag b.obj b.tag) rfl
    (by decide) (by decide) (eTT_lt ..) rfl (by intro w x r; simp [hasLong, raw, raw7, r.maj, r.min, r.hdr, r.fld, r.bit]) hwf

theorem vmul h ty d a b : Statement (.vmul h ty d a b) := fun hwf => decode_short (maj := 7) (min := 2) (ops := eTT ty.code d.obj d.rc a.obj a.tag b.obj b.tag) rfl
    (by decide) (by decide) (eTT_lt ..) rfl (by intro w x r; simp [hasLong, raw, raw7, r.maj, r.min, r.hdr, r.fld, r.bit]) hwf

theorem vmin h ty d a b : Statement (.vmin h ty d a b) := fun hwf => decode_short (maj := 7) (min := 4) (ops := eTT ty.code d.obj d.rc a.obj a.tag b.obj b.tag) rfl
    (by decide) (by decide) (eTT_lt ..) rfl (by intro w x r; simp [hasLong, raw, raw7, r.maj, r.min, r.hdr, r.fld, r.bit]) hwf

theorem vmax h ty d a b : Statement (.vmax h ty d a b) := fun hwf => decode_short (maj := 7) (min := 5) (ops := eTT ty.code d.obj d.rc a.obj a.tag b.obj b.tag) rfl
    (by decide) (by decide) (eTT_lt ..) rfl (by intro w x r; simp [hasLong, raw, raw7, r.maj, r.min, r.hdr, r.fld, r.bit]) hwf

theorem vand h ty d a b : Statement (.vand h ty d a b) := fun hwf => decode_short (maj := 7) (min := 8) (ops := eTT ty.code d.obj d.rc a.obj a.tag b.obj b.tag) rfl
    (by decide) (by decide) (eTT_lt ..) rfl (by intro w x r; simp [hasLong, raw, raw7, r.maj, r.min, r.hdr, r.fld, r.bit]) hwf

theorem vor h ty d a b : Statement (.vor h ty d a b) := fun hwf => decode_short (maj := 7) (min := 9) (ops := eTT ty.code d.obj d.rc a.obj a.tag b.obj b.tag) rfl
    (by decide) (by decide) (eTT_lt ..) rfl (by intro w x r; simp [hasLong, raw, raw7, r.maj, r.min, r.hdr, r.fld, r.bit]) hwf

theorem vxor h ty d a b : Statement (.vxor h ty d a b) := fun hwf => decode_short (maj := 7) (min := 10) (ops := eTT ty.code d.obj d.rc a.obj a.tag b.obj b.tag) rfl
    (by decide) (by decide) (eTT_lt ..) rfl (by intro w x r; simp [hasLong, raw, raw7, r.maj, r.min, r.hdr, r.fld, r.bit]) hwf

theorem vshl h ty d a b : Statement (.vshl h ty d a b) := fun hwf => decode_short (maj := 7) (min := 12) (ops := eTT ty.code d.obj d.rc a.obj a.tag b.obj b.tag) rfl
    (by decide) (by decide) (eTT_lt ..) rfl (by intro w x r; simp [hasLong, raw, raw7, r.maj, r.min, r.hdr, r.fld, r.bit]) hwf

theorem vshr h ty d a b : Statement (.vshr h ty d a b) := fun hwf => decode_short (maj := 7) (min := 13) (ops := eTT ty.code d.obj d.rc a.obj a.tag b.obj b.tag) rfl
    (by decide) (by decide) (eTT_lt ..) rfl (by intro w x r; simp [hasLong, raw, raw7, r.maj, r.min, r.hdr, r.fld, r.bit]) hwf

theorem vsra h ty d a b : Statement (.vsra h ty d a b) := fun hwf => decode_short (maj := 7) (min := 14) (ops := eTT ty.code d.obj d.rc a.obj a.tag b.obj b.tag) rfl
    (by decide) (by decide) (eTT_lt ..) rfl (by intro w x r; simp [hasLong, raw, raw7, r.maj, r.min, r.hdr, r.fld, r.bit]) hwf

theorem vwmul h ty d a b : Statement (.vwmul h ty d a b) := fun hwf => decode_short (maj := 7) (min := 21) (ops := eTT ty.code d.obj d.rc a.obj a.tag b.obj b.tag) rfl
    (by decide) (by decide) (eTT_lt ..) rfl (by intro w x r; simp [hasLong, raw, raw7, r.maj, r.min, r.hdr, r.fld, r.bit]) hwf

theorem vwadd h ty d a b : Statement (.vwadd h ty d a b) := fun hwf => decode_short (maj := 7) (min := 22) (ops := eTT ty.code d.obj d.rc a.obj a.tag b.obj b.tag) rfl
    (by decide) (by decide) (eTT_lt ..) rfl (by intro w x r; simp [hasLong, raw, raw7, r.maj, r.min, r.hdr, r.fld, r.bit]) hwf

theorem vfma h ty d a b c : Statement (.vfma h ty d a b c) := fun hwf => decode_long (maj := 7) (min := 3) (ops := eTT ty.code d.obj d.rc a.obj a.tag b.obj b.tag) (ext := eX c.obj c.tag 0) rfl
    (by decide) (by decide) (eTT_lt ..) (eX_lt _ _ (by omega)) rfl (by intro w r; simp (disch := omega) [hasLong, raw, raw7, r.maj, r.min, r.hdr, r.fld, r.bit, eX_obj, eX_tag, eX_rc, eX_opt, eX_bit]) hwf

theorem vabs h ty d a : Statement (.vabs h ty d a) := fun hwf => decode_short (maj := 7) (min := 6) (ops := eTT ty.code d.obj d.rc a.obj a.tag 0 0) rfl
    (by decide) (by decide) (eTT_lt ..) rfl (by intro w x r; simp [hasLong, raw, raw7, r.maj, r.min, r.hdr, r.fld, r.bit]) hwf

theorem vneg h ty d a : Statement (.vneg h ty d a) := fun hwf => decode_short (maj := 7) (min := 7) (ops := eTT ty.code d.obj d.rc a.obj a.tag 0 0) rfl
    (by decide) (by decide) (eTT_lt ..) rfl (by intro w x r; simp [hasLong, raw, raw7, r.maj, r.min, r.hdr, r.fld, r.bit]) hwf

theorem vnot h ty d a : Statement (.vnot h ty d a) := fun hwf => decode_short (maj := 7) (min := 11) (ops := eTT ty.code d.obj d.rc a.obj a.tag 0 0) rfl
    (by decide) (by decide) (eTT_lt ..) rfl (by intro w x r; simp [hasLong, raw, raw7, r.maj, r.min, r.hdr, r.fld, r.bit]) hwf

theorem vcmp h cond ty d a b : Statement (.vcmp h cond ty d a b) := fun hwf => decode_long (maj := 7) (min := 15) (ops := eTT ty.code d.obj d.rc a.obj a.tag b.obj b.tag) (ext := eX 0 0 cond.code.toNat) rfl
    (by decide) (by decide) (eTT_lt ..) (eX_lt _ _ (by omega)) rfl (by intro w r; simp (disch := omega) [hasLong, raw, raw7, r.maj, r.min, r.hdr, r.fld, r.bit, F_self, eX_obj, eX_tag, eX_rc, eX_opt, eX_bit]) hwf

theorem vsel h ty d a b c : Statement (.vsel h ty d a b c) := fun hwf => decode_long (maj := 7) (min := 16) (ops := eTT ty.code d.obj d.rc a.obj a.tag b.obj b.tag) (ext := eX c.obj c.tag 0) rfl
    (by decide) (by decide) (eTT_lt ..) (eX_lt _ _ (by omega)) rfl (by intro w r; simp (disch := omega) [hasLong, raw, raw7, r.maj, r.min, r.hdr, r.fld, r.bit, eX_obj, eX_tag, eX_rc, eX_opt, eX_bit]) hwf

theorem vbcast h ty d gb : Statement (.vbcast h ty d gb) := fun hwf => decode_short (maj := 7) (min := 17) (ops := eTG ty.code d.obj d.rc 0 0 gb 0) rfl
    (by decide) (by decide) (eTG_lt ..) rfl (by intro w x r; simp [hasLong, raw, raw7, r.maj, r.min, r.hdr, r.fld, r.bit]) hwf

theorem vlane h ty gd a gb imm : Statement (.vlane h ty gd a gb imm) := fun hwf => decode_short (maj := 7) (min := 18) (ops := eTG ty.code gd 0 a.obj a.tag gb imm) rfl
    (by decide) (by decide) (eTG_lt ..) rfl (by intro w x r; simp [hasLong, raw, raw7, r.maj, r.min, r.hdr, r.fld, r.bit]) hwf

theorem vperm h d a b : Statement (.vperm h d a b) := fun hwf => decode_short (maj := 7) (min := 19) (ops := eTT 0 d.obj d.rc a.obj a.tag b.obj b.tag) rfl
    (by decide) (by decide) (eTT_lt ..) rfl (by intro w x r; simp [hasLong, raw, raw7, r.maj, r.min, r.hdr, r.fld, r.bit]) hwf

theorem viota h ty d : Statement (.viota h ty d) := fun hwf => decode_short (maj := 7) (min := 20) (ops := eTT ty.code d.obj d.rc 0 0 0 0) rfl
    (by decide) (by decide) (eTT_lt ..) rfl (by intro w x r; simp [hasLong, raw, raw7, r.maj, r.min, r.hdr, r.fld, r.bit]) hwf

theorem vexp2 h d a : Statement (.vexp2 h d a) := fun hwf => decode_short (maj := 7) (min := 23) (ops := eTT 0 d.obj d.rc a.obj a.tag 0 0) rfl
    (by decide) (by decide) (eTT_lt ..) rfl (by intro w x r; simp [hasLong, raw, raw7, r.maj, r.min, r.hdr, r.fld, r.bit]) hwf

theorem vrcp h d a : Statement (.vrcp h d a) := fun hwf => decode_short (maj := 7) (min := 24) (ops := eTT 0 d.obj d.rc a.obj a.tag 0 0) rfl
    (by decide) (by decide) (eTT_lt ..) rfl (by intro w x r; simp [hasLong, raw, raw7, r.maj, r.min, r.hdr, r.fld, r.bit]) hwf

theorem vrsq h d a : Statement (.vrsq h d a) := fun hwf => decode_short (maj := 7) (min := 25) (ops := eTT 0 d.obj d.rc a.obj a.tag 0 0) rfl
    (by decide) (by decide) (eTT_lt ..) rfl (by intro w x r; simp [hasLong, raw, raw7, r.maj, r.min, r.hdr, r.fld, r.bit]) hwf

theorem vsqrt h d a : Statement (.vsqrt h d a) := fun hwf => decode_short (maj := 7) (min := 26) (ops := eTT 0 d.obj d.rc a.obj a.tag 0 0) rfl
    (by decide) (by decide) (eTT_lt ..) rfl (by intro w x r; simp [hasLong, raw, raw7, r.maj, r.min, r.hdr, r.fld, r.bit]) hwf

theorem vcvt h toT fr rnd d a : Statement (.vcvt h toT fr rnd d a) := by
  have e1 : F ((0#1 ++ rnd) ++ fr.code).toNat 0 4 = fr.code := F_eq (by simp only [append_toNat]; omega)
  have e2 : F ((0#1 ++ rnd) ++ fr.code).toNat 4 3 = rnd := F_eq (by simp only [append_toNat, BitVec.toNat_ofNat]; omega)
  exact fun hwf => decode_short (maj := 8) (min := 0)
    (ops := eTT toT.code d.obj d.rc a.obj a.tag ((0#1 ++ rnd) ++ fr.code) 0) rfl (by decide) (by decide) (eTT_lt ..) rfl
    (by intro w x r; simp [hasLong, raw, raw8, r.maj, r.min, r.hdr, r.fld, e1, e2]) hwf

theorem vquant h ty src d a : Statement (.vquant h ty src d a) := fun hwf => decode_long (maj := 8) (min := 1) (ops := eTT ty.code d.obj d.rc a.obj a.tag 0 0) (ext := eX 0 0 (src.toNat + 2^4)) rfl
    (by decide) (by decide) (eTT_lt ..) (eX_lt _ _ (by omega)) rfl (by 
        intro w r
        simp (disch := omega) [hasLong, raw, raw8, r.maj, r.min, r.hdr, r.fld, r.bit, eX_obj, eX_tag, eX_rc, eX_opt, eX_bit]
        and_intros
        all_goals first
          | (refine F_eq ?_; (repeat rw [append_toNat]); (try simp only [BitVec.toNat_setWidth, BitVec.toNat_ofBool, BitVec.toNat_ofNat]); omega)
          | (refine fBit_eq ?_; (repeat rw [append_toNat]); (try simp only [BitVec.toNat_setWidth, BitVec.toNat_ofBool, BitVec.toNat_ofNat]); omega)) hwf

theorem vquant2 h ty d c a : Statement (.vquant2 h ty d c a) := fun hwf => decode_long (maj := 8) (min := 2) (ops := eTT ty.code d.obj d.rc a.obj a.tag 0 0) (ext := eX c.obj (c.rc.setWidth 6) (2^4)) rfl
    (by decide) (by decide) (eTT_lt ..) (eX_lt _ _ (by omega)) rfl (by intro w r; simp (disch := omega) [hasLong, raw, raw8, r.maj, r.min, r.hdr, r.fld, r.bit, eX_obj, eX_tag, eX_rc, eX_opt, eX_bit]) hwf

theorem vdeq h ty toT d a : Statement (.vdeq h ty toT d a) := fun hwf => decode_long (maj := 8) (min := 3) (ops := eTT ty.code d.obj d.rc a.obj a.tag 0 0) (ext := eX 0 0 (toT.toNat + 2^4)) rfl
    (by decide) (by decide) (eTT_lt ..) (eX_lt _ _ (by omega)) rfl (by 
        intro w r
        simp (disch := omega) [hasLong, raw, raw8, r.maj, r.min, r.hdr, r.fld, r.bit, eX_obj, eX_tag, eX_rc, eX_opt, eX_bit]
        and_intros
        all_goals first
          | (refine F_eq ?_; (repeat rw [append_toNat]); (try simp only [BitVec.toNat_setWidth, BitVec.toNat_ofBool, BitVec.toNat_ofNat]); omega)
          | (refine fBit_eq ?_; (repeat rw [append_toNat]); (try simp only [BitVec.toNat_setWidth, BitVec.toNat_ofBool, BitVec.toNat_ofNat]); omega)) hwf

theorem vsclr h d : Statement (.vsclr h d) := fun hwf => decode_short (maj := 9) (min := 0) (ops := eTT 0 d.obj d.rc 0 0 0 0) rfl
    (by decide) (by decide) (eTT_lt ..) rfl (by intro w x r; simp [hasLong, raw, raw9, r.maj, r.min, r.hdr, r.fld, r.bit]) hwf

theorem vstat h lg d a b : Statement (.vstat h lg d a b) := fun hwf => decode_short (maj := 9) (min := 1) (ops := eTT lg d.obj d.rc a.obj a.tag b.obj b.tag) rfl
    (by decide) (by decide) (eTT_lt ..) rfl (by intro w x r; simp [hasLong, raw, raw9, r.maj, r.min, r.hdr, r.fld, r.bit]) hwf

theorem vstatw h lg d a b c : Statement (.vstatw h lg d a b c) := fun hwf => decode_long (maj := 9) (min := 2) (ops := eTT lg d.obj d.rc a.obj a.tag b.obj b.tag) (ext := eX c.obj c.tag 0) rfl
    (by decide) (by decide) (eTT_lt ..) (eX_lt _ _ (by omega)) rfl (by intro w r; simp (disch := omega) [hasLong, raw, raw9, r.maj, r.min, r.hdr, r.fld, r.bit, eX_obj, eX_tag, eX_rc, eX_opt, eX_bit]) hwf

theorem vsmerge h d a b : Statement (.vsmerge h d a b) := fun hwf => decode_short (maj := 9) (min := 3) (ops := eTT 0 d.obj d.rc a.obj a.tag b.obj b.tag) rfl
    (by decide) (by decide) (eTT_lt ..) rfl (by intro w x r; simp [hasLong, raw, raw9, r.maj, r.min, r.hdr, r.fld, r.bit]) hwf

theorem vsdrain h opt fill d a b : Statement (.vsdrain h opt fill d a b) := by
  intro hwf
  have hb := fill.toNat_lt
  have hw : opt.toNat < 5 := by simp only [Instr.wf, Bool.and_eq_true, decide_eq_true_eq] at hwf; exact hwf.1
  have hn : opt ≠ 5#3 := by rintro rfl; simp at hw
  have e1 : F (BitVec.ofBool fill ++ opt).toNat 0 3 = opt := F_eq (by simp only [append_toNat]; omega)
  have e2 : fBit (BitVec.ofBool fill ++ opt).toNat 3 = fill :=
    fBit_eq (by simp only [append_toNat, BitVec.toNat_ofBool]; omega)
  have e3 : eTT (BitVec.ofBool fill ++ opt) d.obj d.rc a.obj a.tag b.obj b.tag / 2199023255552 % 8 ≠ 5 := by
    unfold eTT; simp only [append_toNat]; omega
  exact decode_short (maj := 9) (min := 4) (ops := eTT (BitVec.ofBool fill ++ opt) d.obj d.rc a.obj a.tag b.obj b.tag) rfl
    (by decide) (by decide) (eTT_lt ..) rfl (by
      intro w x r
      have e4 := r.dec
      norm_num at e4
      simp [hasLong, raw, raw9, r.maj, r.min, r.hdr, r.fld, r.bit, e1, e2, e3, e4, hn]) hwf

theorem vsdrainNorm h fill d a b c eps aff lg : Statement (.vsdrainNorm h fill d a b c eps aff lg) := by
  intro hwf
  have hb := fill.toNat_lt
  have ha := aff.toNat_lt
  have e1 : F (BitVec.ofBool fill ++ 5#3).toNat 0 3 = 5#3 := F_eq (by simp only [append_toNat, BitVec.toNat_ofNat]; omega)
  have e2 : fBit (BitVec.ofBool fill ++ 5#3).toNat 3 = fill :=
    fBit_eq (by simp only [append_toNat, BitVec.toNat_ofBool, BitVec.toNat_ofNat]; omega)
  have e3 : eTT (BitVec.ofBool fill ++ 5#3) d.obj d.rc a.obj a.tag b.obj b.tag / 2199023255552 % 8 = 5 := by
    unfold eTT; simp only [append_toNat, BitVec.toNat_ofNat]; omega
  have e5 : F (eps.toNat + aff.toNat * 4294967296 + lg.toNat * 8589934592) 0 32 = eps := F_eq (by omega)
  have e6 : fBit (eps.toNat + aff.toNat * 4294967296 + lg.toNat * 8589934592) 32 = aff := fBit_eq (by omega)
  have e7 : F (eps.toNat + aff.toNat * 4294967296 + lg.toNat * 8589934592) 33 3 = lg := F_eq (by omega)
  exact decode_long (maj := 9) (min := 4) (ops := eTT (BitVec.ofBool fill ++ 5#3) d.obj d.rc a.obj a.tag b.obj b.tag)
    (ext := eX c.obj c.tag (eps.toNat + aff.toNat * 2^32 + lg.toNat * 2^33)) rfl (by decide) (by decide) (eTT_lt ..)
    (eX_lt _ _ (by omega)) rfl (by
      intro w r
      have e4 := r.dec
      norm_num at e4
      simp (disch := omega) [hasLong, raw, raw9, r.maj, r.min, r.hdr, r.fld, r.bit, eX_obj, eX_tag, eX_opt, eX_bit, e1, e2, e3, e4,
        e5, e6, e7]) hwf

theorem vredmax h ty d a : Statement (.vredmax h ty d a) := fun hwf => decode_short (maj := 9) (min := 5) (ops := eTT ty.code d.obj d.rc a.obj a.tag 0 0) rfl
    (by decide) (by decide) (eTT_lt ..) rfl (by intro w x r; simp [hasLong, raw, raw9, r.maj, r.min, r.hdr, r.fld, r.bit]) hwf

theorem vredmin h ty d a : Statement (.vredmin h ty d a) := fun hwf => decode_short (maj := 9) (min := 6) (ops := eTT ty.code d.obj d.rc a.obj a.tag 0 0) rfl
    (by decide) (by decide) (eTT_lt ..) rfl (by intro w x r; simp [hasLong, raw, raw9, r.maj, r.min, r.hdr, r.fld, r.bit]) hwf

theorem vhist h d a b : Statement (.vhist h d a b) := fun hwf => decode_short (maj := 9) (min := 7) (ops := eTT 0 d.obj d.rc a.obj a.tag b.obj b.tag) rfl
    (by decide) (by decide) (eTT_lt ..) rfl (by intro w x r; simp [hasLong, raw, raw9, r.maj, r.min, r.hdr, r.fld, r.bit]) hwf

theorem vrank h d a b : Statement (.vrank h d a b) := fun hwf => decode_short (maj := 9) (min := 8) (ops := eTT 0 d.obj d.rc a.obj a.tag b.obj b.tag) rfl
    (by decide) (by decide) (eTT_lt ..) rfl (by intro w x r; simp [hasLong, raw, raw9, r.maj, r.min, r.hdr, r.fld, r.bit]) hwf

theorem vamerge h d a b : Statement (.vamerge h d a b) := fun hwf => decode_short (maj := 9) (min := 9) (ops := eTT 0 d.obj d.rc a.obj a.tag b.obj b.tag) rfl
    (by decide) (by decide) (eTT_lt ..) rfl (by intro w x r; simp [hasLong, raw, raw9, r.maj, r.min, r.hdr, r.fld, r.bit]) hwf

theorem vafin h d a : Statement (.vafin h d a) := fun hwf => decode_short (maj := 9) (min := 10) (ops := eTT 0 d.obj d.rc a.obj a.tag 0 0) rfl
    (by decide) (by decide) (eTT_lt ..) rfl (by intro w x r; simp [hasLong, raw, raw9, r.maj, r.min, r.hdr, r.fld, r.bit]) hwf

theorem vld h ty d a gb imm : Statement (.vld h ty d a gb imm) := fun hwf => decode_short (maj := 10) (min := 0) (ops := eTG ty.code d.obj d.rc a.obj a.tag gb imm) rfl
    (by decide) (by decide) (eTG_lt ..) rfl (by intro w x r; simp [hasLong, raw, raw10, r.maj, r.min, r.hdr, r.fld, r.bit]) hwf

theorem vst h d gb imm a : Statement (.vst h d gb imm a) := fun hwf => decode_short (maj := 10) (min := 1) (ops := eTG 0 d.obj d.rc a.obj a.tag gb imm) rfl
    (by decide) (by decide) (eTG_lt ..) rfl (by intro w x r; simp [hasLong, raw, raw10, r.maj, r.min, r.hdr, r.fld, r.bit]) hwf

theorem vlds h ty d a gb imm stride count : Statement (.vlds h ty d a gb imm stride count) := fun hwf => decode_long (maj := 10) (min := 2) (ops := eTG ty.code d.obj d.rc a.obj a.tag gb imm) (ext := eX 0 0 (stride.toNat + count.toNat * 2^16)) rfl
    (by decide) (by decide) (eTG_lt ..) (eX_lt _ _ (by omega)) rfl (by 
        intro w r
        simp (disch := omega) [hasLong, raw, raw10, r.maj, r.min, r.hdr, r.fld, r.bit, eX_obj, eX_tag, eX_rc, eX_opt, eX_bit]
        and_intros
        all_goals first
          | (refine F_eq ?_; (repeat rw [append_toNat]); (try simp only [BitVec.toNat_setWidth, BitVec.toNat_ofBool, BitVec.toNat_ofNat]); omega)
          | (refine fBit_eq ?_; (repeat rw [append_toNat]); (try simp only [BitVec.toNat_setWidth, BitVec.toNat_ofBool, BitVec.toNat_ofNat]); omega)) hwf

theorem vgath h ty d a b : Statement (.vgath h ty d a b) := fun hwf => decode_short (maj := 10) (min := 3) (ops := eTT ty.code d.obj d.rc a.obj a.tag b.obj b.tag) rfl
    (by decide) (by decide) (eTT_lt ..) rfl (by intro w x r; simp [hasLong, raw, raw10, r.maj, r.min, r.hdr, r.fld, r.bit]) hwf

theorem vscat h ty d a b : Statement (.vscat h ty d a b) := fun hwf => decode_short (maj := 10) (min := 4) (ops := eTT ty.code d.obj d.rc a.obj a.tag b.obj b.tag) rfl
    (by decide) (by decide) (eTT_lt ..) rfl (by intro w x r; simp [hasLong, raw, raw10, r.maj, r.min, r.hdr, r.fld, r.bit]) hwf

theorem vldo h d a row : Statement (.vldo h d a row) := fun hwf => decode_short (maj := 10) (min := 5) (ops := eTG 0 d.obj d.rc a.obj a.tag 0 row) rfl
    (by decide) (by decide) (eTG_lt ..) rfl (by intro w x r; simp [hasLong, raw, raw10, r.maj, r.min, r.hdr, r.fld, r.bit]) hwf

theorem vsto h d row a : Statement (.vsto h d row a) := fun hwf => decode_short (maj := 10) (min := 6) (ops := eTG 0 d.obj d.rc a.obj a.tag 0 row) rfl
    (by decide) (by decide) (eTG_lt ..) rfl (by intro w x r; simp [hasLong, raw, raw10, r.maj, r.min, r.hdr, r.fld, r.bit]) hwf

theorem vqrd h d qn : Statement (.vqrd h d qn) := fun hwf => decode_short (maj := 10) (min := 7) (ops := eTG 0 d.obj d.rc 0 0 0 qn) rfl
    (by decide) (by decide) (eTG_lt ..) rfl (by intro w x r; simp [hasLong, raw, raw10, r.maj, r.min, r.hdr, r.fld, r.bit]) hwf

theorem mma h ty d a b o : Statement (.mma h ty d a b o) := by
  intro hwf; have b0 := o.bits_lt; exact decode_long (maj := 11) (min := 0) (ops := eTT ty.code d.obj d.rc a.obj a.tag b.obj b.tag) (ext := eX 0 0 o.bits) rfl (by decide) (by decide)
    (eTT_lt ..) (eX_lt _ _ (by omega)) rfl (by intro w r; simp (disch := omega) [hasLong, raw, raw11, r.maj, r.min, r.hdr, r.fld, r.bit, MmaOpt.of_bits0, eX_obj, eX_tag, eX_rc, eX_opt, eX_bit]) hwf

theorem mmas h ty d a b o : Statement (.mmas h ty d a b o) := by
  intro hwf; have b0 := o.bits_lt; exact decode_long (maj := 11) (min := 1) (ops := eTT ty.code d.obj d.rc a.obj a.tag b.obj b.tag) (ext := eX 0 0 o.bits) rfl (by decide) (by decide)
    (eTT_lt ..) (eX_lt _ _ (by omega)) rfl (by intro w r; simp (disch := omega) [hasLong, raw, raw11, r.maj, r.min, r.hdr, r.fld, r.bit, MmaOpt.of_bits0, eX_obj, eX_tag, eX_rc, eX_opt, eX_bit]) hwf

theorem mgath h ty d a b ti tj o pm1 : Statement (.mgath h ty d a b ti tj o pm1) := by
  intro hwf
  have b0 := o.bits_lt
  have e1 : F (o.bits + tj.obj.toNat * 67108864 + tj.tag.toNat * 17179869184 + pm1.toNat * 1099511627776) 26 8 = tj.obj :=
    F_eq (by omega)
  have e2 : F (o.bits + tj.obj.toNat * 67108864 + tj.tag.toNat * 17179869184 + pm1.toNat * 1099511627776) 34 6 = tj.tag :=
    F_eq (by omega)
  have e3 : F (o.bits + tj.obj.toNat * 67108864 + tj.tag.toNat * 17179869184 + pm1.toNat * 1099511627776) 40 2 = pm1 :=
    F_eq (by omega)
  have e4 := o.of_bits (tj.obj.toNat + tj.tag.toNat * 2^8 + pm1.toNat * 2^14)
  rw [show o.bits + (tj.obj.toNat + tj.tag.toNat * 2^8 + pm1.toNat * 2^14) * 2^26
    = o.bits + tj.obj.toNat * 67108864 + tj.tag.toNat * 17179869184 + pm1.toNat * 1099511627776 by ring] at e4
  exact decode_long (maj := 11) (min := 2) (ops := eTT ty.code d.obj d.rc a.obj a.tag b.obj b.tag)
    (ext := eX ti.obj ti.tag (o.bits + tj.obj.toNat * 2^26 + tj.tag.toNat * 2^34 + pm1.toNat * 2^40)) rfl
    (by decide) (by decide) (eTT_lt ..) (eX_lt _ _ (by omega)) rfl (by
      intro w r
      simp (disch := omega) [hasLong, raw, raw11, r.maj, r.min, r.hdr, r.fld, eX_obj, eX_tag, eX_opt, e1, e2, e3, e4]) hwf

theorem mgroup h ty d a b fx off9 o : Statement (.mgroup h ty d a b fx off9 o) := by
  intro hwf
  have b0 := o.bits_lt
  have e1 : F (o.bits + off9.toNat * 67108864) 26 9 = off9 := F_eq (by omega)
  have e2 := o.of_bits off9.toNat
  norm_num at e2
  exact decode_long (maj := 11) (min := 3) (ops := eTT ty.code d.obj d.rc a.obj a.tag b.obj b.tag)
    (ext := eX fx.obj fx.tag (o.bits + off9.toNat * 2^26)) rfl
    (by decide) (by decide) (eTT_lt ..) (eX_lt _ _ (by omega)) rfl (by
      intro w r
      simp (disch := omega) [hasLong, raw, raw11, r.maj, r.min, r.hdr, r.fld, eX_obj, eX_tag, eX_opt, e1, e2]) hwf

theorem acalloc h gd count : Statement (.acalloc h gd count) := fun hwf => decode_short (maj := 11) (min := 4) (ops := eCT 0 0 0 0 gd (count.setWidth 19)) rfl
    (by decide) (by decide) (eCT_lt ..) rfl (by 
        intro w x r
        simp [hasLong, raw, raw11, r.maj, r.min, r.hdr, r.fld, r.bit]
        and_intros
        all_goals first
          | (refine F_eq ?_; (repeat rw [append_toNat]); (try simp only [BitVec.toNat_setWidth, BitVec.toNat_ofBool, BitVec.toNat_ofNat]); omega)
          | (refine fBit_eq ?_; (repeat rw [append_toNat]); (try simp only [BitVec.toNat_setWidth, BitVec.toNat_ofBool, BitVec.toNat_ofNat]); omega)) hwf

theorem acfree h obj : Statement (.acfree h obj) := fun hwf => decode_short (maj := 11) (min := 5) (ops := eCT 2 obj 0 0 0 0) rfl
    (by decide) (by decide) (eCT_lt ..) rfl (by intro w x r; simp [hasLong, raw, raw11, r.maj, r.min, r.hdr, r.fld, r.bit]) hwf

theorem acband h obj bands strms : Statement (.acband h obj bands strms) := fun hwf => decode_short (maj := 11) (min := 6) (ops := eCT 2 obj 0 0 0 ((strms ++ bands).setWidth 19)) rfl
    (by decide) (by decide) (eCT_lt ..) rfl (by 
        intro w x r
        simp [hasLong, raw, raw11, r.maj, r.min, r.hdr, r.fld, r.bit]
        and_intros
        all_goals first
          | (refine F_eq ?_; (repeat rw [append_toNat]); (try simp only [BitVec.toNat_setWidth, BitVec.toNat_ofBool, BitVec.toNat_ofNat]); omega)
          | (refine fBit_eq ?_; (repeat rw [append_toNat]); (try simp only [BitVec.toNat_setWidth, BitVec.toNat_ofBool, BitVec.toNat_ofNat]); omega)) hwf

theorem aczero h d : Statement (.aczero h d) := fun hwf => decode_short (maj := 11) (min := 7) (ops := eCT 2 d.obj d.rc 0 0 0) rfl
    (by decide) (by decide) (eCT_lt ..) rfl (by intro w x r; simp [hasLong, raw, raw11, r.maj, r.min, r.hdr, r.fld, r.bit]) hwf

theorem acdrain h ty band now rnd relu d a : Statement (.acdrain h ty band now rnd relu d a) := by
  intro hwf; have b0 := relu.toNat_lt; have b1 := now.toNat_lt; exact decode_short (maj := 11) (min := 8) (ops := eTT ty.code d.obj d.rc a.obj a.tag ((((0#2 ++ (BitVec.ofBool relu)) ++ rnd) ++ (BitVec.ofBool now)) ++ band) 0) rfl (by decide) (by decide)
    (eTT_lt ..) rfl (by 
        intro w x r
        simp [hasLong, raw, raw11, r.maj, r.min, r.hdr, r.fld, r.bit]
        and_intros
        all_goals first
          | (refine F_eq ?_; (repeat rw [append_toNat]); (try simp only [BitVec.toNat_setWidth, BitVec.toNat_ofBool, BitVec.toNat_ofNat]); omega)
          | (refine fBit_eq ?_; (repeat rw [append_toNat]); (try simp only [BitVec.toNat_setWidth, BitVec.toNat_ofBool, BitVec.toNat_ofNat]); omega)) hwf

theorem acfill h band d a : Statement (.acfill h band d a) := fun hwf => decode_short (maj := 11) (min := 9) (ops := eTT 0 d.obj d.rc a.obj a.tag (band.setWidth 8) 0) rfl
    (by decide) (by decide) (eTT_lt ..) rfl (by 
        intro w x r
        simp [hasLong, raw, raw11, r.maj, r.min, r.hdr, r.fld, r.bit]
        and_intros
        all_goals first
          | (refine F_eq ?_; (repeat rw [append_toNat]); (try simp only [BitVec.toNat_setWidth, BitVec.toNat_ofBool, BitVec.toNat_ofNat]); omega)
          | (refine fBit_eq ?_; (repeat rw [append_toNat]); (try simp only [BitVec.toNat_setWidth, BitVec.toNat_ofBool, BitVec.toNat_ofNat]); omega)) hwf

theorem cp h spc d gs gc doff part : Statement (.cp h spc d gs gc doff part) := by
  intro hwf; have b0 := part.toNat_lt; exact decode_short (maj := 12) (min := 0) (ops := eCT spc.code d.obj d.rc 0 gs (((gc ++ doff) ++ 0#5) ++ (BitVec.ofBool part))) rfl (by decide) (by decide)
    (eCT_lt ..) rfl (by 
        intro w x r
        simp [hasLong, raw, raw12, r.maj, r.min, r.hdr, r.fld, r.bit]
        and_intros
        all_goals first
          | (refine F_eq ?_; (repeat rw [append_toNat]); (try simp only [BitVec.toNat_setWidth, BitVec.toNat_ofBool, BitVec.toNat_ofNat]); omega)
          | (refine fBit_eq ?_; (repeat rw [append_toNat]); (try simp only [BitVec.toNat_setWidth, BitVec.toNat_ofBool, BitVec.toNat_ofNat]); omega)) hwf

theorem cpst h spc gs gc a band : Statement (.cpst h spc gs gc a band) := fun hwf => decode_short (maj := 12) (min := 1) (ops := eCT spc.code a.obj 0 a.tag gs ((gc ++ 0#11) ++ band)) rfl
    (by decide) (by decide) (eCT_lt ..) rfl (by 
        intro w x r
        simp [hasLong, raw, raw12, r.maj, r.min, r.hdr, r.fld, r.bit]
        and_intros
        all_goals first
          | (refine F_eq ?_; (repeat rw [append_toNat]); (try simp only [BitVec.toNat_setWidth, BitVec.toNat_ofBool, BitVec.toNat_ofNat]); omega)
          | (refine fBit_eq ?_; (repeat rw [append_toNat]); (try simp only [BitVec.toNat_setWidth, BitVec.toNat_ofBool, BitVec.toNat_ofNat]); omega)) hwf

theorem cpg h d gs c : Statement (.cpg h d gs c) := fun hwf => decode_long (maj := 12) (min := 2) (ops := eCT 1 d.obj d.rc 0 gs 0) (ext := eX c.obj c.tag 0) rfl
    (by decide) (by decide) (eCT_lt ..) (eX_lt _ _ (by omega)) rfl (by intro w r; simp (disch := omega) [hasLong, raw, raw12, r.maj, r.min, r.hdr, r.fld, r.bit, eX_obj, eX_tag, eX_rc, eX_opt, eX_bit]) hwf

theorem cps h gs a c : Statement (.cps h gs a c) := fun hwf => decode_long (maj := 12) (min := 3) (ops := eCT 3 a.obj 0 a.tag gs 0) (ext := eX c.obj c.tag 0) rfl
    (by decide) (by decide) (eCT_lt ..) (eX_lt _ _ (by omega)) rfl (by intro w r; simp (disch := omega) [hasLong, raw, raw12, r.maj, r.min, r.hdr, r.fld, r.bit, eX_obj, eX_tag, eX_rc, eX_opt, eX_bit]) hwf

theorem cpq h qn gs gc : Statement (.cpq h qn gs gc) := fun hwf => decode_short (maj := 12) (min := 4) (ops := eCT 0 qn 0 0 gs (gc ++ 0#13)) rfl
    (by decide) (by decide) (eCT_lt ..) rfl (by 
        intro w x r
        simp [hasLong, raw, raw12, r.maj, r.min, r.hdr, r.fld, r.bit]
        and_intros
        all_goals first
          | (refine F_eq ?_; (repeat rw [append_toNat]); (try simp only [BitVec.toNat_setWidth, BitVec.toNat_ofBool, BitVec.toNat_ofNat]); omega)
          | (refine fBit_eq ?_; (repeat rw [append_toNat]); (try simp only [BitVec.toNat_setWidth, BitVec.toNat_ofBool, BitVec.toNat_ofNat]); omega)) hwf

theorem cppub h spc obj : Statement (.cppub h spc obj) := fun hwf => decode_short (maj := 12) (min := 5) (ops := eCT spc.code obj 0 0 0 0) rfl
    (by decide) (by decide) (eCT_lt ..) rfl (by intro w x r; simp [hasLong, raw, raw12, r.maj, r.min, r.hdr, r.fld, r.bit]) hwf

theorem rfence h : Statement (.rfence h) := fun hwf => decode_short (maj := 12) (min := 6) (ops := 0) rfl
    (by decide) (by decide) (by decide) rfl (by intro w x r; simp [hasLong, raw, raw12, r.maj, r.min, r.hdr]) hwf

theorem qpost h d c gk gl qn sigma : Statement (.qpost h d c gk gl qn sigma) := fun hwf => decode_long (maj := 13) (min := 0) (ops := eCT 3 d.obj d.rc 0 gk ((gl ++ 0#9) ++ qn)) (ext := eX c.obj c.tag sigma.toNat) rfl
    (by decide) (by decide) (eCT_lt ..) (eX_lt _ _ (by omega)) rfl (by 
        intro w r
        simp (disch := omega) [hasLong, raw, raw13, r.maj, r.min, r.hdr, r.fld, r.bit, eX_obj, eX_tag, eX_rc, eX_opt, eX_bit]
        and_intros
        all_goals first
          | (refine F_eq ?_; (repeat rw [append_toNat]); (try simp only [BitVec.toNat_setWidth, BitVec.toNat_ofBool, BitVec.toNat_ofNat]); omega)
          | (refine fBit_eq ?_; (repeat rw [append_toNat]); (try simp only [BitVec.toNat_setWidth, BitVec.toNat_ofBool, BitVec.toNat_ofNat]); omega)) hwf

theorem kvapp h gk gp a : Statement (.kvapp h gk gp a) := fun hwf => decode_short (maj := 13) (min := 1) (ops := eCT 0 a.obj 0 a.tag gk (gp ++ 0#13)) rfl
    (by decide) (by decide) (eCT_lt ..) rfl (by 
        intro w x r
        simp [hasLong, raw, raw13, r.maj, r.min, r.hdr, r.fld, r.bit]
        and_intros
        all_goals first
          | (refine F_eq ?_; (repeat rw [append_toNat]); (try simp only [BitVec.toNat_setWidth, BitVec.toNat_ofBool, BitVec.toNat_ofNat]); omega)
          | (refine fBit_eq ?_; (repeat rw [append_toNat]); (try simp only [BitVec.toNat_setWidth, BitVec.toNat_ofBool, BitVec.toNat_ofNat]); omega)) hwf

theorem coll h d gb : Statement (.coll h d gb) := fun hwf => decode_short (maj := 13) (min := 2) (ops := eCT 3 d.obj d.rc 0 gb 0) rfl
    (by decide) (by decide) (eCT_lt ..) rfl (by intro w x r; simp [hasLong, raw, raw13, r.maj, r.min, r.hdr, r.fld, r.bit]) hwf

theorem trigarm h gi gb : Statement (.trigarm h gi gb) := fun hwf => decode_short (maj := 13) (min := 3) (ops := eCT 0 0 0 0 gi (gb ++ 0#13)) rfl
    (by decide) (by decide) (eCT_lt ..) rfl (by 
        intro w x r
        simp [hasLong, raw, raw13, r.maj, r.min, r.hdr, r.fld, r.bit]
        and_intros
        all_goals first
          | (refine F_eq ?_; (repeat rw [append_toNat]); (try simp only [BitVec.toNat_setWidth, BitVec.toNat_ofBool, BitVec.toNat_ofNat]); omega)
          | (refine fBit_eq ?_; (repeat rw [append_toNat]); (try simp only [BitVec.toNat_setWidth, BitVec.toNat_ofBool, BitVec.toNat_ofNat]); omega)) hwf

theorem trigclr h gi : Statement (.trigclr h gi) := fun hwf => decode_short (maj := 13) (min := 4) (ops := eCT 0 0 0 0 gi 0) rfl
    (by decide) (by decide) (eCT_lt ..) rfl (by intro w x r; simp [hasLong, raw, raw13, r.maj, r.min, r.hdr, r.fld, r.bit]) hwf

theorem tsend h gdev gi : Statement (.tsend h gdev gi) := fun hwf => decode_short (maj := 13) (min := 5) (ops := eCT 0 0 0 0 gdev (gi ++ 0#13)) rfl
    (by decide) (by decide) (eCT_lt ..) rfl (by 
        intro w x r
        simp [hasLong, raw, raw13, r.maj, r.min, r.hdr, r.fld, r.bit]
        and_intros
        all_goals first
          | (refine F_eq ?_; (repeat rw [append_toNat]); (try simp only [BitVec.toNat_setWidth, BitVec.toNat_ofBool, BitVec.toNat_ofNat]); omega)
          | (refine fBit_eq ?_; (repeat rw [append_toNat]); (try simp only [BitVec.toNat_setWidth, BitVec.toNat_ofBool, BitVec.toNat_ofNat]); omega)) hwf

theorem nextit h pd : Statement (.nextit h pd) := fun hwf => decode_short (maj := 14) (min := 0) (ops := eSC pd 0 0 0 0) rfl
    (by decide) (by decide) (eSC_lt ..) rfl (by intro w x r; simp [hasLong, raw, raw14, r.maj, r.min, r.hdr, r.fld, r.bit, fPd, fGa, fGb]) hwf

theorem done h : Statement (.done h) := fun hwf => decode_short (maj := 14) (min := 1) (ops := 0) rfl
    (by decide) (by decide) (by decide) rfl (by intro w x r; simp [hasLong, raw, raw14, r.maj, r.min, r.hdr]) hwf

theorem spawn h ga : Statement (.spawn h ga) := fun hwf => decode_short (maj := 14) (min := 2) (ops := eSC 0 0 ga 0 0) rfl
    (by decide) (by decide) (eSC_lt ..) rfl (by intro w x r; simp [hasLong, raw, raw14, r.maj, r.min, r.hdr, r.fld, r.bit, fPd, fGa, fGb]) hwf

theorem signal h ga : Statement (.signal h ga) := fun hwf => decode_short (maj := 14) (min := 3) (ops := eSC 0 0 ga 0 0) rfl
    (by decide) (by decide) (eSC_lt ..) rfl (by intro w x r; simp [hasLong, raw, raw14, r.maj, r.min, r.hdr, r.fld, r.bit, fPd, fGa, fGb]) hwf

theorem pendingValueArrival x0 x1 x2 : Statement (.pendingValueArrival x0 x1 x2) := none' _ rfl

theorem accessPerformed x0 x1 x2 : Statement (.accessPerformed x0 x1 x2) := none' _ rfl

theorem targetFetchReady x0 x1 x2 : Statement (.targetFetchReady x0 x1 x2) := none' _ rfl

theorem engineStart x0 x1 : Statement (.engineStart x0 x1) := none' _ rfl

theorem readRetire x0 : Statement (.readRetire x0) := none' _ rfl

theorem kStep x0 : Statement (.kStep x0) := none' _ rfl

theorem copyElementStep x0 : Statement (.copyElementStep x0) := none' _ rfl

theorem operationCommit x0 : Statement (.operationCommit x0) := none' _ rfl

theorem shadowPublish x0 x1 x2 : Statement (.shadowPublish x0 x1 x2) := none' _ rfl

theorem barrierRelease x0 x1 : Statement (.barrierRelease x0 x1) := none' _ rfl

theorem waitLimitExpiry x0 : Statement (.waitLimitExpiry x0) := none' _ rfl

theorem stackScan x0 x1 : Statement (.stackScan x0 x1) := none' _ rfl

theorem stackPartialReturn x0 x1 : Statement (.stackPartialReturn x0 x1) := none' _ rfl

theorem qpostAnswerComplete x0 : Statement (.qpostAnswerComplete x0) := none' _ rfl

theorem kvappPerformed x0 : Statement (.kvappPerformed x0) := none' _ rfl

theorem collReceiveReduceStep x0 x1 x2 : Statement (.collReceiveReduceStep x0 x1 x2) := none' _ rfl

theorem collComplete x0 x1 : Statement (.collComplete x0 x1) := none' _ rfl

theorem collMemberTimeout x0 : Statement (.collMemberTimeout x0) := none' _ rfl

theorem triggerPacketArrival x0 x1 : Statement (.triggerPacketArrival x0 x1) := none' _ rfl

theorem triggerCommandStart x0 : Statement (.triggerCommandStart x0) := none' _ rfl

theorem triggerCommandComplete x0 : Statement (.triggerCommandComplete x0) := none' _ rfl

theorem kernelComplete x0 : Statement (.kernelComplete x0) := none' _ rfl

theorem sqEntryRead x0 : Statement (.sqEntryRead x0) := none' _ rfl

theorem dispatchPlace x0 : Statement (.dispatchPlace x0) := none' _ rfl

theorem victimSelection x0 : Statement (.victimSelection x0) := none' _ rfl

theorem shuttleAssign x0 : Statement (.shuttleAssign x0) := none' _ rfl

theorem nextitAnswer x0 x1 : Statement (.nextitAnswer x0 x1) := none' _ rfl

theorem taskYield x0 x1 : Statement (.taskYield x0 x1) := none' _ rfl

theorem yieldDeadlineExpiry x0 x1 : Statement (.yieldDeadlineExpiry x0 x1) := none' _ rfl

theorem scanOut x0 x1 : Statement (.scanOut x0 x1) := none' _ rfl

theorem taskRestore x0 : Statement (.taskRestore x0) := none' _ rfl

theorem faultStop x0 x1 : Statement (.faultStop x0 x1) := none' _ rfl

theorem faultVectoring x0 x1 : Statement (.faultVectoring x0 x1) := none' _ rfl

theorem faultQueueEntry x0 : Statement (.faultQueueEntry x0) := none' _ rfl

theorem fqcmdResume x0 x1 : Statement (.fqcmdResume x0 x1) := none' _ rfl

theorem fqcmdTerminate x0 x1 : Statement (.fqcmdTerminate x0 x1) := none' _ rfl

theorem fqheadWrite x0 x1 : Statement (.fqheadWrite x0 x1) := none' _ rfl

theorem eccCorrectableFreeze x0 : Statement (.eccCorrectableFreeze x0) := none' _ rfl

theorem eccFreezeEnd x0 : Statement (.eccFreezeEnd x0) := none' _ rfl

theorem onchipUncorrectableError x0 x1 x2 : Statement (.onchipUncorrectableError x0 x1 x2) := none' _ rfl

theorem patrolScrub x0 x1 x2 : Statement (.patrolScrub x0 x1 x2) := none' _ rfl

theorem bankSpare x0 x1 x2 : Statement (.bankSpare x0 x1 x2) := none' _ rfl

theorem refresh x0 x1 : Statement (.refresh x0 x1) := none' _ rfl

theorem debugStopped x0 : Statement (.debugStopped x0) := none' _ rfl

theorem breakpointHit x0 x1 : Statement (.breakpointHit x0 x1) := none' _ rfl

theorem telemetryTick : Statement (.telemetryTick) := none' _ rfl

theorem dumpWrite x0 : Statement (.dumpWrite x0) := none' _ rfl

theorem checkpointEpochBegin x0 : Statement (.checkpointEpochBegin x0) := none' _ rfl

theorem checkpointEpochComplete x0 : Statement (.checkpointEpochComplete x0) := none' _ rfl

theorem replay x0 x1 : Statement (.replay x0 x1) := none' _ rfl

theorem scrubComplete x0 : Statement (.scrubComplete x0) := none' _ rfl

theorem partmapWrite x0 : Statement (.partmapWrite x0) := none' _ rfl

theorem qmapWrite x0 : Statement (.qmapWrite x0) := none' _ rfl

theorem ctxbindWrite x0 x1 : Statement (.ctxbindWrite x0 x1) := none' _ rfl

theorem ctxrootWrite x0 x1 x2 : Statement (.ctxrootWrite x0 x1 x2) := none' _ rfl

theorem savepoolWrite x0 x1 x2 : Statement (.savepoolWrite x0 x1 x2) := none' _ rfl

theorem contextEvbWrite x0 x1 x2 : Statement (.contextEvbWrite x0 x1 x2) := none' _ rfl

theorem sqctlWrite x0 x1 x2 : Statement (.sqctlWrite x0 x1 x2) := none' _ rfl

theorem dbell x0 x1 x2 : Statement (.dbell x0 x1 x2) := none' _ rfl

theorem dbgctlStop x0 x1 : Statement (.dbgctlStop x0 x1) := none' _ rfl

theorem dbgctlForce x0 x1 : Statement (.dbgctlForce x0 x1) := none' _ rfl

theorem dbgctlGo x0 x1 : Statement (.dbgctlGo x0 x1) := none' _ rfl

theorem ttrigWrite x0 x1 x2 : Statement (.ttrigWrite x0 x1 x2) := none' _ rfl

theorem dumpctlGo x0 x1 : Statement (.dumpctlGo x0 x1) := none' _ rfl

theorem cktgtWrite x0 x1 : Statement (.cktgtWrite x0 x1) := none' _ rfl

theorem pwrctlPp x0 : Statement (.pwrctlPp x0) := none' _ rfl

theorem pwrctlQgate x0 : Statement (.pwrctlQgate x0) := none' _ rfl

theorem pwrctlSref x0 : Statement (.pwrctlSref x0) := none' _ rfl

theorem ppTransitionComplete : Statement (.ppTransitionComplete) := none' _ rfl

theorem srefExitComplete x0 : Statement (.srefExitComplete x0) := none' _ rfl

theorem pmcsrD3hot : Statement (.pmcsrD3hot) := none' _ rfl

theorem junctionTrip x0 : Statement (.junctionTrip x0) := none' _ rfl

theorem getDebugNonce : Statement (.getDebugNonce) := none' _ rfl

theorem debugUnlock x0 : Statement (.debugUnlock x0) := none' _ rfl

theorem lockInterfaceRequest x0 : Statement (.lockInterfaceRequest x0) := none' _ rfl

theorem getDeviceInterfaceReport x0 : Statement (.getDeviceInterfaceReport x0) := none' _ rfl

theorem startInterfaceRequest x0 x1 : Statement (.startInterfaceRequest x0 x1) := none' _ rfl

theorem stopInterfaceRequest x0 : Statement (.stopInterfaceRequest x0) := none' _ rfl

theorem frozenItemWrite x0 : Statement (.frozenItemWrite x0) := none' _ rfl

theorem keyProg x0 x1 x2 : Statement (.keyProg x0 x1 x2) := none' _ rfl

theorem kSetGo x0 x1 : Statement (.kSetGo x0 x1) := none' _ rfl

theorem kSetStop x0 x1 : Statement (.kSetStop x0 x1) := none' _ rfl

theorem keyset x0 x1 x2 : Statement (.keyset x0 x1 x2) := none' _ rfl

theorem getMeasurements : Statement (.getMeasurements) := none' _ rfl

theorem vfFlr x0 : Statement (.vfFlr x0) := none' _ rfl

theorem pf0Flr : Statement (.pf0Flr) := none' _ rfl

theorem perstDeassert : Statement (.perstDeassert) := none' _ rfl

theorem bringupComplete x0 : Statement (.bringupComplete x0) := none' _ rfl

theorem bar2Access x0 x1 x2 x3 x4 : Statement (.bar2Access x0 x1 x2 x3 x4) := none' _ rfl

theorem linkFlitReceive x0 x1 x2 : Statement (.linkFlitReceive x0 x1 x2) := none' _ rfl

theorem portRetrain x0 x1 : Statement (.portRetrain x0 x1) := none' _ rfl

theorem laneRestore x0 : Statement (.laneRestore x0) := none' _ rfl

theorem e2eResend x0 : Statement (.e2eResend x0) := none' _ rfl

theorem ingressRequest x0 x1 : Statement (.ingressRequest x0 x1) := none' _ rfl

theorem registerWrite x0 x1 x2 : Statement (.registerWrite x0 x1 x2) := none' _ rfl

theorem salendCommand x0 : Statement (.salendCommand x0) := none' _ rfl

theorem hostInvalidation x0 x1 : Statement (.hostInvalidation x0 x1) := none' _ rfl

theorem firmwarePlacement x0 x1 x2 : Statement (.firmwarePlacement x0 x1 x2) := none' _ rfl

end Sys2Proof.Laws.Decodes
end

