-- ==== Sys2Proof/Laws/Units.lean ====
section
/-!
SUPPORT. What the issue of the other units' instructions does, each said once: an access entering its queue, a count
instruction and a barrier instruction reaching their act, and an engine operation entering its queue.
-/
namespace Sys2Proof.Machine

/-! ### Accesses (Machine/Memory.lean) -/

/-- An access with room and operands goes on with the causes of its address. -/
theorem access_go {s : State} {h : Header} {mj : Nat} {u : Use} {load : Bool} {mk : List Word → State → Except Refused (Acc × State)}
    (hr : s.runs h mj) (hc : canRead s s.me u = true) (hl : lsRoom (s.setMe s.start) load = true) {a : Acc} {x : State}
    (hk : mk (readGs s s.start u.srcs).1 (s.setMe (readGs s s.start u.srcs).2) = .ok (a, x)) :
    access h mj u load mk s = retire h 8 (enterAcc x a) := by
  unfold access
  rw [guarded_go hr]
  simp only [hl, Bool.not_true, Bool.false_eq_true, if_false]
  rw [withOperands_go _ _ (by rw [State.start_run]; exact hr.1.1) (canRead_start hc)]
  simp only [hk]

/-- The location of an access that its address permits (R114, R318, R335, R367). -/
theorem memAt_ok {s u : State} {l : Loc} {e n : Nat} {nd : Need} {a : Word} (st : Stream) (hs : (s.setMe st).myTask = s.myTask) (h1 : a.toNat % n = 0)
    (h2 : translate s s.myCore s.myCtx a.toNat nd = .ok l e u) (h3 : reachable s s.myCtx l = true)
    (h4 : u.poisoned (memKey l) n = false) :
    memAt (s.setMe st) a n nd = .ok (.mem l, u.setMe st) := by
  have hu := translate_frame h2
  have hcu : u.cur = s.cur := by rw [hu]
  have ht := translate_beside (fun x => { x with strm := (s.setMe st).strm }) (fun x => ⟨rfl, rfl, rfl, rfl⟩) (fun _ _ _ _ => rfl) h2
  have e1 : ({ s with strm := (s.setMe st).strm } : State) = s.setMe st := rfl
  have e2 : ({ u with strm := (s.setMe st).strm } : State) = u.setMe st := by
    unfold State.setMe State.setStrm; rw [hcu, show u.strm = s.strm by rw [hu]]
  have hctx : (s.setMe st).myCtx = s.myCtx := by unfold State.myCtx; rw [hs]
  have hctxu : (u.setMe st).myCtx = s.myCtx := by
    rw [hu]; exact hctx
  rw [e1, e2] at ht
  unfold memAt
  rw [hctx, show (s.setMe st).myCore = s.myCore from rfl, ht]
  have h3' : reachable (u.setMe st) (u.setMe st).myCtx l = true := by
    rw [hctxu, ← h3, hu]; rfl
  have h4' : (u.setMe st).poisoned (memKey l) n = false := h4
  simp [h1, h3', h4']

/-! ### Counts and barriers (Machine/Count.lean) -/

/-- A count instruction of an object that its stream reaches acts. -/
theorem counted_go {s : State} {h : Header} {spc : Spc} {i : Nat} {skip nop : Bool} {act : Nat → State → Out} (hr : s.mayRun 6)
    (hn : nameFault s.myTask spc i = none) :
    counted h spc i skip nop act s =
      if nop || (skip && !s.me.guard h) then retire h 8 (s.setMe s.start)
      else if s.viewBlocked s.cur (nameKey s.myTask s.myCore s.me.slot spc i) s.fresh then stallU (s.setMe s.start)
      else act (nameKey s.myTask s.myCore s.me.slot spc i) (s.setMe s.start) := by
  have e1 : (s.setMe s.start).myTask = s.myTask := by
    unfold State.myTask State.taskAt State.tkey
    simp only [State.setMe_cur, State.strmOf_setMe, State.taskOf_setMe]
    rw [show s.start.slot = (s.strmOf s.cur).slot from me_slot s]
  have e2 : (s.setMe s.start).strmOf (s.setMe s.start).cur = s.start := State.strmOf_setMe ..
  unfold counted
  rw [begin_go h hr]
  simp only [e1, hn, e2]
  rfl

theorem myTask_start (s : State) : (s.setMe s.start).myTask = s.myTask := by
  unfold State.myTask State.taskAt State.tkey
  simp only [State.setMe_cur, State.strmOf_setMe, State.taskOf_setMe]
  rw [show s.start.slot = (s.strmOf s.cur).slot from me_slot s]

/-- A barrier instruction of a number in the task's window acts. -/
theorem barrier_go {s : State} {h : Header} {i : BitVec 8} {void act : State → Out} (hr : s.runs h 6) (h1 : i.toNat < 64)
    (h2 : i.toNat < (winBar s.myTask.win).2) : barrier h i void act s = act (s.setMe s.start) := by
  unfold barrier
  rw [begin_go h hr.1, hr.2]
  simp only [Bool.not_true, Bool.false_eq_true, if_false, myTask_start]
  rw [if_neg (by omega), if_neg (by omega)]

/-! ### Engine operations (Machine/Ops.lean) -/

theorem namesFault_none {t : Task} {l : List (Spc × Nat)} (h : ∀ x ∈ l, nameFault t x.1 x.2 = none) : namesFault t l = none := by
  have e : ∀ c, l.find? (fun x => nameFault t x.1 x.2 == some c) = none := by
    intro c
    rw [List.find?_eq_none]
    intro x hx
    simp [h x hx]
  simp [namesFault, e]

/-- An instruction whose fields take no cause names no reserved code. -/
theorem codeFault_none {t : Task} {i : Instr} (h : fieldFault t i = none) : codeFault t i = none := by
  unfold fieldFault at h
  split at h
  · cases h
  · exact h

/-- Under a false guard an engine instruction that takes no cause of its names or fields, and finds room, enters its queue. -/
theorem issueOp_not {s : State} {h : Header} {mj n : Nat} {i : Instr} {dst : Option G} {pre : List Word → Op → State → Pre}
    {put : State → Op → State} (hr : s.mayRun mj) (hg : s.me.guard h = false)
    (hn : ∀ x ∈ (tileOf i).names, nameFault s.myTask x.1 x.2 = none) (hf : fieldFault s.myTask i = none)
    (hq : queueRoom s s.cur (tileOf i).eng = true) :
    issueOp h mj n i dst pre put s = retire h n (put (s.setMe s.start) (newOp (s.setMe s.start) i false [])) := by
  unfold issueOp
  rw [begin_go h hr, hg]
  have hq' : queueRoom (s.setMe s.start) (s.setMe s.start).cur (tileOf i).eng = true := hq
  simp only [myTask_start, codeFault_none hf, namesFault_none hn, hf, hq', Bool.not_true, Bool.false_eq_true, if_false]

/-- Under a true guard it reads its g operands and goes on with its own tests. -/
theorem issueOp_go {s : State} {h : Header} {mj n : Nat} {i : Instr} {dst : Option G} {pre : List Word → Op → State → Pre}
    {put : State → Op → State} (hr : s.runs h mj) (hn : ∀ x ∈ (tileOf i).names, nameFault s.myTask x.1 x.2 = none)
    (hf : fieldFault s.myTask i = none) (hq : queueRoom s s.cur (tileOf i).eng = true)
    (hc : canRead s s.me { srcs := (tileOf i).gs, dst := dst, var := dst.isSome } = true) {o : Op} {x : State}
    (hp : pre (readGs s s.start (tileOf i).gs).1
      (newOp (s.setMe (readGs s s.start (tileOf i).gs).2) i true (readGs s s.start (tileOf i).gs).1)
      (s.setMe (readGs s s.start (tileOf i).gs).2) = .ok (o, x)) :
    issueOp h mj n i dst pre put s = retire h n (put x o) := by
  unfold issueOp
  rw [begin_go h hr.1, hr.2]
  have hq' : queueRoom (s.setMe s.start) (s.setMe s.start).cur (tileOf i).eng = true := hq
  simp only [myTask_start, codeFault_none hf, namesFault_none hn, hf, hq', Bool.not_true, Bool.false_eq_true, if_false, if_true]
  rw [withOperands_go _ _ (by rw [State.start_run]; exact hr.1.1) (canRead_start hc)]
  simp only [hp]

end Sys2Proof.Machine
end

