-- ==== Sys2Proof/Tests/Slice0.lean ====
section
/-!
SUPPORT. Tests: ill-formed terms that the checks refuse; words written out from the spec's encodings; single steps on small states;
and, for the statements, states and operands that meet the hypotheses of each clause (`witness_…`).
-/
set_option Elab.async false
namespace Sys2Proof.Tests
open Sys2Proof.Machine Sys2Proof.Claim

/-! ### Small states -/

/-- A page that stream 0's core maps: 64 KiB at virtual address 0, onto address 0 of context 0's partition, with every right. -/
def page0 : Tlb := ⟨0, 0, 0, 0x1FF, 0⟩
/-- A task of one stream with the whole storage of its core. -/
def task0 : Task := { stat := .run, token := 1, phys := [0], gslots := [0], win := wholeWin }
/-- A running stream in task mode with g1 = 7, g2 = 5. -/
def strm0 : Stream := { run := .run, g := [(1, 7), (2, 5)] }
/-- Stream 0 of core 0 runs `st` as task `t`, and is the current stream. -/
def at0 (t : Task) (st : Stream) : State := { now := 100, strm := [(0, st)], task := [(0, t)], core := [(0, { tlb := [page0] })] }
/-- The plain one. -/
def base : State := at0 task0 strm0
/-- The same with other device registers. -/
def withDev (s : State) (d : Dev) : State := { s with dev := d }
/-- A handler of a task with EVB 4,096. -/
def hand : State := at0 { task0 with stat := .handler, evb := 4096 } { strm0 with mode := .handler }

/-- What one step makes of a state: some part of the next one. -/
def after (o : Out) (d : α) (f : State → α) : α :=
  match o with
  | .next t => f t
  | _ => d

/-- A translation that succeeds. -/
def okT : TRes → Bool
  | .ok _ _ _ => true
  | _ => false

/-- A translation that succeeds, to a place that the context can reach. -/
def okReach (s : State) (ctx : Nat) : TRes → Bool
  | .ok l _ _ => reachable s ctx l
  | _ => false

theorem okReach_ex {s : State} {ctx : Nat} {r : TRes} (h : okReach s ctx r = true) : ∃ l e u, r = .ok l e u ∧ reachable s ctx l = true := by
  cases r with
  | ok l e u => exact ⟨l, e, u, rfl, h⟩
  | walkFault c => simp [okReach] at h
  | attr => simp [okReach] at h

theorem okT_ex {r : TRes} (h : okT r = true) : ∃ l e u, r = .ok l e u := by
  cases r with
  | ok l e u => exact ⟨l, e, u, rfl⟩
  | walkFault c => simp [okT] at h
  | attr => simp [okT] at h

/-- The frame page of the current stream's task is translated and can be reached, and no epoch has still to copy its block. -/
def frameOk (s : State) : Bool :=
  match translate s s.myCore s.myCtx (s.myTask.evb.toNat + 4096) .w with
  | .ok l _ _ => reachable s s.myCtx l && !s.ckHold (memKey l)
  | _ => false

theorem frameOk_ex {s : State} (h : frameOk s = true) : ∃ l u, reachable s s.myCtx l = true ∧ s.ckHold (memKey l) = false ∧
    ∃ e, translate s s.myCore s.myCtx (s.myTask.evb.toNat + 4096) .w = .ok l e u := by
  unfold frameOk at h
  cases ht : translate s s.myCore s.myCtx (s.myTask.evb.toNat + 4096) .w with
  | ok l e u => simp only [ht, Bool.and_eq_true, Bool.not_eq_true'] at h; exact ⟨l, u, h.1, h.2, e, rfl⟩
  | walkFault c => simp [ht] at h
  | attr => simp [ht] at h

theorem vectorsTo_ex {s : State} (h : s.placed ∧ s.me.mode = .task ∧ s.myTask.stat = .run ∧ s.myTask.fault = none ∧ s.myTask.evb ≠ 0 ∧
      (s.ctxOf s.myCtx).ttrig = 0 ∧ sampleK (s.ctxOf s.myCtx) = none ∧ s.mayStill (s.tkey s.cur) s.cur = false ∧
      ∀ o ∈ s.ops, o.core = s.myCore → o.slot = s.me.slot → (o.eng = .vec → o.ph = .queued) ∧ o.inStep s.now = false) (hf : frameOk s = true) : ∃ l u, s.vectorsTo l u := by
  obtain ⟨l, u, p⟩ := frameOk_ex hf
  obtain ⟨a, b, c, d, e, f, g, i, j⟩ := h
  exact ⟨l, u, a, b, c, d, e, f, g, i, j, p⟩

/-- A result that is no error. -/
def okE : Except ε α → Bool
  | .ok _ => true
  | .error _ => false

theorem okE_ex {r : Except ε α} (h : okE r = true) : ∃ x, r = .ok x := by
  cases r with
  | ok x => exact ⟨x, rfl⟩
  | error e => simp [okE] at h

/-- The value that a read brings, and the state it leaves. -/
def valS : Except ε (Nat × State) → Nat
  | .ok x => x.1
  | .error _ => 0
def stS : Except ε (Nat × State) → State
  | .ok x => x.2
  | .error _ => {}

theorem okS {r : Except ε (Nat × State)} (h : okE r = true) : r = .ok (valS r, stS r) := by
  cases r with
  | ok x => rfl
  | error e => simp [okE] at h

/-- Words, with their bytes, at addresses of a partition. -/
def memFor (o : Nat) (l : List (Nat × Nat × Nat)) : List Host.Cell := l.foldl (fun m x => writeN m (o * 2^64 + x.1) x.2.1 x.2.2) []
def memAt (l : List (Nat × Nat × Nat)) : List Host.Cell := memFor 7 l
/-- Tables that map the first 64 MiB of a context onto those of its partition, with every right. -/
def tables : List (Nat × Nat × Nat) := [(0x2000, 8, 0x4001), (0x4000, 8, 0x6001), (0x6000, 8, 0x1DF)]
/-- A context of partition `o` with these tables; the partition has every quarter. -/
def ctxFor (o : Nat) : Ctx := { bind := BitVec.ofNat 64 o, root := 0x2001 }
/-- Context 0 of partition `o` is mapped, and memory holds these words beside. -/
def mapped (o : Nat) (l : List (Nat × Nat × Nat)) : State :=
  { now := 100, mem := memFor o (tables ++ l), dev := { ctxs := [(0, ctxFor o)], pf0 := { partmap := BitVec.ofNat 32 (0x1111 * o) } } }
/-- Bytes that the device itself may use, by a test that can be run. -/
def useOk (s : State) (ctx a n : Nat) (wr : Bool) : Bool :=
  a % 65536 + n ≤ 65536 && s.touch ctx a wr == s && (match peek s ctx a with
    | .ok (l, e) => (if wr then pteW e else pteR e) && reachable s ctx l && !s.poisoned (memKey l) n
    | .error _ => false)

theorem useOk_ex {s : State} {ctx a n : Nat} {wr : Bool} (h : useOk s ctx a n wr = true) : ∃ l, canUse s ctx a n wr l := by
  simp only [useOk, Bool.and_eq_true, decide_eq_true_eq, beq_iff_eq] at h
  obtain ⟨⟨h1, h2⟩, h3⟩ := h
  cases hp : peek s ctx a with
  | ok x =>
    obtain ⟨l, e⟩ := x
    simp only [hp, Bool.and_eq_true, Bool.not_eq_true'] at h3
    exact ⟨l, h1, ⟨e, hp, by cases wr <;> simpa using h3.1.1⟩, h3.1.2, h3.2, h2⟩
  | error c => simp [hp] at h3

/-- The same of what an operation may write. -/
def writeOk (s : State) (o : Op) (va n : Nat) : Bool :=
  match translate s o.core o.ctx va .w with
  | .ok l _ u => (match l.home with
      | .dev _ => true
      | _ => false) && 1 ≤ n && va % 65536 + n ≤ 65536 && !u.poisoned (memKey l) n && !u.ckHold (memKey l)
  | _ => false

theorem writeOk_ex {s : State} {o : Op} {va n : Nat} (h : writeOk s o va n = true) : ∃ l u, canWrite s o va n l u := by
  unfold writeOk at h
  cases ht : translate s o.core o.ctx va .w with
  | walkFault c => simp [ht] at h
  | attr => simp [ht] at h
  | ok l e u =>
    simp only [ht, Bool.and_eq_true, decide_eq_true_eq, Bool.not_eq_true'] at h
    obtain ⟨⟨⟨⟨h1, h2⟩, h3⟩, h4⟩, h5⟩ := h
    cases hl : l.home with
    | dev d => exact ⟨l, u, ⟨e, ht⟩, ⟨d, hl⟩, h2, h3, h4, h5⟩
    | host => simp [hl] at h1
    | peer d => simp [hl] at h1

/-! ### Scalar computation, registers, flow -/

/-- q0 holds two elements. -/
def withQ : State := at0 task0 { strm0 with q := [(0, [11, 12])] }

theorem witness_ScalarResult : (∃ r, aluRow (.add {} 3 1 2) = some r ∧ (Instr.add {} 3 1 2).wf = true ∧ base.runs r.h r.mj ∧
      canRead base base.me { srcs := r.srcs, dst := some r.gd } = true ∧ r.srcs.any G.isQ = false) ∧
    ∃ r, aluRow (.add {} 3 32 32) = some r ∧ (Instr.add {} 3 32 32).wf = true ∧ withQ.runs r.h r.mj ∧
      canRead withQ withQ.me { srcs := r.srcs, dst := some r.gd } = true ∧ r.srcs.any G.isQ = true :=
  ⟨⟨_, rfl, by decide +kernel, by decide +kernel, by decide +kernel, by decide +kernel⟩, _, rfl, by decide +kernel, by decide +kernel, by decide +kernel, by decide +kernel⟩

theorem witness_PredicateResult : ∃ r, predRow (.cmplt {} 7 1 32) = some r ∧ withQ.runs r.h 2 ∧ canRead withQ withQ.me { srcs := r.srcs } = true :=
  ⟨_, rfl, by decide +kernel, by decide +kernel⟩

theorem witness_FalseGuardOnlyIssues : (guardedRow (.trap { prd := 1 } 3) = some ({ prd := 1 }, 5) ∧ base.mayRun 5 ∧ base.me.guard { prd := 1 } = false) ∧
    (privilegedRow (.ctxsave { prd := 1 } 3) = some ({ prd := 1 }, 0) ∧ hand.mayRun 0 ∧ hand.me.mode ≠ .task ∧ hand.me.guard { prd := 1 } = false) ∧
    base.mayRun 6 :=
  ⟨⟨rfl, by decide +kernel, by decide +kernel⟩, ⟨rfl, by decide +kernel, by decide +kernel, by decide +kernel⟩, by decide +kernel⟩

theorem witness_PlainInstructionsIssue : (∃ c, plainRow base (.nop {}) = some ({}, 0, c) ∧ c) ∧ (∃ c, plainRow base (.brkpt {}) = some ({}, 0, c) ∧ c) ∧
    (∃ c, plainRow base (.waitc {} 0 0 0 63) = some ({}, 3, c) ∧ c) ∧ (∃ c, plainRow base (.fence {} .sys .full) = some ({}, 3, c) ∧ c) ∧
    (∃ c, plainRow base (.fence {} .sys .eng) = some ({}, 3, c) ∧ c) ∧ (∃ c, plainRow base (.tfence {}) = some ({}, 5, c) ∧ c) ∧
    (∃ c, plainRow base (.yield {} false 0) = some ({}, 5, c) ∧ c) ∧ base.runs {} 0 ∧ base.runs {} 3 ∧ base.runs {} 5 :=
  ⟨⟨_, rfl, trivial⟩, ⟨_, rfl, .inl rfl⟩, ⟨_, rfl, by decide +kernel⟩, ⟨_, rfl, .inr (by decide +kernel)⟩, ⟨_, rfl, by decide +kernel, by decide +kernel⟩, ⟨_, rfl, by decide +kernel, by decide +kernel⟩,
    ⟨_, rfl, .inr rfl⟩, by decide +kernel, by decide +kernel, by decide +kernel⟩

theorem witness_RegisterReadResult : (31 : G).toNat < 32 ∧ base.runs {} 0 ∧ canRead base base.me { dst := some 31 } = true ∧
    canRead base base.me { dst := some 31, var := true } = true := by decide +kernel

theorem witness_RegisterWriteResult : hand.runs {} 0 ∧ canRead hand hand.me { srcs := [0] } = true ∧ (∀ o ∈ hand.ops, 8 * o.core + o.strm = hand.cur → o.uncnt = true) ∧
    hand.me.mode ≠ .task ∧ ((readGs hand hand.me [0]).1.getD 0 0).toNat % 4096 = 0 := by decide +kernel

theorem witness_SpillResult : base.runs {} 3 ∧ canRead base base.me { srcs := [1] } = true ∧ (31 : G).toNat < 32 ∧
    canRead base base.me { dst := some 31 } = true ∧ base.chipPoison base.myCore 5 (base.cur % 8) 4088 8 = false := by decide +kernel

/-- A store stands in the queue. -/
def withStore : State := at0 task0 { strm0 with cntS := 1, mq := [{ kind := .st, place := .mem ⟨.dev 7, 64⟩, size := 8, val := 9, va := 64 }] }

theorem witness_MarkerEnters : withStore.runs {} 3 ∧ withStore.me.mq.countP (fun a => a.loads || a.isMark) + withStore.me.arr.countP (·.load) < 32 ∧
    withStore.me.mq.countP (fun a => a.stores || a.isMark) < 32 ∧ withStore.me.mq.any (fun a => a.stores || a.isAtom) = true ∧
    base.me.mq.all (fun a => a.isLd || a.isMark) = true := by decide +kernel

/-- b1 holds a fetched target, 64; b2 an unaligned one. -/
def withB : State := at0 { task0 with evb := 4096 } { strm0 with b := [(1, ⟨64, .ready⟩), (2, ⟨65, .ready⟩)] }

theorem witness_BranchPreparedAndTaken : withB.runs {} 5 ∧ canRead withB withB.me { srcs := [1] } = true ∧ mget {} withB.me.b (1 : P).toNat = ⟨64, .ready⟩ ∧
    (64 : Word).toNat % 8 = 0 ∧ (31 : G).toNat < 32 ∧ canRead withB withB.me { dst := some 31 } = true := by decide +kernel

/-! ### Faults, handlers, context saves -/

/-- A frame page that the task can write. -/
def traps : State := at0 { task0 with evb := 4096 } { strm0 with flg := 1, fpc := 0x100, b := [(2, ⟨65, .ready⟩)] }

theorem witness_FaultEntersHandler : (∃ c, trapRow traps (.trap {} 5) = some (c, 0x0E, 0, 5) ∧ c) ∧ (∃ c, trapRow traps (.tfence {}) = some (c, 0x0D, 0, 0) ∧ c) ∧
    (∃ c, trapRow traps (.wrcs {} .cyc 1) = some (c, 0x0B, 0, 0) ∧ c) ∧ (∃ c, trapRow traps (.br {} 2) = some (c, 0x0C, 65, 0) ∧ c) ∧
    (∃ c, trapRow traps (.eret {}) = some (c, 0x03, 0, 0) ∧ c) ∧ ∃ l u, traps.vectorsTo l u := by
  refine ⟨⟨_, rfl, by decide +kernel⟩, ⟨_, rfl, by decide +kernel⟩, ⟨_, rfl, by decide +kernel⟩, ⟨_, rfl, by decide +kernel⟩, ⟨_, rfl, by decide +kernel⟩, ?_⟩
  exact vectorsTo_ex (by decide +kernel) (by decide +kernel)

theorem witness_HandlerReturns : hand.runs {} 5 ∧ hand.me.mode = .handler ∧ hand.placed ∧
    (∃ l e u, translate hand hand.myCore hand.myCtx (hand.myTask.evb.toNat + 4096) .r = .ok l e u ∧ reachable hand hand.myCtx l = true) ∧
    hand.mpois = [] :=
  ⟨by decide +kernel, by decide +kernel, by decide +kernel, okReach_ex (by decide +kernel), rfl⟩

/-- The same with SKIP set in the record of its vector operation, and that operation with its reads in flight. -/
def handSkip : State :=
  { hand with
    mem := writeN [] (7 * 2^64 + 8192 + 128 + 9) 1 2
    ops := [{ uid := 1, core := 0, strm := 0, slot := 0, tnum := 0, ctx := 0, eng := .vec, i := .vand {} .s32 ⟨255, 1⟩ ⟨0, 0⟩ ⟨1, 63⟩, pc := 0, cyc := 50,
              fpc := 0, guard := true }] }
/-- The frame page of a state's task, as its handler reads it. -/
def pageOf (s : State) : Option Nat :=
  match translate s s.myCore s.myCtx (s.myTask.evb.toNat + 4096) .r with
  | .ok l _ u => if reachable s s.myCtx l && !u.poisoned (memKey l) 4096 then some (readN u.mem (memKey l) 4096) else none
  | _ => none

theorem witness_HandlerReturns_skip : handSkip.runs {} 5 ∧ handSkip.me.mode = .handler ∧ handSkip.placed ∧
    (pageOf handSkip).map (fun p => skipped p 1) = some [(0, 0)] ∧ handSkip.myTask.phys.length = 1 ∧
    (skipHeads handSkip (handSkip.tkey handSkip.cur) [(0, 0)]).2.map (·.uid) = [1] := by decide +kernel

/-- Stream 0 of core 0 runs firmware. -/
def firm : State := { strm := [(0, { run := .run, mode := .firmware, slot := 3 })], core := [(0, { tlb := [page0] })] }

theorem witness_HaltEndsTask : (firm.runs {} 0 ∧ firm.me.mode = .firmware) ∧ hand.runs {} 0 ∧ hand.me.mode = .handler ∧ hand.placed ∧
    hand.gangKeys hand.myTask.token = [hand.tkey hand.cur] ∧ (∀ n ∈ hand.myTask.phys, (hand.strmOf (8 * hand.myCore + n)).mq = []) ∧
    bitN (hand.ctxOf hand.myCtx).dumpctl.toNat 1 = false := by decide +kernel

theorem witness_TlbInvalidate : hand.runs {} 0 ∧ hand.me.mode ≠ .task ∧ canRead hand hand.me { srcs := [0] } = true ∧
    ((readGs hand hand.me [0]).1.getD 0 0).toNat % 64 = hand.myCtx ∧ firm.runs {} 0 ∧ firm.me.mode = .firmware ∧
    canRead firm firm.me { srcs := [0] } = true := by decide +kernel
/-! ### Accesses, counts and barriers -/

/-- A page that context 0's core maps to host memory, and one that it maps to a peer. -/
def hosts : State := { base with core := [(0, { tlb := [page0, ⟨0, 0x10000, 0, 0x1000000000019F, 0⟩, ⟨0, 0x20000, 0, 0x2000000000019F, 0⟩] })]
                                 dev := { funs := [(7, { balOut := some 1 })] } }

theorem witness_MemoryAccessEnters : (∃ r, memRow hosts.now (.ld {} .b64 3 0 0xFFF8) = some r ∧ hosts.runs r.h r.mj ∧ canRead hosts hosts.me r.use = true ∧
      lsFree hosts.me r.load ∧ (r.addr (readGs hosts hosts.me r.use.srcs).1).toNat % r.al = 0 ∧
      ∃ l e u, translate hosts hosts.myCore hosts.myCtx (r.addr (readGs hosts hosts.me r.use.srcs).1).toNat r.need = .ok l e u ∧
        reachable hosts hosts.myCtx l = true) ∧
    (∃ r, memRow hosts.now (.st {} .n8 1 0 0xFFFF) = some r ∧ hosts.runs r.h r.mj ∧ canRead hosts hosts.me r.use = true ∧ lsFree hosts.me r.load) ∧
    (∃ r, memRow hosts.now (.amo {} .fadd false .dev .rlx 3 0 1) = some r ∧ hosts.runs r.h r.mj ∧ canRead hosts hosts.me r.use = true ∧ r.host = false) ∧
    (∃ r, memRow hosts.now (.spawn {} 0) = some r ∧ hosts.runs r.h r.mj ∧ canRead hosts hosts.me r.use = true ∧ lsFree hosts.me r.load) ∧
    (∃ l e u, translate hosts 0 0 0x10000 .rw = .ok l e u ∧ reachable hosts 0 l = true) ∧ (∃ l e u, translate hosts 0 0 0x20000 .w = .ok l e u) ∧
    (hosts.funOf (hosts.ownerC hosts.myCtx)).balOut ≠ none ∧ hosts.ctl.rels = [] ∧ hosts.poisoned (memKey ⟨.dev 7, 0xFFF8⟩) 8 = false := by
  refine ⟨⟨_, rfl, by decide +kernel, by decide +kernel, ?_, by decide +kernel, okReach_ex (by decide +kernel)⟩, ⟨_, rfl, by decide +kernel, by decide +kernel, ?_⟩,
    ⟨_, rfl, by decide +kernel, by decide +kernel, by decide +kernel⟩, ⟨_, rfl, by decide +kernel, by decide +kernel, ?_⟩, okReach_ex (by decide +kernel),
    okT_ex (by decide +kernel), by decide +kernel, rfl, by decide +kernel⟩ <;> simp only [lsFree] <;> decide +kernel

/-- A gang of two cores. -/
def gang2 : State := { at0 { task0 with gsize := 2, gslots := [0, 0] } strm0 with
  task := [(0, { task0 with gsize := 2, gslots := [0, 0] }), (4, { task0 with gsize := 2, grank := 1, gslots := [0, 0] })] }

theorem witness_FrameAccessEnters : (∃ r, abfRow (.lda {} .b64 3 0 4088) = some (r, none) ∧ gang2.runs r.h r.mj ∧ canRead gang2 gang2.me r.use = true ∧
      lsFree gang2.me r.load ∧ (r.addr (readGs gang2 gang2.me r.use.srcs).1).toNat = 4088 ∧ (4088 : Nat) % r.al = 0) ∧
    (∃ r, abfRow (.amoa {} .add true .gang .rlx 3 4 1) = some (r, some .gang) ∧ gang2.runs r.h r.mj ∧ canRead gang2 gang2.me r.use = true ∧
      lsFree gang2.me r.load) ∧
    (4088 : Nat) < (winOf gang2.myTask.win .f).2 * 4096 ∧ bits (2^20) 20 3 < gang2.myTask.gsize ∧ gang2.chipPoison 1 3 0 4088 8 = false := by
  refine ⟨⟨_, rfl, by decide +kernel, by decide +kernel, ?_, by decide +kernel, by decide +kernel⟩, ⟨_, rfl, by decide +kernel, by decide +kernel, ?_⟩, by decide +kernel,
    by decide +kernel, by decide +kernel⟩ <;> simp only [lsFree] <;> decide +kernel

theorem witness_TranslationMarksOnly : (∃ l e u, translate base 0 0 0xFFFF .w = .ok l e u) ∧
    (∃ l e u, translate (mapped 7 []) 0 0 0x8000 .w = .ok l e u) ∧ serves (mapped 7 []) 0 0 0x8000 .w = none ∧
    ∃ v lvl k, walk (mapped 7 []) 0 0x8000 = .ok (v, lvl, k) := by
  refine ⟨okT_ex (by decide +kernel), okT_ex (by decide +kernel), by decide +kernel, ?_⟩
  have h : okE (walk (mapped 7 []) 0 0x8000) = true := by decide +kernel
  cases hw : walk (mapped 7 []) 0 0x8000 with
  | ok x => exact ⟨x.1, x.2.1, x.2.2, rfl⟩
  | error e => simp [hw, okE] at h

/-- t5 has been written once, and read to be read twice; t6 is held; t7 has a version that stream 0 has passed. -/
def counted : State := { base with obj := { cnts := [(5, { w := 1, d := 2, l := 2 }), (6, { w := 1, h := true, d := 15 }), (7, { w := 2, v := 1 })] } }

theorem witness_CountedWaitsAndBumps : counted.mayRun 6 ∧ nameFault counted.myTask .t 255 = none ∧ countsOn counted .t 5 5 ∧
    ((counted.cntOf 5).view counted.me.tnum + (1 : BitVec 6).setWidth 16) = (counted.cntOf 5).w ∧ sees counted (counted.cntOf 5).wc (counted.cntOf 5).wu ∧
    countsOn counted .t 255 255 ∧ (counted.cntOf 255).h = false ∧ (counted.cntOf 255).l = 0 ∧ (counted.cntOf 255).rif = 0 ∧
    sees counted (counted.cntOf 255).lc (counted.cntOf 255).lu ∧ (counted.cntOf 255).wu = 0 ∧ counted.ops = [] ∧
    (∀ e ∈ counted.strm, ∀ a ∈ e.2.arr, a.view ≠ some (255, counted.now)) := by
  refine ⟨by decide +kernel, by decide +kernel, ?_, by decide +kernel, .inl (by decide +kernel), ?_, by decide +kernel, by decide +kernel, by decide +kernel,
    .inl (by decide +kernel), by decide +kernel, rfl, by decide +kernel⟩ <;> simp only [countsOn] <;> decide +kernel

theorem witness_CountedControl : counted.mayRun 6 ∧ nameFault counted.myTask .t 6 = none ∧ counted.me.guard { prd := 1 } = false ∧ counted.me.guard {} = true ∧
    countsOn counted .t 6 6 ∧ (counted.cntOf 6).h = true ∧ canRead counted counted.me { dst := some 3, var := true } = true := by
  simp only [countsOn]; decide +kernel

/-- The same with EVB 4,096 and a window of 64 operand slots. -/
def countedT : State := { counted with task := [(0, { task0 with evb := 4096, win := mkWin 0 256 0 64 64 0 256 0 64 })] }

theorem witness_CountedFaults : countedT.me.run = .run ∧ (∃ l u, countedT.vectorsTo l u) ∧ countsOn countedT .t 7 7 ∧
    ((countedT.cntOf 7).view countedT.me.tnum + (0 : BitVec 6).setWidth 16 - (countedT.cntOf 7).w).toInt < 0 ∧
    (winOf countedT.myTask.win .o).2 ≤ (64 : BitVec 8).toNat ∧ (191 : BitVec 8).toNat < spaceSize .o ∧ spaceSize .o ≤ (192 : BitVec 8).toNat := by
  refine ⟨rfl, vectorsTo_ex (by decide +kernel) (by decide +kernel), ?_⟩
  simp only [countsOn]; decide +kernel

/-- Barrier 0 waits for the second of two arrivals; in barrier 1 stream 0's phase has completed; barrier 2's waits. -/
def barred : State := { base with obj := { bars := [(0, { n := 2, a := 1, t := 1 }), (1, { n := 1, gen := 1, t := 1, rel := 97 }), (2, { n := 2, a := 1, t := 1 })] } }

theorem witness_BarrierArrivals : barred.runs {} 6 ∧ (63 : BitVec 8).toNat < 64 ∧ (63 : BitVec 8).toNat < (winBar barred.myTask.win).2 ∧
    (barred.barOf (barOfName barred 0)).n ≠ 0 ∧ (barred.barOf (barOfName barred 0)).a + 1 = (barred.barOf (barOfName barred 0)).n ∧
    128 * barred.myTask.grank + 16 * barred.me.tnum + 16 ≤ 1024 := by decide +kernel

/-- Stream 0 has arrived at barrier 1 with a BARSYNC. -/
def synced : State := { at0 task0 { strm0 with syncArr := true, syncBar := 1 } with obj := barred.obj }

theorem witness_BarrierWaits : (barred.runs {} 6 ∧ (barred.barOf (barOfName barred 1)).n ≠ 0 ∧ barred.me.barW = none ∧
      ((barred.barOf 1).gen - BitVec.ofNat 16 (bits (barred.barOf 1).t.toNat 0 16)).toInt = 0 ∧ (barred.barOf 1).rel + 3 ≤ barred.now) ∧
    (synced.me.syncArr = true ∧ synced.me.syncBar = 1 ∧ (synced.barOf (barOfName synced 1)).n ≠ 0) ∧
    ((barred.barOf 2).gen - BitVec.ofNat 16 (bits (barred.barOf 2).t.toNat 0 16)).toInt < 0 ∧ barred.me.syncArr = false ∧ barred.me.wait = none := by
  decide +kernel

/-! ### Issue of engine operations -/

theorem witness_FalseGuardQueues : engRow (.vadd { prd := 1 } .f32 ⟨255, 1⟩ ⟨0, 0⟩ ⟨1, 0⟩) = some ({ prd := 1 }, 7, 8, .vec) ∧ base.mayRun 7 ∧
    base.me.guard { prd := 1 } = false ∧ queues base (.vadd { prd := 1 } .f32 ⟨255, 1⟩ ⟨0, 0⟩ ⟨1, 0⟩) .vec := by
  refine ⟨rfl, by decide +kernel, by decide +kernel, ?_⟩
  simp only [queues]; decide +kernel

theorem witness_EngineIssues : engRow (.vbcast {} .f32 ⟨255, 1⟩ 1) = some ({}, 7, 8, .vec) ∧ ownIssue (.vbcast {} .f32 ⟨255, 1⟩ 1) = false ∧ base.runs {} 7 ∧
    queues base (.vbcast {} .f32 ⟨255, 1⟩ 1) .vec ∧ canRead base base.me { srcs := (tileOf (.vbcast {} .f32 ⟨255, 1⟩ 1)).gs } = true := by
  refine ⟨rfl, rfl, by decide +kernel, ?_, by decide +kernel⟩
  simp only [queues]; decide +kernel

theorem witness_OffsetsAndLanesIssue :
    (base.runs {} 10 ∧ queues base (.vld {} .f32 ⟨0, 1⟩ ⟨255, 0⟩ 0 448) .vec ∧ canRead base base.me { srcs := [0] } = true ∧
      (((readGs base base.me [0]).1.getD 0 0).toNat + 8 * (448 : BitVec 9).toNat) % 2^64 = 4096 - 512) ∧
    queues base (.vst {} ⟨255, 1⟩ 0 448 ⟨0, 0⟩) .vec ∧ queues base (.vlds {} .f32 ⟨0, 1⟩ ⟨0, 0⟩ 0 0 4 128) .vec ∧
    (4 : BitVec 16).toNat % (Machine.Ty.w .f32 / 8) = 0 ∧
    queues base (.vlane {} .f32 3 ⟨0, 0⟩ 0 127) .vec ∧ canRead base base.me { srcs := [0], dst := some ((3 : BitVec 8).setWidth 6), var := true } = true ∧
    ((readGs base base.me [0]).1.getD 0 0).toNat + (127 : BitVec 9).toNat < Ty.lpr .f32 := by
  refine ⟨⟨by decide +kernel, ?_, by decide +kernel, by decide +kernel⟩, ?_, ?_, by decide +kernel, ?_, by decide +kernel, by decide +kernel⟩ <;>
    simp only [queues] <;> decide +kernel

/-- Names 0 and 2 of the accumulator quota are taken. -/
def withAcc : State := at0 { task0 with amap := 5 } strm0

theorem witness_AccumulatorNames : withAcc.runs {} 11 ∧ queues withAcc (.acalloc {} 4 2) .mat ∧ canRead withAcc withAcc.me { dst := some 4, var := true } = true ∧
    bits withAcc.myTask.win.toNat 26 7 = 64 ∧ (∀ i, i < 2 → bitN withAcc.myTask.amap.toNat (3 + i) = false) ∧
    (∀ c, c < 3 → ∃ i, i < 2 ∧ bitN withAcc.myTask.amap.toNat (c + i) = true) ∧ queues withAcc (.acalloc {} 4 64) .mat ∧ queues withAcc (.acfree {} 2) .mat := by
  simp only [queues]; decide +kernel

/-- A KV map record of D = 64 in bf16 with 8 tokens to a row, at 64; g3 = 64. -/
def kvRec : Nat := 0x20000 + 2^64 * (64 + 2^16 * (1 + 2^8 * 8)) + 2^128 * 100 + 2^192

/-- Records in memory, and where they stand: g3 = 64 a KV map, g4 = 128 a collective's block, g5 = 256 a trigger's command; the group table
stands at 4,096 with one group of the devices 0 and 1, of which this is device 0. -/
def nears : State := { at0 task0 { strm0 with g := [(1, 7), (2, 5), (3, 64), (4, 128), (5, 256), (6, 99)] } with
  mem := memAt [(64, 64, kvRec), (128, 8, 0), (256, 8, 0x0101), (4096, 8, 2), (4104, 8, 8192), (8192, 4, 0x10000)]
  dev := { funs := [(7, { balOut := some 1 })], ctxs := [(0, { grptab := 4096 + 1 })], pf0 := { domain := 0x100000000 } } }

theorem witness_NearCommandsIssue :
    (nears.runs {} 13 ∧ engRow (.qpost {} ⟨0, 1⟩ ⟨240, 0⟩ 3 6 8 0) = some ({}, 13, 16, .near) ∧ queues nears (.qpost {} ⟨0, 1⟩ ⟨240, 0⟩ 3 6 8 0) .near ∧
      canRead nears nears.me { srcs := (tileOf (.qpost {} ⟨0, 1⟩ ⟨240, 0⟩ 3 6 8 0)).gs } = true ∧
      ∃ img u, nearRow (nears.setMe (took nears [3, 6])) (readGs nears nears.me [3, 6]).1 img u (.qpost {} ⟨0, 1⟩ ⟨240, 0⟩ 3 6 8 0)) ∧
    (queues nears (.kvapp {} 3 6 ⟨255, 0⟩) .near ∧
      ∃ img u, nearRow (nears.setMe (took nears [3, 6])) (readGs nears nears.me [3, 6]).1 img u (.kvapp {} 3 6 ⟨255, 0⟩)) ∧
    (queues nears (.coll {} ⟨0, 1⟩ 4) .near ∧ ∃ img u, nearRow (nears.setMe (took nears [4])) (readGs nears nears.me [4]).1 img u (.coll {} ⟨0, 1⟩ 4)) ∧
    (queues nears (.trigarm {} 1 5) .near ∧ ∃ img u, nearRow (nears.setMe (took nears [1, 5])) (readGs nears nears.me [1, 5]).1 img u (.trigarm {} 1 5)) ∧
    (queues nears (.trigclr {} 1) .near ∧ nearRow (nears.setMe (took nears [1])) (readGs nears nears.me [1]).1 [] (nears.setMe (took nears [1])) (.trigclr {} 1)) ∧
    (queues nears (.tsend {} 0 1) .near ∧
      nearRow (nears.setMe (took nears [0, 1])) (readGs nears nears.me [0, 1]).1 [] (nears.setMe (took nears [0, 1])) (.tsend {} 0 1)) := by
  refine ⟨⟨by decide +kernel, rfl, ?_, by decide +kernel, ?_⟩, ⟨?_, ?_⟩, ⟨?_, ?_⟩, ⟨?_, ?_⟩, ⟨?_, ?_⟩, ?_, ?_⟩
  · simp only [queues]; decide +kernel
  · exact ⟨_, _, _, okS (by decide +kernel), rfl, by decide +kernel⟩
  · simp only [queues]; decide +kernel
  · exact ⟨_, _, _, okS (by decide +kernel), rfl, by decide +kernel, by decide +kernel⟩
  · simp only [queues]; decide +kernel
  · exact ⟨_, _, _, _, _, _, _, _, by decide +kernel, okS (by decide +kernel), by decide +kernel, by decide +kernel, okS (by decide +kernel),
      by decide +kernel, by decide +kernel, okS (by decide +kernel), by decide +kernel, by decide +kernel, rfl, rfl⟩
  · simp only [queues]; decide +kernel
  · exact ⟨_, _, _, by decide +kernel, by decide +kernel, by decide +kernel, okS (by decide +kernel), by decide +kernel, rfl⟩
  · simp only [queues]; decide +kernel
  · exact ⟨by decide +kernel, by decide +kernel, rfl, rfl⟩
  · simp only [queues]; decide +kernel
  · exact ⟨by decide +kernel, by decide +kernel, rfl, rfl, by decide +kernel⟩

/-- A record of rank 2 at 64, cached by core 0; g3 = 64; the stream has performed its stores. -/
def copying : State := { at0 task0 { strm0 with g := [(3, 64)] } with core := [(0, { tlb := [page0], recs := [⟨0, 64, 2 * 2^72⟩] })] }

theorem witness_CopiesIssue :
    (engRow (.cp {} .f ⟨255, 1⟩ 3 30 0 false) = some ({}, 12, 8, .cpy) ∧ copyRow (.cp {} .f ⟨255, 1⟩ 3 30 0 false) = some (3, some 30) ∧ copying.runs {} 12 ∧
      queues copying (.cp {} .f ⟨255, 1⟩ 3 30 0 false) .cpy ∧ canRead copying copying.me { srcs := [3] } = true ∧
      readRec (copying.setMe (took copying [3])) 64 = .ok (2 * 2^72, copying.setMe (took copying [3])) ∧ (readGs copying copying.me [3]).1.getD 0 0 = 64 ∧
      (30 : G).toNat + recRank (2 * 2^72) ≤ 32 ∧ ∀ d, d < recRank (2 * 2^72) → bitN copying.me.pend.toNat (30 + d) = false) ∧
    (queues base (.cppub {} .f 255) .cpy ∧ base.runs {} 12) ∧ queues base (.rfence {}) .cpy ∧ ∀ a ∈ base.me.mq, a.kind = .mark ∨ a.isLd = true := by
  refine ⟨⟨rfl, rfl, by decide +kernel, ?_, by decide +kernel, rfl, by decide +kernel, by decide +kernel, by decide +kernel⟩, ⟨?_, by decide +kernel⟩, ?_, by decide +kernel⟩ <;>
    simp only [queues] <;> decide +kernel

/-- A request to yield stands. -/
def yreq : State := at0 { task0 with yreq := some 500 } strm0

/-- A task of two streams. -/
def two : State := { base with task := [(0, { task0 with phys := [0, 1] })], strm := [(0, strm0), (1, strm0)] }

theorem witness_StreamStops : (yreq.runs {} 5 ∧ yreq.me.mode = .task ∧ yreq.myTask.yreq ≠ none) ∧
    (base.runs {} 14 ∧ base.me.cntL = 0 ∧ base.me.cntS = 0 ∧ base.me.cntC = 0 ∧ base.me.cntT = 0 ∧
      allDone (base.setMe { base.start with run := .done, wait := none }) base.myTask.token = true ∧ base.placed ∧
      base.gangKeys base.myTask.token = [base.tkey base.cur] ∧ ∀ n ∈ base.myTask.phys, (base.strmOf (8 * base.myCore + n)).mq = []) ∧
    (two.runs {} 14 ∧ allDone (two.setMe { two.start with run := .done, wait := none }) two.myTask.token = false) ∧
    base.me.nx.owed = false ∧ bits base.me.pend.toNat 24 8 = 0 ∧ (∀ l ∈ base.me.land, l.reg < 24 ∨ 32 ≤ l.reg) ∧
    base.me.nx.taken ≤ (mget {} base.ctl.grps (8 * base.myTask.token + base.me.tnum / base.myTask.sper)).reqd := by decide +kernel

/-! ### Arrivals, accesses, engines at work -/

/-- An operation of stream 0 of core 0. -/
def op0 (e : Eng) (i : Instr) : Op :=
  { uid := 1, core := 0, strm := 0, slot := 0, tnum := 0, ctx := 0, eng := e, i := i, pc := 0, cyc := 50, fpc := 0, guard := true }

/-- A load comes back in cycle 120; b7's fetch is due in cycle 110. -/
def arriving : State := at0 task0 { strm0 with arr := [{ reg := 31, due := 120, val := 5, load := true }], pend := 0x80000000, cntL := 1, b := [(7, ⟨64, .due 110⟩)] }
/-- Stream 0 waits at a barrier whose phase has completed 3 cycles ago. -/
def waiting : State := { at0 task0 { strm0 with barW := some 1 } with obj := barred.obj }

theorem witness_ArrivalsAndReleases : (arriving.coreRuns 0 = true ∧ (arriving.strmOf 0).arr[0]? = some { reg := 31, due := 120, val := 5, load := true } ∧
      (mget {} (arriving.strmOf 0).b 7).st = .due 110) ∧
    (waiting.strmOf 0).barW = some 1 ∧ (waiting.strmOf 0).run = .run ∧ (waiting.taskAt 0).stat = .run ∧
      ((waiting.barOf 1).gen - BitVec.ofNat 16 (bits (waiting.barOf 1).t.toNat 0 16)).toInt = 0 ∧ (waiting.barOf 1).rel + 3 ≤ waiting.now := by decide +kernel

/-- A queued access to address 64, of 8 bytes. -/
def acc8 (k : AccKind) : Acc := { kind := k, place := .mem ⟨.dev 7, 64⟩, size := 8, val := 9, va := 64 }
/-- A load of the upper half of what a queued store writes. -/
def fwd : State := at0 task0 { strm0 with cntS := 1, cntL := 1, mq := [acc8 .st, { acc8 (.ld true) with place := .mem ⟨.dev 7, 68⟩, size := 4 }] }
/-- One queued access. -/
def one (a : Acc) : State := at0 task0 { strm0 with mq := [a] }
/-- An atomic on the last bytes of frame 5. -/
def frameAmo : Acc := { acc8 (.amo .maxn) with place := .frm 0 5 4088 }

theorem witness_AccessPerformed :
    ((fwd.strmOf 0).mq[1]? = some { acc8 (.ld true) with place := .mem ⟨.dev 7, 68⟩, size := 4 } ∧ (fwd.coreOf 0).frz = none ∧
      (∀ b ∈ (fwd.strmOf 0).mq.take 1, b.loads = false ∧ b.isMark = false) ∧ (fwd.strmOf 0).mq.take 1 = [] ++ acc8 .st :: [] ∧
      (acc8 .st).meets { acc8 (.ld true) with place := .mem ⟨.dev 7, 68⟩, size := 4 } = true ∧
      Acc.within { acc8 (.ld true) with place := .mem ⟨.dev 7, 68⟩, size := 4 } (acc8 .st) = true) ∧
    (∀ k ∈ [AccKind.ld false, .st, .amo .add, .cas], ((one (acc8 k)).strmOf 0).mq[0]? = some (acc8 k) ∧ (∀ b ∈ ((one (acc8 k)).strmOf 0).mq.take 0, b.isMark = true) ∧
      (∀ x ∈ ((one (acc8 k)).strmOf 0).arr, x.load = false) ∧ (one (acc8 k)).ckHold (memKey ⟨.dev 7, 64⟩) = false ∧
      (∀ e ∈ (one (acc8 k)).strm, e.1 ≠ 0 → ∀ b, e.2.mq.head? = some b → b.isAtom = true → b.meets (acc8 k) = false)) ∧
    ((one frameAmo).strmOf 0).mq[0]? = some frameAmo ∧ placeOk frameAmo.place frameAmo.size := by
  refine ⟨by decide +kernel, ?_, by decide +kernel, by simp only [placeOk, frameAmo, acc8]; decide +kernel⟩
  intro k _
  exact ⟨rfl, by simp, by simp [one, at0, State.strmOf, mget, strm0], rfl, by intro e he hne; simp [one, at0] at he; exact absurd (by rw [he]) hne⟩

/-- The heads of queues: a vector sum, a matrix product, a copy, a token append. -/
def vadd0 : Op := op0 .vec (.vand {} .s32 ⟨255, 1⟩ ⟨0, 0⟩ ⟨1, 63⟩)
def mma0 : Op := op0 .mat (.mma {} .bf16 ⟨0, 1⟩ ⟨0, 0⟩ ⟨1, 0⟩ ⟨0, 0, 0, false, false, 0, false⟩)
def cp0 : Op := { op0 .cpy (.cp {} .f ⟨255, 1⟩ 3 0 0 false) with img := [1 * 2^72 + 2^704], gv := [64, 0] }
def kv0 : Op := { op0 .near (.kvapp {} 3 0 ⟨0, 0⟩) with img := [kvRec - 0x20000], gv := [64, 0] }
/-- A state with these operations, whose context is bound. -/
def runs (l : List Op) : State :=
  { at0 { task0 with amap := 1 } { strm0 with cntT := 1, cntC := 1 } with ops := l, dev := { ctxs := [(0, { bind := 0 })] } }

theorem witness_EngineStarts : (∀ o ∈ [vadd0, mma0, cp0, kv0], onlyHead (runs [o]) 0 o.eng o ∧ mayStart (runs [o]) o) ∧
    (runs [vadd0]).tracked vadd0 = [0] ∧ (∃ r, vecVal vadd0.i vadd0.fpc vadd0.gv ((runs [vadd0]).strmOf vadd0.sk).lanes ((runs [vadd0]).images vadd0) = .ok r) ∧
    (∃ f, laneRow vadd0.i = some (32, f)) ∧ mmaOpt mma0.i = some (.bf16, ⟨0, 0, 0, false, false, 0, false⟩) := by
  refine ⟨?_, by decide +kernel, okE_ex (by decide +kernel), ⟨_, rfl⟩, rfl⟩
  intro o ho
  simp only [List.mem_cons, List.not_mem_nil, or_false] at ho
  rcases ho with rfl | rfl | rfl | rfl <;> simp only [onlyHead, mayStart] <;>
    refine ⟨by decide +kernel, by decide +kernel, by decide +kernel, by decide +kernel, fun _ => by decide +kernel, by decide +kernel,
      by decide +kernel, ?_, by decide +kernel, by decide +kernel, fun _ => by decide +kernel⟩ <;>
    · intro h x hx; cases hx

/-- A started vector operation that has its sources' reads in flight; the same with them retired; a matrix product with its last step made. -/
def started : Op := { vadd0 with ph := .run, at0 := 90, due := 104, rdue := 98, rds := [0], res := [[(0, 4, 77)]] }
def lastStep : Op := { mma0 with ph := .tail, at0 := 90, due := 104, res := [[(0, 4, 77)]] }

theorem witness_OperationCommits : ((runs [started]).opOf 1 = some started ∧ (runs [started]).coreRuns 0 = true ∧ started.nowDrain = false ∧ started.rds ≠ []) ∧
    (∀ o ∈ [{ started with rds := [], step := 1 }, lastStep], (runs [o]).opOf 1 = some o ∧ (((runs [o]).opDsts o).map (·.1)).Nodup ∧ ((runs [o]).upTo ((runs [o]).writeAt (max (runs [o]).now o.due) (((runs [o]).opDsts o).map (·.1)))).rivals o.core 1 (((runs [o]).opDsts o).map (·.1)) = [] ∧
      (∀ x ∈ (runs [o]).opDsts o, ((runs [o]).cntOf x.1).h = false ∧ ((runs [o]).cntOf x.1).l = 0 ∧ ((runs [o]).cntOf x.1).rif = o.rds.count x.1)) ∧
    vecFirst (runs [started]) started = true ∧ (runs [started]).vecGoes started = true ∧ (runs [lastStep]).matRun 0 = some lastStep ∧ drainReads (runs [lastStep]) lastStep = false := by decide +kernel

/-- A product of two K-steps before its first; a copy of 1,024 f32 elements before its first step, into an open fill and out of a frame. -/
def kstep : Op := { mma0 with ph := .run, at0 := 90, due := 91, i := .mma {} .bf16 ⟨0, 1⟩ ⟨0, 0⟩ ⟨1, 0⟩ ⟨0, 0, 1, false, false, 0, false⟩ }
def copyIn : Op := { cp0 with ph := .run, at0 := 90, due := 91, img := [1 * 2^72 + 2^704 * 256] }
def copyOut : Op := { copyIn with i := .cpst {} .f 3 0 ⟨255, 0⟩ 0 }
/-- A record of rank 1 at address 0: `n` elements of a type, of which the first `d` lie in the tensor, at a stride; scales at 64. -/
def recOf (ty n d st : Nat) : Nat := ty * 2^64 + 2^72 + d * 2^128 + st * 2^320 + n * 2^704 + 64 * 2^896
/-- A copy of 8 f32 elements, whole or as a part; a store copy of them; one of 32 MX elements of e4m3, with their scale. -/
def smallIn (part : Bool) : Op := { copyIn with i := .cp {} .f ⟨255, 1⟩ 3 0 0 part, img := [recOf 0 8 2 4] }
def smallOut : Op := { copyOut with img := [recOf 0 8 2 4] }
def scaledOut : Op := { copyOut with img := [recOf 3 32 4 1 + 2^68] }
/-- A CPQ before its read, and one that has read its 32 bytes. -/
def cpq0 : Op := { copyIn with i := .cpq {} 3 0 0, img := [recOf 0 8 2 4, 0, 0, 0] }
def cpq1 : Op := { cpq0 with pos := 8, img := [recOf 0 8 2 4, 5 * 2^192, 0, 0] }
def filling : State := { runs [copyIn] with obj := { fills := [(1023, { opn := true })] } }

theorem witness_EngineSteps : (∀ d ∈ [0, 91], (runs [{ kstep with due := d }]).matRun 0 = some { kstep with due := d }) ∧ (kstep.ph = .run ∧ mmaOpt kstep.i = some (.bf16, ⟨0, 0, 1, false, false, 0, false⟩) ∧
      kstep.dsts.head? = some (.a, 0, 1)) ∧
    (filling.opOf 1 = some copyIn ∧ filling.opLive copyIn = true ∧ copyIn.guard = true ∧ copyIn.pos < recEls copyIn.rcd ∧ copyIn.pos + stepLen copyIn copyIn.pos < copyEnd copyIn ∧ (filling.opDsts copyIn).head? = some (1023, 1) ∧
      (filling.fillOf 1023).opn = true ∧ (filling.fillOf 1023).gen = copyIn.fill ∧
      ∃ v, readStep copyIn 1023 (filling.upTo copyIn.due) = .ok v) ∧
    (runs [copyOut]).opOf 1 = some copyOut ∧ copyOut.pos + stepLen copyOut copyOut.pos < copyEnd copyOut ∧ (runs [copyOut]).opDsts copyOut = [] ∧
      ∃ v, writeStep copyOut ((runs [copyOut]).upTo copyOut.due) = .ok v :=
  by and_intros <;> first | decide +kernel | exact okE_ex (by decide +kernel)

/-- The places of a step's parts in memory are apart. -/
def apart (s : State) (o : Op) : Bool :=
  decide ((stepPlaces o .w s o.parts).Pairwise fun x y => x.1 + x.2.2.2.2.1 ≤ y.1 ∨ y.1 + y.2.2.2.2.1 ≤ x.1)

theorem witness_EngineSteps_last : (∀ p : Bool, plainBox (smallIn p) ∧ (filling.opDsts (smallIn p)).head? = some (1023, 1) ∧
      copyEnd (smallIn p) ≤ stepLen (smallIn p) 0 ∧ (smallIn p).closes = !p ∧ (smallIn p).samp = none ∧
      (stepPlaces (smallIn p) .r (filling.upTo 91) (smallIn p).parts).map (fun x => x.2.2.1.what) = [.el 0 [0], .el 1 [1]] ∧
      ∃ v, readStep (smallIn p) 1023 (filling.upTo 91) = .ok v) ∧
    (plainBox smallOut ∧ copyEnd smallOut ≤ stepLen smallOut 0 ∧ apart ((runs [smallOut]).upTo 91) smallOut = true ∧
      (stepPlaces smallOut .w ((runs [smallOut]).upTo 91) smallOut.parts).length = 2 ∧
      ∃ v, writeStep smallOut ((runs [smallOut]).upTo 91) = .ok v) ∧
    apart ((runs [scaledOut]).upTo 91) scaledOut = true ∧
      (stepPlaces scaledOut .w ((runs [scaledOut]).upTo 91) scaledOut.parts).any (fun x => x.2.2.1.what == .scale 0) = true ∧
      ∃ v, writeStep scaledOut ((runs [scaledOut]).upTo 91) = .ok v := by
  refine ⟨fun p => ?_, ?_⟩
  · cases p <;> simp only [plainBox] <;> and_intros <;> first | decide +kernel | exact okE_ex (by decide +kernel)
  · simp only [plainBox]
    and_intros <;> first | decide +kernel | exact okE_ex (by decide +kernel)

theorem witness_EngineSteps_queue : (∀ p ∈ (runs [cpq0]).ops, p.sk = cpq0.sk → p.uid < cpq0.uid → False) ∧
    (cpq0.pos < recEls cpq0.rcd ∧ cpqAvail cpq0 ≤ cpq0.img.getD 3 0 ∧ plainBox cpq0 ∧ (stepPlaces cpq0 .r ((runs [cpq0]).upTo 91) cpq0.parts).length = 2 ∧
      ∃ v, cpqRead cpq0 ((runs [cpq0]).upTo 91) = .ok v) ∧
    cpq1.img.getD 3 0 < cpqAvail cpq1 ∧ cpqAvail cpq1 = 4 ∧ copyEnd cpq1 ≤ cpq1.pos ∧ (mget [] ((runs [cpq1]).strmOf cpq1.sk).q 3).length < 64 := by
  simp only [plainBox]
  and_intros <;> first | decide +kernel | exact okE_ex (by decide +kernel)

/-- A copy that has written all it copies, into the closed fill of frame 255. -/
def copied : Op := { copyIn with ph := .tail }
def closing : State := { runs [copied] with obj := { fills := [(1023, { opn := true, closed := true })] } }

/-- The same of a copy into slot 3. -/
def slotCopy : Op := { copied with i := .cp {} .o ⟨3, 1⟩ 3 0 0 false }
def slotDone : State := { runs [slotCopy] with obj := { fills := [(259, { opn := true, closed := true })] } }
/-- A VSTO that has committed. -/
def vsto0 : Op := { op0 .vec (.vsto {} ⟨3, 1⟩ 0 ⟨0, 63⟩) with ph := .tail, at0 := 90, due := 94, res := [[(0, 512, 77)]] }
/-- The hypotheses about an object and the one that waits to publish it. -/
def publishOk (s : State) (k : Nat) (o : Op) : Bool :=
  publishers s k == [o] && o.guard && o.dsts.map (·.2.2) == [1] && s.opLive o && !matReads s k &&
    !(s.cntOf k).h && (s.cntOf k).l == 0 && (s.cntOf k).rif == 0 && (s.upTo (s.writeAt s.now [k])).rivals 0 o.uid [k] == []

theorem witness_ShadowPublishes : (publishOk closing (okey 0 .f 255) copied = true ∧ copied.eng = .cpy ∧ copied.fills = true) ∧
    (publishOk slotDone (okey 0 .o 3) slotCopy = true ∧ slotCopy.eng = .cpy ∧ slotCopy.fills = true) ∧
    (publishOk (runs [vsto0]) (okey 0 .o 3) vsto0 = true ∧ vsto0.eng = .vec ∧ vsto0.isVsto = true) ∧
    ∀ x ∈ [(closing, copied, 1023), (runs [vsto0], vsto0, 259)], ∀ p ∈ x.1.ops, p.uid ≠ x.2.1.uid → False := by decide +kernel

/-! ### Waits, the near-memory port, triggers -/

/-- Stream 0 has waited since cycle 10; the limit is 4,194,304 cycles. -/
def stalled : State := { at0 { task0 with evb := 4096 } { strm0 with wait := some { since := 10 } } with stall := [0] }
/-- A queue head waits for the first version of t0. -/
def headWaits : Op := { op0 .vec (.vand {} .s32 ⟨255, 1⟩ ⟨0, 1⟩ ⟨1, 63⟩) with wait := some 10 }

/-- The cycle in which the limit is passed. -/
def late : Nat := max stalled.now (10 + (stalled.taskAt 0).wlim + 1)
/-- The frame page can be reached then. -/
def frameThen : Bool :=
  match translate stalled 0 (stalled.taskAt 0).ctx ((stalled.taskAt 0).evb.toNat + 4096) .w with
  | .ok l _ _ => reachable (stalled.upTo late) (stalled.taskAt 0).ctx l
  | _ => false

theorem frameThen_ex : ∃ l e u, translate stalled 0 (stalled.taskAt 0).ctx ((stalled.taskAt 0).evb.toNat + 4096) .w = .ok l e u ∧
    reachable (stalled.upTo late) (stalled.taskAt 0).ctx l = true := by
  have h : frameThen = true := by decide +kernel
  unfold frameThen at h
  cases ht : translate stalled 0 (stalled.taskAt 0).ctx ((stalled.taskAt 0).evb.toNat + 4096) .w with
  | ok l e u => exact ⟨l, e, u, rfl, by simpa only [ht] using h⟩
  | walkFault c => simp [ht] at h
  | attr => simp [ht] at h

theorem witness_WaitLimit : (((stalled.strmOf 0).wait = some { since := 10 } ∧ 0 ∈ stalled.stall ∧ (stalled.strmOf 0).run = .run ∧ (stalled.strmOf 0).mode = .task ∧
      stalled.coreRuns 0 = true ∧ (stalled.strmOf 0).slot < 4 ∧ (stalled.taskAt 0).stat = .run ∧ (stalled.taskAt 0).fault = none ∧ (stalled.taskAt 0).evb ≠ 0 ∧
      0 ∈ (stalled.taskAt 0).phys ∧ (stalled.taskAt 0).phys.Nodup ∧ (∀ m ∈ (stalled.taskAt 0).phys, m < 8) ∧ (stalled.ctxOf (stalled.taskAt 0).ctx).ttrig = 0 ∧
      stalled.ops = [] ∧ bitN (stalled.taskAt 0).out.toNat 0 = false ∧ sampleK (stalled.ctxOf (stalled.taskAt 0).ctx) = none ∧
      ({ stalled.upTo late with cur := 0 } : State).mayStill (stalled.tkey 0) 0 = false) ∧
      ∃ l e u, translate stalled 0 (stalled.taskAt 0).ctx ((stalled.taskAt 0).evb.toNat + 4096) .w = .ok l e u ∧
        reachable (stalled.upTo late) (stalled.taskAt 0).ctx l = true) ∧
    (runs [headWaits]).opOf 1 = some headWaits ∧ headWaits.wait = some 10 ∧ (runs [headWaits]).opLive headWaits = true ∧ headWaits.ph = .queued ∧
      (runs [headWaits]).headOf headWaits.sk headWaits.eng = some headWaits ∧ judge (runs [headWaits]) headWaits = .waits (some (0, 0)) ∧
      ((runs [headWaits]).taskOf headWaits.tk).fault = none ∧ ((runs [headWaits]).ctxOf ((runs [headWaits]).taskOf headWaits.tk).ctx).ttrig = 0 ∧ headWaits.samp = none :=
  ⟨⟨by decide +kernel, frameThen_ex⟩, by decide +kernel⟩

/-- A QPOST over one token, of partition 0, into frames 240 to 255. -/
def post : Op := { op0 .near (.qpost {} ⟨240, 1⟩ ⟨0, 0⟩ 3 4 1 0x3F800000) with ph := .run, img := [kvRec - 0x20000], gv := [64, 1] }
/-- The same once stack 7 has answered, and once all have landed. -/
def posted : Op := { post with res := List.replicate 8 [(0, 4096, 5), (1, 4096, 6)] }
def landed : Op := { posted with step := 255 }
/-- An operation of a running task whose context is mapped. -/
def nearRun (o : Op) : State := { runs [o] with mem := (mapped 0 []).mem, dev := (mapped 0 []).dev }
/-- A token's record of 256 bytes. -/
def token : Op := { kv0 with ph := .run, gv := [64, 7] }

theorem witness_AttentionAnswersAndTokens : (∀ o ∈ [post, posted, landed], (nearRun o).opOf 1 = some o ∧ (nearRun o).nearLive o = true ∧ (nearRun o).opDsts o = [(1008, 1)] ∧
      o.ph = .run ∧ (nearRun o).landsOk o = true) ∧ 1008 / 256 % 4 = 3 ∧ 1008 % 256 + 16 ≤ 256 ∧
    (0 < ((nearRun post).stacksOf ((nearRun post).ownerC post.ctx)).length ∧ post.res.getD 0 [] = [] ∧
      kvRows post.rcd (Claim.nat post.gv 1) ((nearRun post).stacksOf ((nearRun post).ownerC post.ctx)).length 0 ≠ [] ∧
      ∀ r ∈ kvRows post.rcd (Claim.nat post.gv 1) ((nearRun post).stacksOf ((nearRun post).ownerC post.ctx)).length 0, kvRead (nearRun post) post.ctx post.rcd r.row ≠ none ∧ (nearRun post).touch post.ctx (kvBase post.rcd + 2048 * r.row) false = nearRun post) ∧
    (bitN posted.step 7 = false ∧ posted.res.getD 7 [] = [(0, 4096, 5), (1, 4096, 6)]) ∧ landed.step = 255 ∧
    (∀ o ∈ [post, landed], ((nearRun o).cntOf 1008).h = false ∧ ((nearRun o).cntOf 1008).l = 0 ∧ ((nearRun o).cntOf 1008).rif = 0 ∧
      ((nearRun o).upTo ((nearRun o).writeAt (nearRun o).now [1008])).rivals 0 1 [1008] = []) ∧
    (runs [token]).opOf 1 = some token ∧ (runs [token]).nearLive token = true ∧ token.samp = none ∧
      ∃ l v, canWrite (runs [token]) token (kvBase token.rcd + 2048 * (Claim.nat token.gv 1 / kvTpr token.rcd) +
        Claim.nat token.gv 1 % kvTpr token.rcd * (2 * kvD token.rcd * kvEsize token.rcd)) (2 * kvD token.rcd * kvEsize token.rcd) l v :=
  by and_intros <;> first | decide +kernel | exact writeOk_ex (by decide +kernel)

/-- A collective's block: an f32 sum of one element by a tree, received at 0x8000. -/
def block : Nat := 2^24 * 2 + 2^64 + 0x8000 * 2^192
/-- Its operation at rank 0 of two, which has its own contribution; the same once the other's has come in, and at rank 1 before
the value comes back; and one under a false guard. -/
def coll0 : Op := { op0 .near (.coll {} ⟨255, 1⟩ 4) with ph := .run, img := [block, 2, 0, 2, 0, 1], res := [[(0, 4, 0x3F800000)]], got := [0], at0 := 90 }
def collAll : Op := { coll0 with got := [1] }
def collLeaf : Op := { coll0 with img := [block, 2, 1, 2, 0, 1] }
def coll1 : Op := { coll0 with guard := false }
/-- Its frame may be written in a cycle. -/
def collFree (s : State) (o : Op) (n : Nat) : Bool :=
  s.landsOk o && !(s.cntOf 1023).h && (s.cntOf 1023).l == 0 && (s.cntOf 1023).rif == 0 &&
    (s.upTo (s.writeAt n [1023])).rivals o.core 1 [1023] == []

theorem coll_ready : ∀ o ∈ [coll0, collAll, collLeaf, coll1], (runs [o]).opOf 1 = some o ∧ (runs [o]).nearLive o = true ∧ (runs [o]).opDsts o = [(1023, 1)] ∧
    o.core < 160 ∧ o.ph = .run ∧ o.samp = none ∧ collFree (runs [o]) o (runs [o]).now = true ∧ healthyPorts (runs [o]) ≠ [] ∧ o.coll.els = 1 := by decide +kernel

/-- The states in which one completes, and in which one times out. -/
def collEnds : State := (runs [collAll]).upTo ((runs [collAll]).writeAt (runs [collAll]).now [1023])
def collLate : State := (runs [coll0]).upTo ((runs [coll0]).writeAt (max (runs [coll0]).now (coll0.at0 + 270000000)) [1023])

theorem coll_write : (∃ l v, canWrite collEnds collAll (collRecv collAll.coll.b) (collBytes collAll.coll.b collAll.coll.outs.length) l v) ∧
    ∃ l v, canWrite collLate coll0 (collRecv coll0.coll.b) (collBytes coll0.coll.b coll0.coll.outs.length) l v :=
  ⟨writeOk_ex (by decide +kernel), writeOk_ex (by decide +kernel)⟩

theorem witness_CollectiveSteps : 1023 / 256 % 4 = 3 ∧ 1023 % 256 + 1 ≤ 256 ∧ coll1.guard = false ∧ coll0.guard = true ∧ collAll.guard = true ∧
    ([0] : List (BitVec 32)).length = collWords block ∧ collTy block = .f32 ∧
    (coll0.coll.from' 0)[coll0.got.getD 0 0]? = some 1 ∧ collLeaf.coll.fin 0 = true ∧ collLeaf.got.getD 0 0 = (collLeaf.coll.from' 0).length ∧
    collAll.got.getD 0 0 = (collAll.coll.from' 0).length + (collAll.coll.fin 0).toNat ∧
    collFree (runs [coll0]) coll0 (max (runs [coll0]).now (coll0.at0 + 270000000)) = true := by decide +kernel

/-- Stack 7: entry 255 is armed for one more packet, entry 254 for two, entry 253 not; one command waits. -/
def armed : Stack := { trig := [(254, { cd := 2, armed := true }), (255, { cd := 1, armed := true })], queue := [⟨0x0101, 0⟩] }
/-- Commands at work: an addition to the word at 0x8000, and a copy of 16 bytes from 0x8000 to 0x9000. -/
def addCmd : BitVec 512 := BitVec.ofNat 512 (0x0104 + 2^64 * 0x8000 + 2^128 * 5)
def copyCmd : BitVec 512 := BitVec.ofNat 512 (0x0101 + 2^64 * 0x8000 + 2^128 * 0x9000 + 2^192 * 16)
def withStack (x : Stack) : State := { mapped 0 [(0x8000, 8, 3)] with dev := { (mapped 0 []).dev with stks := [(7, x)] } }
/-- A packet to device 1. -/
def sendCmd : BitVec 512 := BitVec.ofNat 512 (0x0103 + 2^64)

theorem leastBy_some {α : Type} (lt : α → α → Bool) : ∀ l : List α, l ≠ [] → ∃ x, leastBy lt l = some x
  | [], h => absurd rfl h
  | x :: xs, _ => by
    unfold leastBy
    cases leastBy lt xs with
    | none => exact ⟨x, rfl⟩
    | some y => by_cases h : lt y x = true <;> simp [h]

/-- A device all of whose ports are up and have nothing to send has room for a flit, whichever port it takes. -/
theorem room_of {s : State} (hp : s.dev.ports = []) (c n d : Nat) : portRoom s (pathPort s c n d) = true := by
  have hf : ∀ p, s.portOf p = {} := fun p => by unfold State.portOf; rw [hp]; rfl
  have hh : healthyPorts s ≠ [] := by unfold healthyPorts; simp only [hf]; decide
  obtain ⟨p, h⟩ := leastBy_some (fun a b => decide (Config.portHash c n d a < Config.portHash c n d b)) _ hh
  have hq : pathPort s c n d = some p := h
  rw [hq]
  show decide ((s.portOf p).sent.length < 256) = true
  rw [hf]; rfl

theorem witness_TriggersFire : ((mget {} ((withStack armed).stackOf 7).trig 255).armed = true ∧ (mget {} ((withStack armed).stackOf 7).trig 255).cd ≤ 1 ∧
      1 < (mget {} ((withStack armed).stackOf 7).trig 254).cd ∧ (mget {} ((withStack armed).stackOf 7).trig 253).armed = false) ∧
    ((withStack armed).stackOf 7).now = none ∧ ((withStack armed).stackOf 7).queue = ⟨0x0101, 0⟩ :: [] ∧
    (∀ c ∈ [addCmd, copyCmd, sendCmd], ((withStack { now := some ⟨c, 0⟩ }).stackOf 7).now = some ⟨c, 0⟩ ∧ (withStack { now := some ⟨c, 0⟩ }).ops = []) ∧
    portRoom (withStack { now := some ⟨sendCmd, 0⟩ }) (pathPort (withStack { now := some ⟨sendCmd, 0⟩ }) 167 0 1) = true ∧
    (bits addCmd.toNat 0 8 = 4 ∧ bits addCmd.toNat 64 64 = 0x8000 ∧ bits copyCmd.toNat 0 8 = 1 ∧ bits copyCmd.toNat 64 64 = 0x8000 ∧ bits copyCmd.toNat 128 64 = 0x9000 ∧
      bits copyCmd.toNat 192 64 = 16 ∧ bits sendCmd.toNat 0 8 = 3 ∧ bits sendCmd.toNat 64 10 = 1) ∧
    (∃ l, canUse (withStack { now := some ⟨addCmd, 0⟩ }) 0 0x8000 8 false l) ∧ (∃ l, canUse (withStack { now := some ⟨addCmd, 0⟩ }) 0 0x8000 8 true l) ∧
    (∃ l, canUse (withStack { now := some ⟨copyCmd, 0⟩ }) 0 0x8000 16 false l) ∧ ∃ l, canUse (withStack { now := some ⟨copyCmd, 0⟩ }) 0 0x9000 16 true l :=
  ⟨by decide +kernel, by decide +kernel, by decide +kernel, fun _ _ => ⟨rfl, rfl⟩, room_of rfl _ _ _, by decide +kernel, useOk_ex (by decide +kernel),
    useOk_ex (by decide +kernel), useOk_ex (by decide +kernel), useOk_ex (by decide +kernel)⟩

/-! ### Save areas: a context's area in one leaf, at 0x10000 -/

/-- Memory still holds the tables. -/
def keepsTables (s : State) : Prop :=
  (s.ownerC 0 = 1 ∧ 0x10000 ≤ s.partSize 1 ∧ s.ctxOf 0 = { s.ctxOf 0 with root := 0x2001 }) ∧ readN s.mem (1 * 2^64 + 0x2000) 8 = 0x4001 ∧ readN s.mem (1 * 2^64 + 0x4000) 8 = 0x6001 ∧ readN s.mem (1 * 2^64 + 0x6000) 8 = 0x1DF

theorem walk_tables {s : State} (h : keepsTables s) {va : Nat} (hv : va < 2^26) : walk s 0 va = .ok (0x1DF, 1, 1 * 2^64 + 0x6000) := by
  obtain ⟨⟨ho, hp, hr⟩, h1, h2, h3⟩ := h
  have hr : (s.ctxOf 0).root.toNat = 0x2001 := by rw [hr]; rfl
  have b3 : bits va 46 10 = 0 := by unfold bits; omega
  have b2 : bits va 36 10 = 0 := by unfold bits; omega
  have b1 : bits va 26 10 = 0 := by unfold bits; omega
  have hz : va / 2^56 = 0 := Nat.div_eq_of_lt (by omega)
  have k3 : memKey ⟨.dev 1, 0x2000 + 8 * bits va (lvlBits 3) 10⟩ = 1 * 2^64 + 0x2000 := by rw [show lvlBits 3 = 46 from rfl, b3]; rfl
  have k2 : memKey ⟨.dev 1, 0x4000 + 8 * bits va (lvlBits 2) 10⟩ = 1 * 2^64 + 0x4000 := by rw [show lvlBits 2 = 36 from rfl, b2]; rfl
  have k1 : memKey ⟨.dev 1, 0x6000 + 8 * bits va (lvlBits 1) 10⟩ = 1 * 2^64 + 0x6000 := by rw [show lvlBits 1 = 26 from rfl, b1]; rfl
  have w1 : walkGo s 1 va 2 0x6000 = .ok (0x1DF, 1, 1 * 2^64 + 0x6000) := by
    unfold walkGo; simp only [k1, h3]; rw [if_neg (by omega)]; simp only [show ptePA 0x1DF = 0 from rfl]; rw [show decide (s.partSize 1 ≤ 0) = false from decide_eq_false (by omega)]; rfl
  have w2 : walkGo s 1 va 3 0x4000 = .ok (0x1DF, 1, 1 * 2^64 + 0x6000) := by
    unfold walkGo; simp only [k2, h2]; rw [if_neg (by omega)]; exact w1
  have w3 : walkGo s 1 va 4 0x2000 = .ok (0x1DF, 1, 1 * 2^64 + 0x6000) := by
    unfold walkGo; simp only [k3, h1]; rw [if_neg (by omega)]; exact w2
  unfold walk
  rw [hr, ho, hz]
  exact w3

theorem peek_tables {s : State} (h : keepsTables s) {va : Nat} (hv : va < 2^26) : peek s 0 va = .ok (⟨.dev 1, va⟩, 0x1DF) := by
  have ho := h.1.1
  unfold peek
  rw [walk_tables h hv, ho]
  simp only [show lvlBits 1 = 26 from rfl, Nat.mod_eq_of_lt hv]
  rw [show ptePA 0x1DF = 0 from rfl, Nat.zero_add]; rfl

theorem vread_tables {s : State} (h : keepsTables s) (hp : s.mpois = []) {f va n : Nat} (hn : n ≠ 0) (h1 : 0x10000 ≤ va) (h2 : va + n ≤ 0x20000) :
    vread s 0 false (f + 2) va n = .ok (readN s.mem (1 * 2^64 + va) n) := by
  have hr : runLen va n = n := by unfold runLen; simp only; split <;> omega
  have hm : memKey ⟨.dev 1, va⟩ = 1 * 2^64 + va := by show 1 * 2^64 + va % 2^64 = _; rw [Nat.mod_eq_of_lt (by omega)]
  have hq : ∀ k m, s.poisoned k m = false := fun k m => by unfold State.poisoned; rw [hp]; rfl
  rw [vread, if_neg hn, peek_tables h (by omega)]
  simp only [hr, hm, Nat.sub_self, hq, reachable]
  rw [if_neg (by decide), vread, if_pos rfl]
  simp

/-- Part of a long word. -/
theorem readN_mod (m : List Host.Cell) (k n a : Nat) (h : a ≤ n) : readN m k n % 2^(8 * a) = readN m k a := by
  induction a generalizing k n with
  | zero => simp [readN, Nat.mod_one]
  | succ a ih =>
    obtain ⟨n, rfl⟩ : ∃ i, n = i + 1 := ⟨n - 1, by omega⟩
    rw [readN, readN, ← ih (k + 1) n (by omega)]
    have hb := (readB m k).isLt
    rw [show 8 * (a + 1) = 8 + 8 * a by omega, Nat.pow_add, Nat.mod_mul, Nat.add_mul_mod_self_left, Nat.mod_eq_of_lt hb, Nat.add_mul_div_left _ _ (by decide),
      Nat.div_eq_of_lt hb, Nat.zero_add]

theorem bits_readN (m : List Host.Cell) (k n : Nat) {a lo w : Nat} (h : a ≤ n) (hw : lo + w ≤ 8 * a) : bits (readN m k n) lo w = bits (readN m k a) lo w := by
  rw [← readN_mod m k n a h]
  unfold bits
  rw [show 8 * a = lo + (8 * a - lo) by omega, Nat.pow_add, Nat.mod_mul_right_div_self, Nat.mod_mod_of_dvd]
  exact Nat.pow_dvd_pow 2 (by omega)

/-- Windows of eight trackers and nothing else, at two places. -/
def smallWin : BitVec 64 := mkWin 0 8 0 0 0 0 0 0 0
def roomWin : BitVec 64 := mkWin 8 8 0 0 0 0 0 0 0
/-- A handler in slot 0 of core 0 whose g1 names the area 0x10000 and slot 1, and a task of one stream in slot 1. -/
def saver (m : State) (t1 : Task) : State :=
  { m with strm := [(0, { run := .run, mode := .handler, g := [(1, 0x10001)] }), (1, { run := .run, slot := 1, g := [(1, 7)] })]
           task := [(0, { task0 with stat := .handler, win := smallWin }), (1, t1)] }
def saveds : State := saver (mapped 1 []) { task0 with token := 2, phys := [1], gslots := [1], win := roomWin }

theorem saveds_lies : areaLies saveds 0 0x10000 49152 (1 * 2^64 + 0x10000) := by
  intro p hp
  rw [show pagesOf 0x10000 49152 = [1] from by decide +kernel, List.mem_singleton] at hp
  subst hp
  have h : keepsTables saveds := by simp only [keepsTables]; decide +kernel
  exact ⟨_, _, peek_tables h (by decide), by decide +kernel, by decide +kernel, by decide +kernel⟩

theorem witness_ContextSaved : (saveds.runs {} 0 ∧ saveds.me.mode ≠ .task ∧ canRead saveds saveds.me { srcs := [1] } = true ∧
    let v := ((readGs saveds saveds.me [1]).1.getD 0 0).toNat
    let tk := 4 * saveds.myCore + v % 4
    let t0 := saveds.taskOf tk
    bits v 2 10 = 0 ∧ v % 4 ≠ saveds.me.slot ∧ t0.stat ∉ [.empty, .saved, .ended] ∧ t0.ctx = saveds.myCtx ∧
    v / 4096 * 4096 = 0x10000 ∧ (areaOf t0.win t0.phys.length).size = 49152 ∧
    areaOk saveds t0.ctx (v / 4096 * 4096) (areaOf t0.win t0.phys.length).size true = true ∧
    t0.out = 0 ∧ saveds.gangKeys t0.token = [tk] ∧ saveds.taskOps tk = [] ∧ t0.phys.Nodup ∧ saveds.cur % 8 ∉ t0.phys ∧ (∀ n ∈ t0.phys, n < 8) ∧
    t0.phys = [1] ∧ let b := saveds.strmOf 1
      b.tnum = 0 ∧ b.mq = [] ∧ b.arr = [] ∧ b.land = []) ∧
    areaLies saveds (saveds.taskOf 1).ctx 0x10000 49152 (1 * 2^64 + 0x10000) := ⟨by decide +kernel, saveds_lies⟩

/-- The area holds a whole save of version 1, of one stream of context 0; slot 1 keeps its windows, or is empty. -/
def loads0 : State := mapped 1 [(0x10000, 8, 0x0002000145564153), (0x10008, 8, smallWin.toNat)]
def loads (t : Task) : State := saver loads0 t
def keptRoom : Task := { stat := .saved, phys := [1], gslots := [1], win := roomWin }

theorem loads_read (t : Task) : keepsTables (loads t) :=
  have h : keepsTables loads0 := by simp only [keepsTables]; decide +kernel
  ⟨h.1, h.2⟩

/-- The memory that holds it, and its header. -/
def loadsMem : List Host.Cell := loads0.mem
def loadsHdr : Nat := readN loadsMem (1 * 2^64 + 0x10000) 16384

theorem loads_fld {o n : Nat} (h : o + n ≤ 64) : fld loadsHdr o n = fld (readN loadsMem (1 * 2^64 + 0x10000) 64) o n :=
  bits_readN _ _ _ (by decide) (by omega)

theorem loads_win : ofN (fld loadsHdr 8 8) = smallWin := by rw [loads_fld (by decide)]; decide +kernel

/-- A range of the area can be read. -/
theorem loads_range (r : Task) {o n : Nat} (hn : n ≠ 0) (h2 : o + n ≤ 0x10000) (m : Nat → Bool) :
    vread { loads r with mpois := (loads r).mpois.filter m } 0 false (n / 65536 + 2) (0x10000 + o) n =
      .ok (readN loadsMem (1 * 2^64 + (0x10000 + o)) n) :=
  vread_tables (s := { loads r with mpois := (loads r).mpois.filter m }) (loads_read r) rfl hn (by omega) (by omega)

/-- So can some of them. -/
theorem loads_area (r : Task) {x : Task} (hx : x.ctx = 0) (m : List (Nat × Nat)) {l : List (Nat × Nat)}
    (h : ∀ a ∈ l, a.2 ≠ 0 ∧ a.1 + a.2 ≤ 0x10000) : ∃ b, readArea (loads r) x 0x10000 l m = .ok b := by
  have go : ∀ (p : Nat → Bool) (l : List (Nat × Nat)), (∀ a ∈ l, a.2 ≠ 0 ∧ a.1 + a.2 ≤ 0x10000) → ∀ v : Nat, ∃ b,
      l.foldlM (fun v r' => (vread { loads r with mpois := (loads r).mpois.filter p } 0 false (r'.2 / 65536 + 2) (0x10000 + r'.1) r'.2).map
        fun b => v + b * 2^(8 * r'.1)) v = (.ok b : Except Nat Nat) := by
    intro p l
    induction l with
    | nil => exact fun _ v => ⟨v, rfl⟩
    | cons a l ih =>
      intro h v
      rw [List.foldlM_cons, loads_range r (h a (.head _)).1 (h a (.head _)).2]
      exact ih (fun b hb => h b (.tail _ hb)) _
  unfold readArea
  rw [hx]
  exact go _ l h 0

theorem loads_head (r : Task) {x : Task} (hx : x.ctx = 0) : readArea (loads r) x 0x10000 [(0, 16384)] [] = .ok loadsHdr := by
  unfold readArea
  rw [hx, List.foldlM_cons, loads_range r (by decide) (by decide)]
  show (Except.ok _ : Except Nat Nat) = _
  simp [loadsHdr]

theorem witness_ContextLoaded : ∀ r ∈ [keptRoom, {}], ∃ p b,
    ((loads r).runs {} 0 ∧ (loads r).me.mode ≠ .task ∧ canRead (loads r) (loads r).me { srcs := [1] } = true ∧
      ((readGs (loads r) (loads r).me [1]).1.getD 0 0).toNat = 0x10001 ∧ (loads r).myCore = 0 ∧ (loads r).taskOf 1 = r ∧
      (r.stat = .empty ∨ r.stat = .saved ∧ r.ctx = 0) ∧ (loads r).me.slot = 0 ∧ (loads r).myCtx = 0 ∧ bits 0x10001 2 10 = 0 ∧
      0x10001 / 4096 * 4096 = 0x10000 ∧ (loads r).ctl.saves = []) ∧
    readArea (loads r) (loads r).myTask 0x10000 [(0, 16384)] [] = .ok loadsHdr ∧ fld loadsHdr 0 4 = 0x45564153 ∧ fld loadsHdr 4 2 = 1 ∧
    fld loadsHdr 6 1 = 2 ∧ fld loadsHdr 20 1 = (loads r).myCtx ∧
    loadPlot (loads r) 0 1 (ofN (fld loadsHdr 8 8)) (bits (fld loadsHdr 16 4) 9 3 + 1) = some p ∧
    (areaOf (ofN (fld loadsHdr 8 8)) (bits (fld loadsHdr 16 4) 9 3 + 1)).size = 49152 ∧ areaOk (loads r) 0 0x10000 49152 false = true ∧
    readArea (loads r) { (loads r).myTask with win := ofN (fld loadsHdr 8 8), phys := p.phys } 0x10000
      (areaRanges (ofN (fld loadsHdr 8 8)) (bits (fld loadsHdr 16 4) 9 3 + 1) allParts) (savedFor (loads r) loadsHdr).pois = .ok b ∧
    (loads r).cur % 8 ∉ p.phys ∧ p.phys.Nodup := by
  have hn : fld loadsHdr 16 4 = 0 := by rw [loads_fld (by decide)]; decide +kernel
  have fits : ∀ a ∈ areaRanges smallWin 1 allParts, a.2 ≠ 0 ∧ a.1 + a.2 ≤ 0x10000 := by decide +kernel
  intro r hr
  rw [loads_win, hn]
  simp only [List.mem_cons, List.not_mem_nil, or_false] at hr
  have hx : (loads r).myTask.ctx = 0 := by rcases hr with rfl | rfl <;> decide +kernel
  obtain ⟨b, hb⟩ := loads_area r (x := { (loads r).myTask with win := smallWin, phys := [1] }) hx (savedFor (loads r) loadsHdr).pois fits
  have hd : readArea (loads r) (loads r).myTask 0x10000 [(0, 16384)] [] = .ok loadsHdr := loads_head r hx
  refine ⟨⟨0, 1, [1], roomWin, []⟩, b, ?_, hd, by rw [loads_fld (by decide)]; decide +kernel, by rw [loads_fld (by decide)]; decide +kernel,
    by rw [loads_fld (by decide)]; decide +kernel, by rw [loads_fld (by decide)]; rcases hr with rfl | rfl <;> decide +kernel,
    ?_, by decide +kernel, ?_, hb, ?_, ?_⟩ <;> rcases hr with rfl | rfl <;> decide +kernel


/-! ### Kernels, queues, tasks -/

/-- A kernel of one instance, which has ended; its node lies at 0x8000. -/
def kern : Launch :=
  { lid := 5, die := 0, ctx := 0, prio := 1, node := 0x8000, succ := [0, 0x8040], entry := 64, arg := 9, wint := 8, wino := 0, wina := 0, winf := 0
    winb := 0, wlim := 1, lvls := [], nest := false, loops := [], total := 1, ended := 1 }
/-- A control complex on a mapped context: memory has a node at 0x8040 with LIVE 3, and a ring entry at 0x9000 for vector 2. -/
def graph (c : Ctl) : State :=
  { mapped 1 [(0x8042, 2, 3), (0x9000, 8, 0x8040), (0x9008, 8, 0xA000), (0x9010, 8, 77), (0x9018, 2, 2)] with
    ctl := c, dev := { ctxs := [(0, ctxFor 1)], pf0 := { partmap := 0x1111, qmap := 0x1111111111111111 }
                       sqs := [(0, { base := 0x9000, ctl := 3, tail := 1 }), (8, { base := 0xB000, ctl := 0x103, tail := 1 })] } }
/-- The last node has the completion that a ring entry asked for. -/
def lastKern : Launch := { kern with succ := [0], cpl := some ⟨1, 0, 0xA000, 77, 2⟩ }
/-- The queue of die 1 is in a context that has no tables. -/
def noRoot : State := { graph {} with dev := { (graph {}).dev with ctxs := [(0, { bind := 1 })] } }

def okVal : Except ε Nat → Nat
  | .ok x => x
  | .error _ => 0
theorem okVal_eq {r : Except ε Nat} (h : okE r = true) : r = .ok (okVal r) := by
  cases r with
  | ok x => rfl
  | error e => simp [okE] at h
theorem errE_ex {r : Except ε α} (h : okE r = false) : ∃ e, r = .error e := by
  cases r with
  | ok x => simp [okE] at h
  | error e => exact ⟨e, rfl⟩

/-- A peek that succeeds. -/
theorem peek_ex {s : State} {ctx va : Nat} (h : okE (peek s ctx va) = true) : ∃ lo e, peek s ctx va = .ok (lo, e) := by
  cases hp : peek s ctx va with
  | ok x => exact ⟨x.1, x.2, rfl⟩
  | error e => simp [hp, okE] at h

/-- The entry at HEAD of queue 0, and its node. -/
def ent0 : Nat := okVal (vread2 (graph {}) ((graph {}).sqOf 0).ctx (((graph {}).sqOf 0).base.toNat + 32 * ((graph {}).sqOf 0).head.toNat) 32)
def node0 : Nat := okVal (vread2 (graph {}) ((graph {}).sqOf 0).ctx (ofN (bits ent0 0 64) : Word).toNat 64)

theorem witness_GraphAdvances_terminated : (graph { lnch := [{ kern with term := true }] }).ctl.halt = false ∧
    (graph { lnch := [{ kern with term := true }] }).ctl.lnch.find? (fun x => x.lid == 5) = some { kern with term := true } ∧ kern.total ≤ kern.ended := by decide +kernel

theorem witness_GraphAdvances_succ : (graph { lnch := [kern] }).ctl.lnch.find? (fun x => x.lid == 5) = some kern ∧ kern.term = false ∧
    (graph { lnch := [kern] }).ctl.rels = [] ∧ kern.succ.filter (· ≠ 0) = [0x8040] ∧ kern.cpl = none ∧ (0x8040 : Word).toNat % 64 = 0 ∧
    (∃ b, seen (graph { lnch := [kern] }) kern.ctx (0x8040 : Word).toNat 64 b ∧ 2 ≤ bits b 16 16) ∧
    (∃ lo e, peek (graph { lnch := [kern] }) kern.ctx ((0x8040 : Word).toNat + 2) = .ok (lo, e)) ∧
    (graph { lnch := [kern] }).touch kern.ctx ((0x8040 : Word).toNat + 2) true = graph { lnch := [kern] } :=
  by
    and_intros <;> try decide +kernel
    · exact ⟨_, ⟨by decide +kernel, okVal_eq (by decide +kernel), by decide +kernel⟩, by decide +kernel⟩
    · exact peek_ex (by decide +kernel)

theorem witness_GraphAdvances_cpl : (graph { lnch := [lastKern] }).ctl.lnch.find? (fun x => x.lid == 5) = some lastKern ∧ lastKern.term = false ∧
    (∀ m ∈ lastKern.succ, m = 0) ∧ lastKern.cpl = some ⟨1, 0, 0xA000, 77, 2⟩ ∧ ∃ lo, canUse (graph { lnch := [lastKern] }) 0 (0xA000 : Word).toNat 8 true lo :=
  ⟨by decide +kernel, by decide +kernel, by simp [lastKern], by decide +kernel, useOk_ex (by decide +kernel)⟩

theorem witness_GraphAdvances_unreadable : noRoot.ctl.halt = false ∧ noRoot.sqNext (noRoot.sqOf 8).die = some 8 ∧ noRoot.ctl.rels = [] ∧
    ∃ e, vread2 noRoot (noRoot.sqOf 8).ctx ((noRoot.sqOf 8).base.toNat + 32 * (noRoot.sqOf 8).head.toNat) 32 = .error e :=
  ⟨by decide +kernel, by decide +kernel, by decide +kernel, errE_ex (by decide +kernel)⟩

theorem witness_GraphAdvances_illFormed : (graph {}).sqNext ((graph {}).sqOf 8).die = some 8 ∧
    ∃ e, vread2 (graph {}) ((graph {}).sqOf 8).ctx (((graph {}).sqOf 8).base.toNat + 32 * ((graph {}).sqOf 8).head.toNat) 32 = .ok e ∧ bits e 192 16 < 2 :=
  ⟨by decide +kernel, _, okVal_eq (by decide +kernel), by decide +kernel⟩

theorem ent0_read : vread2 (graph {}) ((graph {}).sqOf 0).ctx (((graph {}).sqOf 0).base.toNat + 32 * ((graph {}).sqOf 0).head.toNat) 32 = .ok ent0 := by
  unfold ent0; exact okVal_eq (by decide +kernel)
theorem node0_read : vread2 (graph {}) ((graph {}).sqOf 0).ctx (ofN (bits ent0 0 64) : Word).toNat 64 = .ok node0 := by
  unfold node0; exact okVal_eq (by decide +kernel)

theorem witness_GraphAdvances_entry : (graph {}).sqNext ((graph {}).sqOf 0).die = some 0 ∧
    vread2 (graph {}) ((graph {}).sqOf 0).ctx (((graph {}).sqOf 0).base.toNat + 32 * ((graph {}).sqOf 0).head.toNat) 32 = .ok ent0 ∧
    (bits ent0 208 48 = 0 ∧ 2 ≤ bits ent0 192 16 ∧ (ofN (bits ent0 0 64) : Word).toNat % 64 = 0) ∧
    seen (graph {}) ((graph {}).sqOf 0).ctx (((graph {}).sqOf 0).base.toNat + 32 * ((graph {}).sqOf 0).head.toNat) 32 ent0 ∧
    seen (graph {}) ((graph {}).sqOf 0).ctx (ofN (bits ent0 0 64) : Word).toNat 64 node0 ∧ bits node0 16 16 ≠ 0 :=
  ⟨by decide +kernel, ent0_read, by decide +kernel, ⟨by decide +kernel, ent0_read, by decide +kernel⟩, ⟨by decide +kernel, node0_read, by decide +kernel⟩,
    by decide +kernel⟩

/-- An instance of one core, of one tracker window of eight registers. -/
def inst0 : Inst := { die := 0, lid := 5, prio := 1, arr := 6 }
def plot0 : Plot := ⟨0, 0, [0], mkWin 0 8 0 0 0 0 0 0 0, []⟩
def toPlace : State := graph { lnch := [{ kern with ended := 0 }], pendI := [inst0] }

theorem witness_WorkPlaced_placed : toPlace.nextPlace 0 = some (inst0, .new { kern with ended := 0 } [plot0]) ∧ plot0.claims = [] ∧ plot0.phys.Nodup ∧
    plot0.slot < 4 ∧ (∀ n ∈ plot0.phys, n < 8) ∧ (toPlace.funOf (toPlace.ownerC kern.ctx)).replay = none := by decide +kernel

/-- A loop of four iterations that a group has asked for, with its indices so far. -/
def nested (idx : List (Nat × Nat)) : Launch :=
  { kern with nest := true, loops := [⟨0, 2, 0, 4⟩], ended := 0, sh := { idx := idx, reqs := [(90, 3, 0, 1, 1)] } }

theorem witness_WorkPlaced_shuttle : (∀ idx ∈ [[], [(2, 4)], [(3, 4)]], (graph { lnch := [nested idx] }).ctl.lnch.find? (fun x => x.lid == 5) = some (nested idx) ∧
    (nested idx).sh.reqs = [(90, 3, 0, 1, 1)] ∧ (nested idx).loops = [⟨0, 2, 0, 4⟩] ∧ (nested idx).sh.fin = false) ∧ (nested []).sh.idx = [] ∧
    (nested [(2, 4)]).sh.idx = [(2, 4)] ∧ 2 + 1 < 4 ∧ (nested [(3, 4)]).sh.idx = [(4 - 1, 4)] := by decide +kernel

/-- Stream 0 waits for its assignment, which has come. -/
def nexts (a : Option (List Nat × Nat)) : State :=
  { at0 { task0 with lid := 5 } { strm0 with nx := { owed := true, pd := 3, at' := some 0 } } with
    ctl := { lnch := [nested [(2, 4)]], grps := [(8, { asg := [(95, a)] })] }, dev := { ctxs := [(0, { bind := 0 })] } }

theorem witness_WorkPlaced_nextit : ∀ a ∈ [none, some ([2], 2)], ((nexts a).strmOf 0).nx.owed = true ∧ ((nexts a).strmOf 0).nx.at' = some ((nexts a).strmOf 0).pc ∧ ((nexts a).strmOf 0).mode = .task ∧ ((nexts a).upTo 95).canIssue 0 = true ∧ ((nexts a).upTo 95).turn 0 = true ∧ (mget {} (nexts a).ctl.grps (8 * ((nexts a).taskAt 0).token + ((nexts a).strmOf 0).tnum / ((nexts a).taskAt 0).sper)).asg[((nexts a).strmOf 0).nx.taken]? = some (95, a) ∧
    (nexts a).ctl.lnch.find? (fun x => x.lid == ((nexts a).taskAt 0).lid) = some (nested [(2, 4)]) ∧ ((nested [(2, 4)]).loops.map (·.reg)).Nodup := by decide +kernel

/-- A task of lower priority holds every barrier of core 0, and the head needs them; cores 1 to 39 of the quarter, the whole partition,
are held by tasks of higher priority. The context has its save pool at 0x10000. -/
def holder : Task := { task0 with lid := 4, token := 9, prio := 0, win := mkWin 0 8 0 0 0 0 0 0 64 }
def others : Sparse Task := (List.range 39).map fun c => (4 * (c + 1), { holder with token := 20 + c, prio := 7 })
def crowd (t : Task) (st : Stream) (wants : Inst) : State :=
  { mapped 1 [] with
    ctl := { lnch := [{ kern with ended := 0, winb := 64 }], pendI := [wants] }, strm := [(0, st)], task := (0, t) :: others
    dev := { ctxs := [(0, { ctxFor 1 with pool := 0x10101 })], pf0 := { partmap := 0x7771 } } }
def yielder : State := crowd holder strm0 inst0
/-- What the head wants, and where. -/
def wanted : Want := { kern with winb := 64 }.want

theorem witness_TasksYield_victims : blockedHead yielder 0 1 = some (wanted, [], [0, 1, 2, 3, 4]) ∧ victims yielder wanted [] [0, 1, 2, 3, 4] = some [9] ∧
    (∀ o ∈ List.range 5, o ≠ 1 → yielder.pending 0 o = []) ∧ (∀ e ∈ yielder.task, e.2.yreq.isSome = true → yielder.ownerC e.2.ctx = 1) ∧
    ∀ k ∈ yielder.gangKeys 9, yielder.ownerC (yielder.taskOf k).ctx = 1 := by decide +kernel

/-- The task has been asked to yield; its stream has stopped at a YIELD. -/
def asked (st : Stream) : State := crowd { holder with yreq := some 200 } st inst0
def unclean : Stream := { strm0 with run := .yielded }
def clean : Stream := { strm0 with run := .yielded, yclean := true, ymask := 2 }

/-- `oneCore`, by tests that can be run. -/
theorem oneCore_of {s : State} (h : 0 < 4 ∧ s.gangKeys (s.taskOf 0).token = [0] ∧ bitN (s.taskOf 0).out.toNat 0 = false ∧ (s.taskOf 0).phys.Nodup ∧ (∀ n ∈ (s.taskOf 0).phys, n < 8) ∧
    s.ops = [] ∧ (s.funOf (s.ownerC (s.taskOf 0).ctx)).replay = none ∧ bitN (s.funOf (s.ownerC (s.taskOf 0).ctx)).cktgt.toNat 0 = false) : oneCore s 0 0 :=
  ⟨h.1, h.2.1, h.2.2.1, h.2.2.2.1, h.2.2.2.2.1, by simp [h.2.2.2.2.2.1], h.2.2.2.2.2.2⟩

theorem witness_TasksYield_deadline : oneCore (asked strm0) 0 0 ∧ ((asked strm0).taskOf 0).yreq = some 200 ∧ ((asked strm0).taskOf 0).stat = .run ∧
    ((asked strm0).strmOf (8 * 0 + 0)).run = .run ∧ 0 ∈ ((asked strm0).taskOf 0).phys :=
  ⟨oneCore_of (by decide +kernel), by decide +kernel⟩

theorem witness_TasksYield_yields : ∀ st ∈ [unclean, clean], oneCore (asked st) 0 0 ∧ ((asked st).taskOf 0).yreq ≠ none ∧ ((asked st).taskOf 0).stat = .run ∧
    (asked st).coreRuns 0 = true ∧ ((asked st).taskOf 0).phys = [0] ∧ ((asked st).strmOf 0).run = .yielded ∧ ((asked st).strmOf 0).yclean = (st == clean) ∧
    (asked st).ops = [] ∧ ((asked st).strmOf 0).mq = [] ∧ ((asked st).strmOf 0).arr = [] ∧ ((asked st).strmOf 0).land = [] := by
  intro st hs
  simp only [List.mem_cons, List.not_mem_nil, or_false] at hs
  rcases hs with rfl | rfl <;> exact ⟨oneCore_of (by decide +kernel), by decide +kernel⟩

/-- It is gated, and the head claims its barriers; the same in a core without a free slot, where the head claims its slot. -/
def gated : State := crowd { holder with stat := .gated } strm0 inst0
def taken : Plot := ⟨0, 1, [1], mkWin 8 8 0 0 0 0 0 0 64, [(0, 0x80)]⟩
def inSlot (n p : Nat) : Task := { holder with token := 9 + n, prio := p, phys := [n], win := mkWin (8 * n) 8 0 0 0 0 0 0 0 }
def full : State :=
  { crowd {} strm0 inst0 with task := [(0, { inSlot 0 0 with stat := .gated }), (1, inSlot 1 7), (2, inSlot 2 7), (3, inSlot 3 7)] ++ others
                              ctl := { lnch := [{ kern with ended := 0 }], pendI := [inst0] } }
def takenSlot : Plot := ⟨0, 0, [4], mkWin 32 8 0 0 0 0 0 0 0, [(0, 0xFC1)]⟩
/-- The hypotheses about a gated task of which parts are claimed, by tests that can be run. -/
def scanReady (s : State) (p : Plan) (m : Nat) : Bool :=
  let x := quiesce s 0
  let v := x.taskOf 0
  s.nextPlace (dieOf 0) == some (inst0, p) && (toScan s inst0 p).find? (fun x => x.1 == 0 && x.2.1 == 0) == some (0, 0, m) && m ≤ allParts &&
    (s.taskOf 0).stat == .gated && v.out == 0 && x.ctl.saves == [] &&
    areaOk x v.ctx (poolCell x v.ctx 0 0).toNat (areaOf v.win v.phys.length).size true

theorem witness_TasksYield_scanned : oneCore gated 0 0 ∧ scanReady gated (.new { kern with ended := 0, winb := 64 } [taken]) 0x80 = true ∧ bitN 0x80 11 = false :=
  ⟨oneCore_of (by decide +kernel), by decide +kernel, by decide +kernel⟩

theorem witness_TasksYield_scanned_slot : oneCore full 0 0 ∧ scanReady full (.new { kern with ended := 0 } [takenSlot]) 0xFC1 = true ∧ bitN 0xFC1 11 = true :=
  ⟨oneCore_of (by decide +kernel), by decide +kernel, by decide +kernel⟩

/-- It is gated, and is the next to go on. -/
def back : State := { crowd { holder with stat := .gated } strm0 { inst0 with token := some 9 } with task := [(0, { holder with stat := .gated })] }

theorem witness_TasksYield_resumed : oneCore back 0 0 ∧ back.ctl.pendI.find? (fun i => i.token == some (back.taskOf 0).token) = some { inst0 with token := some 9 } ∧
    back.nextPlace 0 = some ({ inst0 with token := some 9 }, .back) ∧ (back.taskOf 0).stat = .gated ∧ (back.taskOf 0).yreq = none ∧ back.ctl.saves = [] :=
  ⟨oneCore_of (by decide +kernel), by decide +kernel⟩

/-! ### Faults that are delivered, fault queues, storage errors -/

/-- The stop of a task at work; its fault goes to the host, to its handler, or ends it. -/
def stops (host : Bool) (evb : Word) : State :=
  at0 { task0 with stat := .stopped, evb := evb, fault := some { finfo := 0x0E, faddr := 5, fcyc := 90, strm := 0, host := host } } strm0
def stopping : State := at0 { task0 with stat := .stopping } strm0
/-- The fault of `stops`. -/
def rec0 (host : Bool) : FaultRec := { finfo := 0x0E, faddr := 5, fcyc := 90, strm := 0, host := host }

/-- A translation that succeeds, to a place that can be reached then. -/
def okThen (ctx : Nat) : TRes → Bool
  | .ok l _ u => reachable u ctx l
  | _ => false
theorem okThen_ex {ctx : Nat} {r : TRes} (h : okThen ctx r = true) : ∃ l e u, r = .ok l e u ∧ reachable u ctx l = true := by
  cases r with
  | ok l e u => exact ⟨l, e, u, rfl, h⟩
  | walkFault c => simp [okThen] at h
  | attr => simp [okThen] at h

theorem witness_FaultsDelivered : (oneCore stopping 0 0 ∧ stopping.coreRuns 0 = true ∧ (stopping.taskOf 0).stat = .stopping) ∧
    (∀ x ∈ [(true, (0 : Word)), (false, 4096), (false, 0)], oneCore (stops x.1 x.2) 0 0 ∧ (stops x.1 x.2).coreRuns 0 = true ∧ ((stops x.1 x.2).taskOf 0).stat = .stopped ∧
      ((stops x.1 x.2).taskOf 0).fault = some (rec0 x.1) ∧ (rec0 x.1).cause ≠ 0x11 ∧ ((stops x.1 x.2).taskOf 0).evb = x.2 ∧
      bitN ((stops x.1 x.2).ctxOf ((stops x.1 x.2).taskOf 0).ctx).dumpctl.toNat 1 = false ∧ ((stops x.1 x.2).strmOf 0).mq = []) ∧
    0 ∈ ((stops false 4096).taskOf 0).phys ∧ ((stops false 4096).strmOf 0).tnum = (rec0 false).strm ∧
    ∃ l e u, translate (stops false 4096) 0 ((stops false 4096).taskOf 0).ctx (((stops false 4096).taskOf 0).evb.toNat + 4096) .w = .ok l e u ∧
      reachable u ((stops false 4096).taskOf 0).ctx l = true := by
  refine ⟨⟨oneCore_of (by decide +kernel), by decide +kernel⟩, ?_, by decide +kernel, by decide +kernel, okThen_ex (by decide +kernel)⟩
  intro x hx
  simp only [List.mem_cons, List.not_mem_nil, or_false] at hx
  rcases hx with rfl | rfl | rfl <;> exact ⟨oneCore_of (by decide +kernel), by decide +kernel⟩

/-- Function 2 has an entry to write; with room, and with none. -/
def entry0 : FqEnt := { kind := 2, ctx := 5, token := 3, finfo := 0x0E }
def queued (tail : BitVec 16) : State := { dev := { funs := [(2, { fqbase := 0x5000, fqctl := 3, fqtail := tail, fqpend := [entry0] })] } }
/-- A task of partition 2 stopped for the host, standing or gated. -/
def hosted (st : TStat) : State := { at0 { task0 with stat := st, was := .hostStop } strm0 with dev := { ctxs := [(0, ctxFor 2)] } }

/-- The entries that its ring has, and how many of them are full. -/
def fqSize (s : State) : Nat := 2^(bits (s.funOf 2).fqctl.toNat 1 4)
def fqFull (s : State) : Nat := ((s.funOf 2).fqtail - (s.funOf 2).fqhead).toNat

theorem witness_FaultQueueServed_entry : ((queued 1).funOf 2).fqpend = [entry0] ∧ bitN ((queued 1).funOf 2).fqctl.toNat 0 = true ∧ fqFull (queued 1) < fqSize (queued 1) ∧ (queued 1).mmio 2 = true ∧ (queued 1).earlier 2 entry0.cyc = false ∧
    entry0.kind < 256 ∧ entry0.ctx < 256 ∧ entry0.code < 256 := by decide +kernel

theorem witness_FaultQueueServed_full : ((queued 2).funOf 2).fqpend = [entry0] ∧ bitN ((queued 2).funOf 2).fqctl.toNat 0 = true ∧ fqSize (queued 2) ≤ fqFull (queued 2) ∧
    (queued 2).earlier 2 entry0.cyc = false := by
  decide +kernel

theorem witness_FaultQueueServed_tasks : ∀ st ∈ [TStat.hostStop, .gated], (hosted st).mmio 2 = true ∧ (hosted st).gangKeys 77 = [] ∧ (hosted st).ctl.saves = [] ∧
    oneCore (hosted st) 0 0 ∧ ((hosted st).taskOf 0).stat = st ∧ ((hosted st).taskOf 0).was = .hostStop ∧ (hosted st).ownerC ((hosted st).taskOf 0).ctx = 2 ∧
    bitN ((hosted st).ctxOf ((hosted st).taskOf 0).ctx).dumpctl.toNat 1 = false ∧ ((hosted st).strmOf 0).mq = [] := by
  intro st hs
  simp only [List.mem_cons, List.not_mem_nil, or_false] at hs
  rcases hs with rfl | rfl <;> exact ⟨by decide +kernel, by decide +kernel, by decide +kernel, oneCore_of (by decide +kernel), by decide +kernel⟩

/-- Core 159 is frozen; stack 7 has counted 64 errors in bank 5 of its die 3. -/
def frozen : State := { core := [(159, { frz := some 40, frz0 := 16 })], strm := [(8 * 159 + 7, strm0)], task := [(4 * 159, task0)], dev := { stks := [(7, { corr := [(389, 64)] })] } }

theorem witness_StorageErrors_core : (∀ k, k < 4 → (frozen.ctxOf (frozen.taskOf (4 * 159 + k)).ctx).ttrig = 0) ∧ (frozen.coreOf 159).frz = some 40 ∧
    (∀ x ∈ frozen.tasksOn 159 [], (frozen.ctxOf x.2.ctx).ttrig = 0) ∧ (frozen.strmOf (8 * 159 + 7)).run ≠ .absent ∧ (frozen.strmOf (8 * 159 + 6)).run = .absent ∧
    (frozen.taskOf (4 * 159 + (frozen.strmOf (8 * 159 + 7)).slot)).stat = .run ∧ 0 < storeWords (.obj .t) := by decide +kernel

/-- A task of one core holds barrier 2 and frame 5 of core 0, and its own allocation map; nobody holds barrier 0. -/
def holds0 : State := at0 { task0 with win := mkWin 0 8 0 0 0 0 8 2 2 } strm0

theorem witness_StorageErrors_state : oneCore holds0 0 0 ∧ (∀ idx ∈ [1024 + 2, 768 + 5, 1088], ∀ x ∈ holds0.tasksOn 0 [], stateHeld 0 idx x = true ↔ x.1 = 0) ∧
    (∀ x ∈ holds0.tasksOn 0 [], stateHeld 0 1024 x = false) ∧ (∀ x ∈ holds0.tasksOn 0 [], (holds0.ctxOf x.2.ctx).ttrig = 0) ∧
    bitN (holds0.ctxOf (holds0.taskOf 0).ctx).dumpctl.toNat 1 = false ∧ (holds0.strmOf 0).mq = [] ∧
    ∀ st ∈ [ErrStore.obj .f, .side, .spill, .shadow false, .shadow true, .sideShadow], 0 < storeWords st :=
  ⟨oneCore_of (by decide +kernel), by decide +kernel⟩

theorem witness_StorageErrors_stack : 0 < (mapped 7 []).partSize 7 ∧ 64 ≤ mget 0 (frozen.stackOf 7).corr (128 * 3 + 5) := by decide +kernel

/-! ### Debug stops, reports, checkpoints -/

/-- A context of function 1 with EN, one breakpoint at safe point 0 of object 3, at 0x8000, where a word with SP lies; stream 0 is there. -/
def dbgCtx : Ctx :=
  { ctxFor 1 with dbgctl := 1, objs := [⟨3, 0x8000, 0x9000, [0x8000], []⟩], bp := [(0, 0x8000000300000000)] }
def debugged (c : Ctx) (st : Stream) : State :=
  { mapped 1 [(0x8000, 8, 2^62)] with strm := [(0, st)], task := [(0, task0)], dev := { ctxs := [(0, c)], pf0 := { partmap := 0x1111 } } }
def atPoint : State := debugged dbgCtx { strm0 with pc := 0x8000 }
def stoppedAt : State := debugged { dbgCtx with dbgStop := true } { strm0 with dstop := true }

theorem witness_DebugStops_requests : (owns atPoint 1 0 ∧ (atPoint.ctxOf 0).evs = [] ∧ (atPoint.ctxOf 0).evStop = false) ∧ bitN (atPoint.ctxOf 0).dbgctl.toNat 0 = true ∧ ((0, task0) ∈ stoppedAt.task ∧ owns stoppedAt 1 0 ∧ task0.ctx = 0 ∧
    (stoppedAt.taskOf 0).ctx = 0 ∧ task0.stat ≠ .empty ∧ task0.stat ≠ .saved ∧ 0 ∈ (stoppedAt.taskOf 0).phys ∧ (stoppedAt.strmOf 0).dstop = true) :=
  by simp only [owns]; decide +kernel

theorem witness_DebugStops_stopped : (stoppedAt.ctxOf 0).dbgStop = true ∧ bitN (stoppedAt.ctxOf 0).dbgctl.toNat 4 = false ∧ (stoppedAt.ctxOf 0).ttrig = 0 ∧ stoppedAt.ops = [] ∧
    ∀ e ∈ stoppedAt.task, e.2.ctx = 0 → (stoppedAt.taskOf e.1).stat = .run ∧ ∀ n ∈ (stoppedAt.taskOf e.1).phys,
      (stoppedAt.strmOf (8 * (e.1 / 4) + n)).dstop = true ∨ (stoppedAt.strmOf (8 * (e.1 / 4) + n)).run ≠ .run := by decide +kernel

theorem witness_DebugStops_point : owns atPoint 1 0 ∧ (atPoint.canIssue 0 = true ∧ (atPoint.strmOf 0).mode = .task ∧ (atPoint.strmOf 0).bphit = false ∧ (atPoint.taskAt 0).ctx = 0 ∧
      bitN (atPoint.ctxOf 0).dbgctl.toNat 0 = true ∧ safePoint atPoint 0 (atPoint.strmOf 0).pc.toNat = some (0, 3) ∧
      ∃ b ∈ (atPoint.ctxOf 0).bp, bitN b.2.toNat 63 = true ∧ bits b.2.toNat 0 32 = 0 ∧ bits b.2.toNat 32 16 = 3) ∧
    ∃ l e u, translate (select atPoint 0) 0 0 (atPoint.strmOf 0).pc.toNat .x = .ok l e u ∧ bitN (readN u.mem (memKey l) 8) 62 = true := by
  refine ⟨by simp only [owns]; decide +kernel, by decide +kernel, ?_⟩
  have h : (match translate (select atPoint 0) 0 0 (atPoint.strmOf 0).pc.toNat .x with
    | .ok l _ u => bitN (readN u.mem (memKey l) 8) 62
    | _ => false) = true := by decide +kernel
  split at h
  · next l e u heq => exact ⟨l, e, u, heq, h⟩
  · cases h

theorem witness_DebugStops_brkpt : owns stoppedAt 1 0 ∧ (debugged dbgCtx strm0).runs { sp := true } 0 ∧ (debugged dbgCtx strm0).myCtx = 0 ∧
    (debugged dbgCtx strm0).me.mode = .task ∧ bitN ((debugged dbgCtx strm0).ctxOf 0).dbgctl.toNat 0 = true ∧ (debugged dbgCtx strm0).me.bphit = false := by
  simp only [owns]; decide +kernel

/-- A device with the time series at 2^14 cycles, into one block, the last record still being written or not. -/
def series (busy size : Nat) : State := { now := 100, dev := { pf0 := { tsctl := 0x1D, tsbuf := 0x40000 + BitVec.ofNat 64 size, tsbusy := busy } } }
/-- A context whose dump is due, stopped, without tasks, and with a buffer of one block at 0x10000, or none. -/
def dumping (buf : BitVec 64) : State := { mapped 1 [] with dev := { ctxs := [(0, { ctxFor 1 with dbgctl := 0x11, dumpsts := 1, dumpbuf := buf })], pf0 := { partmap := 0x1111 } } }

theorem witness_ReportsWritten_tick : ∀ x ∈ [(20000, 1), (0, 1), (0, 0)], bitN (series x.1 x.2).dev.pf0.tsctl.toNat 0 = true ∧ bits (series x.1 x.2).dev.pf0.tsctl.toNat 1 5 = 14 ∧
    (((series x.1 x.2).now / 2^14 + 1) * 2^14 < (series x.1 x.2).dev.pf0.tsbusy ↔ x.1 = 20000) ∧ (65536 * bits (series x.1 x.2).dev.pf0.tsbuf.toNat 0 12 = 0 ↔ x.2 = 0) ∧
    (x.2 = 1 → (series x.1 x.2).dev.pf0.tspos + 11936 ≤ 65536 * bits (series x.1 x.2).dev.pf0.tsbuf.toNat 0 12) := by decide +kernel

theorem witness_ReportsWritten_dump : (dumping 0x10001).task = [] ∧ bitN ((dumping 0x10001).ctxOf 0).dumpsts.toNat 0 = true ∧ bitN ((dumping 0x10001).ctxOf 0).dbgctl.toNat 4 = true ∧
    bits ((dumping 0x10001).ctxOf 0).dumpbuf.toNat 0 12 ≠ 0 ∧ bits ((dumping 0x10000).ctxOf 0).dumpbuf.toNat 0 12 = 0 ∧ bitN ((dumping 0x10000).ctxOf 0).dumpsts.toNat 0 = true ∧
    bitN ((dumping 0x10000).ctxOf 0).dbgctl.toNat 4 = true := by decide +kernel

/-- Where the header goes, before it is written and after. -/
theorem witness_ReportsWritten_header : (∃ l, canUse (dumping 0x10001) 0 0x10000 64 true l) ∧
    ∃ l, canUse (vwrite (dumping 0x10001) 0 false 2 0x10000 64 (dumpHeader 0 64 0 0 0 0 0)).2.2 0 0x10000 64 true l :=
  ⟨useOk_ex (by decide +kernel), useOk_ex (by decide +kernel)⟩

/-- A checkpointed context of function 1: one page of 64 KiB, with D; nothing runs. -/
def paged (x : Func) : State :=
  { mem := memFor 1 [(0x2000, 8, 0x4001), (0x4000, 8, 0x6001), (0x6000, 8, 0x8001), (0x8008, 8, 0x101DF)], strm := [], task := []
    dev := { ctxs := [(0, { ctxFor 1 with ckey := some 5 })], funs := [(1, x)], pf0 := { partmap := 0x7771 } } }
def epoch0 (l : List (Nat × Nat × Nat)) : Epoch := { num := 1, cyc := 50, blocks := l, pos := 64, log := [], saves := [], ctl := {} }
/-- The block of a completed epoch holds one byte that is not 0. -/
def block0 : Block := { ctx := 0, va := 0x10000, key := 2^64 + 0x10000, data := [(3, 9)], poison := [] }
def ckpt0 : Ckpt := { num := 1, cyc := 50, blocks := [block0], log := [], saves := [], ctl := {} }

theorem witness_CheckpointsTaken_target : (paged {}).mmio 1 = true ∧ (paged { cktgt := 1 }).mmio 1 = true ∧ ((paged {}).funOf 1).tdisp = .unlocked ∧ bitN ((paged {}).funOf 1).cktgt.toNat 0 = false ∧ ((paged { cktgt := 1 }).funOf 1).tdisp = .unlocked ∧
    bitN ((paged { cktgt := 1 }).funOf 1).cktgt.toNat 0 = true := by decide +kernel

theorem witness_CheckpointsTaken_begin : bitN ((paged { cktgt := 1, balOut := some 3 }).funOf 1).cktgt.toNat 0 = true ∧ ((paged { cktgt := 1, balOut := some 3 }).funOf 1).epoch = none ∧
    ((paged { cktgt := 1, balOut := some 3 }).funOf 1).replay = none ∧ (paged { cktgt := 1, balOut := some 3 }).task = [] ∧ (paged { cktgt := 1, balOut := some 3 }).ctl.saves = [] ∧ ((paged { cktgt := 1, balOut := some 3 }).funOf 1).balOut ≠ none ∧ (paged { cktgt := 1, balOut := some 3 }).ownerC 0 = 1 ∧ ((paged { cktgt := 1, balOut := some 3 }).ctxOf 0).ckey ≠ none ∧
    (0x10000, 0, 0x101DF, 2^64 + 0x8008) ∈ ctxLeaves (paged { cktgt := 1, balOut := some 3 }) 0 ∧ (0 : Nat) < 2^(10 * 0) ∧ bits 0x101DF 52 2 = 0 ∧ bitN 0x101DF 8 = true := by decide +kernel

theorem witness_CheckpointsTaken_copy : ∀ l ∈ [[], [(0, 0x10000, 2^64 + 0x10000)]], ((paged { cktgt := 1, balOut := some 3, epoch := some (epoch0 l) }).funOf 1).epoch = some (epoch0 l) ∧
    ((paged { cktgt := 1, balOut := some 3, epoch := some (epoch0 l) }).funOf 1).balOut ≠ none ∧ (epoch0 l).caught = [] ∧ (epoch0 l).blocks = l := by decide +kernel

theorem witness_CheckpointsTaken_replay : ((paged { ckpts := [ckpt0] }).funOf 1).ckpts = [ckpt0] ∧ ckpt0.blocks = [block0] ∧ ckpt0.saves = [] ∧
    ((paged { ckpts := [ckpt0] }).funOf 1).epoch = none ∧ (paged { ckpts := [ckpt0] }).task = [] ∧ (block0.data.map (·.1)).Pairwise (· < ·) ∧ ∀ e ∈ block0.data, e.1 < 65536 := by
  decide +kernel

/-! ### The host -/

theorem witness_PartitionsAssigned : (∀ x ∈ [((0x1777 : BitVec 32), 1), (0x5777, 5)], (∀ r, r < 4 → r ≠ 3 → bits x.1.toNat (4 * r) 3 = State.reset.ownerQ r) ∧ bits x.1.toNat 12 3 = x.2) ∧
    State.reset.mmio 0 = true ∧ ({ dev := { pf0 := { boot := true } } } : State).mmio 0 = false ∧ State.reset.ownerQ 3 = 7 ∧ ¬ isLocked State.reset 7 ∧ ¬ isFrozen State.reset 7 ∧ mayOwn State.reset 7 ∧ mayOwn State.reset 1 ∧ State.reset.task = [] ∧
    (∀ x ∈ [((0x1777777777777777 : BitVec 64), 1), (0x5777777777777777, 5)], (∀ r, r < 16 → r ≠ 15 → bits x.1.toNat (4 * r) 4 = bits State.reset.dev.pf0.qmap.toNat (4 * r) 4) ∧
      bits x.1.toNat 60 4 = x.2) ∧ bits State.reset.dev.pf0.qmap.toNat 60 4 = 7 ∧ (∀ i, i < 4 → (State.reset.sqOf (4 * 15 + i)).en = false) ∧ State.reset.ownerC 63 = 7 :=
  by simp only [isFrozen, isLocked, mayOwn]; decide +kernel

/-- Function 1 owns quarter 3, context 63, whose tables map 64 GiB with one leaf, and queue 60 (enabled) and 63. -/
def hostView : State :=
  { mem := memFor 1 [(0x2000, 8, 0x4001), (0x4000, 8, 0x1DF)]
    dev := { ctxs := [(63, { ctxFor 1 with ckey := some 5 })], pf0 := { partmap := 0x1777, qmap := 0x1777777777777777, ready := true }, sqs := [(60, { ctl := 9, tail := 3 })] } }

theorem peek_leaf2 {s : State} (ho : s.ownerC 63 = 1) (hp : 0x10000 ≤ s.partSize 1) (hr : (s.ctxOf 63).root.toNat = 0x2001)
    (h1 : readN s.mem (1 * 2^64 + 0x2000) 8 = 0x4001) (h2 : readN s.mem (1 * 2^64 + 0x4000) 8 = 0x1DF) {va : Nat} (hv : va < 2^36) :
    peek s 63 va = .ok (⟨.dev 1, va⟩, 0x1DF) := by
  have b3 : bits va 46 10 = 0 := by unfold bits; omega
  have b2 : bits va 36 10 = 0 := by unfold bits; omega
  have hz : va / 2^56 = 0 := Nat.div_eq_of_lt (by omega)
  have k3 : memKey ⟨.dev 1, 0x2000 + 8 * bits va (lvlBits 3) 10⟩ = 1 * 2^64 + 0x2000 := by rw [show lvlBits 3 = 46 from rfl, b3]; rfl
  have k2 : memKey ⟨.dev 1, 0x4000 + 8 * bits va (lvlBits 2) 10⟩ = 1 * 2^64 + 0x4000 := by rw [show lvlBits 2 = 36 from rfl, b2]; rfl
  have w2 : walkGo s 1 va 3 0x4000 = .ok (0x1DF, 2, 1 * 2^64 + 0x4000) := by
    unfold walkGo; simp only [k2, h2]; rw [if_neg (by omega)]; simp only [show ptePA 0x1DF = 0 from rfl]; rw [show decide (s.partSize 1 ≤ 0) = false from decide_eq_false (by omega)]; rfl
  have w3 : walkGo s 1 va 4 0x2000 = .ok (0x1DF, 2, 1 * 2^64 + 0x4000) := by
    unfold walkGo; simp only [k3, h1]; rw [if_neg (by omega)]; exact w2
  have w : walk s 63 va = .ok (0x1DF, 2, 1 * 2^64 + 0x4000) := by
    unfold walk; rw [hr, ho, hz]; exact w3
  unfold peek
  rw [w, ho]
  simp only [show lvlBits 2 = 36 from rfl, Nat.mod_eq_of_lt hv]
  rw [show ptePA 0x1DF = 0 from rfl, Nat.zero_add]; rfl

theorem hostView_peek {va : Nat} (hv : va < 2^36) : peek hostView 63 va = .ok (⟨.dev 1, va⟩, 0x1DF) :=
  by apply peek_leaf2 <;> first | exact hv | decide +kernel

theorem witness_HostConfigures : hostView.mmio 1 = true ∧ hostView.mmio 0 = true ∧ hostView.dev.pf0.ready = true ∧
    (State.reset.mmio 1 = true ∧ ¬ isFrozen State.reset 1 ∧ State.reset.dev.pf0.ready = false) ∧ ctxReg hostView 2700 (.ydl 63) ≠ none ∧ ctxReg hostView 5 (.bp 63 15) ≠ none ∧
    hostView.ownerC 63 = 1 ∧ hostView.ownerC 62 ≠ 1 ∧ ctxReg hostView 5 (.grptab 62) ≠ none ∧ funReg (hostView.funOf 1) 5 .fqctl ≠ none ∧ pf0Reg hostView.dev.pf0 5 .domain ≠ none ∧
    ¬ isFrozen hostView 1 ∧ hostView.sqFun 63 = 1 ∧ (hostView.sqOf 63).en = false ∧ hostView.sqFun 60 = 1 ∧ (hostView.sqOf 60).en = true ∧
    hostView.ownerC (bits (63 * 2^9) 9 6) = 1 ∧ hostView.ownerC (bits (62 * 2^9) 9 6) ≠ 1 ∧ ((hostView.funOf 1).tdisp = .unlocked) :=
  by simp only [isFrozen, isLocked]; decide +kernel

/-- A pool of 255 MiB for each slot of quarter 3: every page qualifies. -/
theorem witness_HostConfigures_pool : 255 % 256 ≠ 0 ∧ hostView.quarters 1 = [3] ∧ ∀ i, i < 4 * (40 * (hostView.quarters 1).length) * (255 % 256) * 16 →
    pinned hostView 63 (0 / 65536 * 65536 + 65536 * i) := by
  have hq : hostView.quarters 1 = [3] := by decide +kernel
  refine ⟨by decide, hq, ?_⟩
  intro i hi
  rw [hq] at hi
  simp only [List.length_cons, List.length_nil] at hi
  exact ⟨_, _, hostView_peek (by omega), by decide, by decide, by decide, by decide⟩

/-- A log buffer of 255 MiB: every page qualifies in every context with a checkpoint key; and sizes of BAR2. -/
theorem witness_HostConfigures_log : (255 : BitVec 64).toNat % 256 ≠ 0 ∧ (∀ c, c < 64 → hostView.ownerC c = 1 → (hostView.ctxOf c).ckey ≠ none →
    ∀ i, i < 16 * ((255 : BitVec 64).toNat % 256) → pinned hostView c ((255 : BitVec 64).toNat / 65536 * 65536 + 65536 * i)) ∧
    barSized 0x40000000 ∧ barSized 0x8000000000 ∧ ¬ barSized 1 := by
  have hc : ∀ c, c < 64 → hostView.ownerC c = 1 → c = 63 := by decide +kernel
  refine ⟨by decide, ?_, ⟨0, by decide, by decide⟩, ⟨9, by decide, by decide⟩, ?_⟩
  · intro c h h1 _ i hi
    rw [hc c h h1]
    exact ⟨_, _, hostView_peek (by simp at hi ⊢; omega), by decide, by decide, by decide, by decide⟩
  · rintro ⟨k, hk, h⟩
    have := Nat.pow_le_pow_right (n := 2) (by decide) (show 30 ≤ 30 + k by omega)
    rw [← h] at this
    exact absurd this (by decide)

/-- Quarter 0 is gated, so stack 1 may go to self-refresh; stack 0 is on its way out; quarter 1 scrubs; partition 1 has quarter 2. -/
def powered : State :=
  { at0 {} strm0 with dev := { stks := [(0, { srefX := true })], pf0 := { partmap := 0x7177, scrub := 2, pwrctl := 0x100000100 } } }
/-- A change of the performance point is under way. -/
def changing : State := { at0 task0 strm0 with dev := { pf0 := { newPP := some 7, ppAt := 60 } } }

theorem witness_PowerAndMemoryWindow : (powered.mmio 0 = true ∧ changing.mmio 0 = true ∧ powered.dev.pf0.ready = false ∧ hostView.dev.pf0.ready = true) ∧ (powered.dev.pf0.newPP = none ∧ bits powered.dev.pf0.pwrctl.toNat 0 3 ≠ (7 : BitVec 3).toNat ∧ changing.dev.pf0.newPP = some 7 ∧ (changing.strmOf 0).run ≠ .absent ∧
      (changing.taskOf (4 * (0 / 8) + (changing.strmOf 0).slot)).stat = .run) ∧
    (∀ x ∈ [((9 : BitVec 4), 3), (3, 1)], x.2 < 4 ∧ (∀ r, r < 4 → r ≠ x.2 → bitN x.1.toNat r = bitN powered.dev.pf0.pwrctl.toNat (8 + r)) ∧
      bitN x.1.toNat x.2 ≠ bitN powered.dev.pf0.pwrctl.toNat (8 + x.2) ∧ bitN powered.dev.pf0.scrub.toNat x.2 = (x.2 == 1)) ∧ (∀ e ∈ powered.task, e.2.stat = .empty) ∧
    (∀ x ∈ [((128 : BitVec 8), 7), (2, 1)], x.2 < 8 ∧ (∀ j, j < 8 → j ≠ x.2 → bitN x.1.toNat j = bitN powered.dev.pf0.pwrctl.toNat (16 + j)) ∧
      bitN x.1.toNat x.2 ≠ bitN powered.dev.pf0.pwrctl.toNat (16 + x.2) ∧ bitN powered.dev.pf0.pwrctl.toNat (8 + x.2 / 2) = (x.2 == 1)) ∧ (powered.stackOf 0).srefX = true ∧
    (0 : BitVec 16) < powered.dev.pf0.jtrip ∧ powered.dev.pf0.jtrip ≤ 0x690 ∧ powered.sched = [] ∧
    powered.mmio 1 = true ∧ powered.mmio 4 = true ∧ ((2^30 - 8) + 8 ≤ powered.partSize 1 ∧ (2^30 - 8) + 8 ≤ barSize (powered.funOf 1) ∧ powered.asleep ⟨.dev 1, 2^30 - 8⟩ = false ∧ powered.ckHold (memKey ⟨.dev 1, 2^30 - 8⟩) = false) ∧
    (∀ q ∈ powered.quarters 1, bitN powered.dev.pf0.scrub.toNat q = false) ∧ powered.poisoned (memKey ⟨.dev 1, 2^30 - 8⟩) 8 = false := by decide +kernel

/-- Function 4 has quarter 3, its interface in some state. -/
def secured (t : Tdisp) : State := { dev := { ctxs := [(63, ctxFor 4)], funs := [(4, { tdisp := t, nonce := 5, ide := [(1, 9)] })], pf0 := { partmap := 0x4777, qmap := 0x4777777777777777, ready := true } } }
/-- The only task is one of partition 4. -/
def securedTask : State := { secured .run with task := [(0, { task0 with ctx := 63 })], strm := [(0, strm0)] }

theorem witness_DeviceSecured_interface : ((secured .unlocked).quarters 4 ≠ [] ∧ (secured .unlocked).hasWork 4 = false ∧ (secured .unlocked).dev.sec.life ≠ .debugUnlocked) ∧
    (∀ t ∈ [Tdisp.unlocked, .locked, .run, .error], ((secured t).funOf 4).tdisp = t ∧ ((secured t).funOf 4).nonce = 5) ∧ ¬ isLocked (secured .unlocked) 4 ∧ isLocked (secured .locked) 4 ∧
    noTasks (secured .run) 4 ∧ (secured .run).sqFun 63 = 4 ∧ (secured .run).ownerC 63 = 4 ∧ (secured .run).ownerC 0 ≠ 4 ∧ (∃ e ∈ ((secured .run).funOf 4).ide, e.1 = 1) ∧
    ∀ f, f < 5 → noTasks (secured .run) f :=
  by
    simp only [isLocked]
    and_intros <;> first | decide +kernel | exact fun _ _ => ⟨by simp [secured], by simp [secured]⟩

theorem witness_DeviceSecured_frozen : isLocked securedTask 4 ∧ securedTask.mmio 0 = true ∧ securedTask.dev.pf0.ready = true ∧
    (securedTask.ownerQ 3 = 4 ∧ bits (0x1777 : BitVec 32).toNat 12 3 ≠ 4 ∧ ∀ r, r < 4 → r ≠ 3 → bits (0x1777 : BitVec 32).toNat (4 * r) 3 = securedTask.ownerQ r) ∧ oneCore securedTask 0 0 ∧ securedTask.task = [(4 * 0 + 0, securedTask.taskOf 0)] ∧
    securedTask.ownerC (securedTask.taskOf 0).ctx = 4 ∧ (securedTask.taskOf 0).ctx = 63 ∧ (securedTask.taskOf 0).stat = .run ∧
    bitN (securedTask.ctxOf (securedTask.taskOf 0).ctx).dumpctl.toNat 1 = false ∧ (securedTask.strmOf 0).mq = [] :=
  ⟨by simp only [isLocked]; decide +kernel, by decide +kernel, by decide +kernel, by decide +kernel, oneCore_of (by decide +kernel), by decide +kernel⟩

/-- A token of 160 bytes for a deployed device with identifier 7 and nonce 9; whether its signature holds is not the model's to say. -/
def token160 : List Byte := [0x44, 0x42, 0x47, 0x55, 1, 0, 3, 2, 7] ++ List.replicate 23 0 ++ [9] ++ List.replicate 127 0
def awaiting : State := { dev := { sec := { devid := 7, nonce := some 9 } } }

theorem witness_DeviceSecured_token (h : Config.sigOk token160 = true) : unlockStatus awaiting token160 = 1 ∧ unlockStatus State.reset token160 = 3 := by
  constructor
  · unfold unlockStatus
    rw [if_neg (by decide +kernel), if_neg (by decide +kernel), if_neg (by decide +kernel), if_neg (by decide +kernel), if_neg (by simp [h]), if_neg (by decide +kernel)]
  · decide +kernel

/-- Device 5, of a domain of devices 0 to 9, whose partition 1 has the stacks 6 and 7 and a Balua key; port 0 is down with one request
to be sent again; port 17 has three flits in its replay buffer, and eight retries of port 16 have failed. -/
def flit0 : Flit :=
  { dst := 5, src := 9, typ := 1, ten := 1, lseq := 0, txid := 4, crc := 0, addr := 0, op := 0, size := 8, cmp := 3, data := 0, tag := 0 }
def linked (q : List Flit) : State :=
  { dev := { funs := [(1, { balIn := some 3, balOut := some 6 })], pf0 := { partmap := 0x1777, domain := 0x900000005 }
             ports := [(0, { up := false, redo := [⟨{ flit0 with dst := 6, src := 5 }, some (3, 2), true⟩] }), (16, { fails := 9 }),
               (17, { seq := 3, sent := [flit0, { flit0 with lseq := 1 }, { flit0 with lseq := 2 }], inq := q })] } }
/-- A request of device 9 for partition 1, with its tag. -/
def request (typ : BitVec 8) (addr : BitVec 64) (size op : BitVec 8) : Flit :=
  let fl := { flit0 with typ := typ, addr := addr, size := size, op := op }
  { fl with tag := flitTag fl 3 }
/-- A flit with its CRC, received in sequence. -/
def received (typ : BitVec 8) (addr : BitVec 64) (op : BitVec 8) : Flit :=
  let fl := { flit0 with typ := typ, addr := addr, op := op }
  { fl with crc := flitCrc fl }

theorem witness_LinksAndPorts_received : ((linked []).portOf 17).up = true ∧ ((linked []).portOf 17).exp = 0 ∧
    (∀ fl ∈ [received 8 1 0, received 8 1 1, received 3 0 0, received 1 0 0], fl.crc = flitCrc fl ∧ fl.lseq.toNat % 4096 = 0) ∧ flit0.crc ≠ flitCrc flit0 ∧
    (∃ pre g post, ((linked []).portOf 17).sent = pre ++ g :: post ∧ g.lseq.toNat = (received 8 1 0).addr.toNat % 4096 ∧
      (∀ z ∈ pre, z.lseq.toNat ≠ (received 8 1 0).addr.toNat % 4096) ∧ (received 8 1 0).addr.toNat % 4096 ≠ ((linked []).portOf 17).seq) ∧
    ((linked []).portOf 16).up = true ∧ 9 ≤ ((linked []).portOf 16).fails ∧ ((linked []).portOf 17).fails < 9 :=
  by
    and_intros <;> try decide +kernel
    exact ⟨[flit0], { flit0 with lseq := 1 }, [{ flit0 with lseq := 2 }], by decide +kernel⟩

/-- `admitted`, but for the tag, by a test that can be run. -/
def admitOk (s : State) (fl : Flit) : Bool :=
  let own := fl.ten.toNat
  s.dev.pf0.domain != 0 && fl.dst.toNat == bits s.dev.pf0.domain.toNat 0 10 && own < 5 && s.quarters own != [] && (s.funOf own).balOut.isSome &&
    bits s.dev.pf0.domain.toNat 16 10 ≤ fl.src.toNat && fl.src.toNat ≤ bits s.dev.pf0.domain.toNat 32 10 &&
    (s.quarters own).all (fun q => !bitN s.dev.pf0.scrub.toNat q) &&
    (fl.typ != 7 || (!(s.stackOf (bits fl.addr.toNat 8 3)).sref && !(s.stackOf (bits fl.addr.toNat 8 3)).srefX)) &&
    (fl.typ == 7 || (List.range (max 1 fl.size.toNat)).all fun i => !s.asleep ⟨.dev own, fl.addr.toNat + i⟩)

theorem admitted_of {s : State} {fl : Flit} {key : BitVec 256} (hk : (s.funOf fl.ten.toNat).balIn = some key) (ht : fl.tag = flitTag fl key)
    (h : admitOk s fl = true) : admitted s fl := by
  simp only [admitOk, Bool.and_eq_true, Bool.or_eq_true, bne_iff_ne, beq_iff_eq, decide_eq_true_eq, List.all_eq_true, Bool.not_eq_true', List.mem_range] at h
  obtain ⟨⟨⟨⟨⟨⟨⟨⟨⟨h1, h2⟩, h3⟩, h4⟩, h10⟩, h5⟩, h6⟩, h7⟩, h8⟩, h9⟩ := h
  exact ⟨h1, h2, h3, h4, ⟨key, hk, ht⟩, (fun e => by simp [e] at h10), h5, h6, h7, fun e => h8.resolve_left (by simp [e]), fun e => h9.resolve_left e⟩

theorem request_tag (typ : BitVec 8) (addr : BitVec 64) (size op : BitVec 8) : (request typ addr size op).tag = flitTag (request typ addr size op) 3 := rfl

/-- Requests that are admitted, and one that is not, since no partition has the key for it. -/
def asked1 : List (BitVec 8 × BitVec 64 × BitVec 8 × BitVec 8) := [(1, 48 * 2^30 * 2 - 200, 200, 0), (2, 0, 1, 0), (4, 8, 8, 10), (4, 4, 4, 9)]
def at17 (x : BitVec 8 × BitVec 64 × BitVec 8 × BitVec 8) : State := linked [request x.1 x.2.1 x.2.2.1 x.2.2.2]

theorem witness_LinksAndPorts_requests : (∀ x ∈ asked1, let fl := request x.1 x.2.1 x.2.2.1 x.2.2.2
      admitted (at17 x) fl ∧ ((at17 x).portOf 17).up = true ∧ ((at17 x).portOf 17).sent.length < 256 ∧ ((at17 x).portOf 17).out = [] ∧ ((at17 x).portOf 17).inq = [fl] ∧ flitHeld (at17 x) fl = false ∧
      (fl.src.toNat, fl.txid.toNat) ∉ (at17 x).dev.txids ∧ 1 ≤ fl.size.toNat ∧ fl.size.toNat ≤ 200 ∧ fl.addr.toNat + fl.size.toNat ≤ (at17 x).partSize fl.ten.toNat ∧
      (at17 x).poisoned (memKey ⟨.dev fl.ten.toNat, fl.addr.toNat⟩) fl.size.toNat = false) ∧
    admitted (linked []) (request 7 0x7FF 8 0) ∧ bits (0x7FF : BitVec 64).toNat 8 3 ∈ (linked []).stacksOf 1 ∧ ¬ admitted State.reset (request 1 0 8 0) := by
  refine ⟨?_, admitted_of rfl (request_tag ..) (by decide +kernel), by decide +kernel, fun h => h.1 rfl⟩
  intro x hx
  simp only [asked1, List.mem_cons, List.not_mem_nil, or_false] at hx
  rcases hx with rfl | rfl | rfl | rfl <;>
    exact ⟨admitted_of rfl (request_tag ..) (by decide +kernel), by decide +kernel, by decide +kernel, by decide +kernel, rfl, by decide +kernel⟩

theorem witness_LinksAndPorts_ports : ((linked []).portOf 0).redo ≠ [] ∧ (∃ j, j < 18 ∧ ((linked []).portOf j).up = true) ∧
    ((linked []).strmOf (8 * 159 + 7)).run = .absent ∧
    openAt { dev := { sec := { life := .manufacture } } } = 3 ∧ openAt State.reset = 0 ∧ 0 < (linked []).partSize 1 := by decide +kernel

/-! ### Decoding and stepping -/

/-- Stream 0 stands at some words, the act to come. -/
def atWords (l : List (Nat × Nat × Nat)) : State := { base with mem := memFor 0 l, sched := [.issue 0 0], dev := { ctxs := [(0, { bind := 0 })] } }
def atAdd : State := atWords [(0, 8, 0x0008018210000000)]
def atVcmp : State := atWords [(0, 8, 0x8039FA0620000100), (8, 8, 2)]

/-- The state in which a word of stream 0's code has been fetched, where that is `w`. -/
def getW (s : State) (pc : Word) (w : Nat) : Option State :=
  match translate s 0 (s.taskAt 0).ctx pc.toNat .x with
  | .ok l _ u => if readN u.mem (memKey l) 8 == w then some u else none
  | _ => none

theorem getW_ex {s : State} {pc : Word} {w : Nat} (h : (getW s pc w).isSome = true) :
    ∃ l e, translate s 0 (s.taskAt 0).ctx pc.toNat .x = .ok l e ((getW s pc w).getD {}) ∧ readN ((getW s pc w).getD {}).mem (memKey l) 8 = w := by
  unfold getW at h ⊢
  cases ht : translate s 0 (s.taskAt 0).ctx pc.toNat .x with
  | ok l e u =>
    simp only [ht] at h ⊢
    by_cases hw : (readN u.mem (memKey l) 8 == w) = true
    · rw [if_pos hw]; exact ⟨l, e, rfl, by simpa using hw⟩
    · rw [if_neg hw] at h; cases h
  | walkFault c => simp [ht] at h
  | attr => simp [ht] at h

/-- Before the fetch, and after the first word's. -/
def sel0 (s : State) : State := select { s with sched := [] } 0
def got1 (s : State) (w : Nat) : State := (getW (sel0 s) (s.strmOf 0).pc w).getD {}

theorem fetched_add : fetched atAdd 0 0 [] 0x0008018210000000 0 (got1 atAdd 0x0008018210000000) := by
  obtain ⟨l, e, h1, h2⟩ := getW_ex (s := sel0 atAdd) (pc := (atAdd.strmOf 0).pc) (w := 0x0008018210000000) (by decide +kernel)
  exact ⟨by decide, rfl, rfl, by decide +kernel, by decide +kernel, by decide +kernel, l, e, _, h1, h2, fun _ => ⟨rfl, rfl⟩, fun h => absurd h (by decide)⟩

theorem fetched_vcmp : fetched atVcmp 0 0 [] 0x8039FA0620000100 2 ((getW (got1 atVcmp 0x8039FA0620000100) ((atVcmp.strmOf 0).pc + 8) 2).getD {}) := by
  obtain ⟨l, e, h1, h2⟩ := getW_ex (s := sel0 atVcmp) (pc := (atVcmp.strmOf 0).pc) (w := 0x8039FA0620000100) (by decide +kernel)
  obtain ⟨l2, e2, h3, h4⟩ := getW_ex (s := got1 atVcmp 0x8039FA0620000100) (pc := (atVcmp.strmOf 0).pc + 8) (w := 2) (by decide +kernel)
  exact ⟨by decide, rfl, rfl, by decide +kernel, by decide +kernel, by decide +kernel, l, e, _, h1, h2, fun h => absurd h (by decide), fun _ => ⟨l2, e2, h3, h4⟩⟩

theorem witness_StepRunsDecoded :
    decodeWords 0x0008018210000000 0 = .ok (.add {} 3 1 2) ∧ decodeWords 0x8039FA0620000100 2 = .ok (.vcmp {} .lt .n32 ⟨3, 1⟩ ⟨0, 0⟩ ⟨2, 0⟩) ∧ noWait atAdd ∧
    bitN (atAdd.ctxOf (atAdd.taskAt 0).ctx).sampctl.toNat 0 = false ∧ (atAdd.ctxOf (atAdd.taskAt 0).ctx).objs = [] ∧ atAdd.dev.pf0.trip = false :=
  ⟨by decide +kernel, by decide +kernel, ⟨by decide +kernel, by decide +kernel⟩, by decide +kernel, by decide +kernel, by decide +kernel⟩

theorem witness_DecodeInvertsEncode : (Instr.nop {}).wf = true ∧ encode (.nop {}) ≠ [] ∧ decode [0, 0, 0, 0, 0, 0, 0, 0, 1] = .ok (.nop {}, [1]) := by decide +kernel

/-- From reset one idle cycle passes. -/
theorem witness_StepKeepsMemory : ({ State.reset with sched := [.idle 1] } : State).memOk ∧ after (step { State.reset with sched := [.idle 1] }) 0 (·.now) = 1 := by
  constructor
  · exact memWf_nil
  · decide +kernel

/-! ### Words, written out from R47, R52 to R68 and the reference entries: every field at its place, with the header varied -/

/-- Major 0x0: first word, second word (0 where there is none) and instruction. -/
def words_sys : List (Nat × Nat × Instr) :=
  [(0x0000000000000000, 0, .nop {}),
   (0x6000200000000000, 0, .halt { sp := true, gap := 2 }),
   (0x0D004F8000000002, 0, .rdcs { sw := true, prd := 5 } 31 .seed),
   (0x1280604600000007, 0, .wrcs { gap := 1, prd := 2, pn := true } .evb 35),
   (0x0000800000003F1F, 0, .setfpc {} 0x3F1F),
   (0x6000A48000000000, 0, .rdcyc { sp := true, gap := 2 } 9),
   (0x0D00C00000000000, 0, .brkpt { sw := true, prd := 5 }),
   (0x1280E00600000002, 0, .tlbinv { gap := 1, prd := 2, pn := true } 3 2),
   (0x0001004200000000, 0, .ctxsave {} 33),
   (0x6001200200000000, 0, .ctxload { sp := true, gap := 2 } 1)]

theorem test_words_sys : ∀ r ∈ words_sys, decodeWords r.1 r.2.1 = .ok r.2.2 := by decide +kernel

/-- Major 0x1: first word, second word (0 where there is none) and instruction. -/
def words_salu : List (Nat × Nat × Instr) :=
  [(0x0D080FC608000000, 0, .add { sw := true, prd := 5 } 31 35 1),
   (0x12882F4410000000, 0, .sub { gap := 1, prd := 2, pn := true } 30 34 2),
   (0x00084EC218000000, 0, .mul {} 29 33 3),
   (0x60086E4020000000, 0, .mulh { sp := true, gap := 2 } 28 32 4),
   (0x0D088DBE28000000, 0, .mulhn { sw := true, prd := 5 } 27 31 5),
   (0x1288AD3C30000000, 0, .div { gap := 1, prd := 2, pn := true } 26 30 6),
   (0x0008CCBA38000000, 0, .divn {} 25 29 7),
   (0x6008EC3840000000, 0, .and { sp := true, gap := 2 } 24 28 8),
   (0x0D090BB648000000, 0, .or { sw := true, prd := 5 } 23 27 9),
   (0x12892B3450000000, 0, .xor { gap := 1, prd := 2, pn := true } 22 26 10),
   (0x00094AB258000000, 0, .andn {} 21 25 11),
   (0x60096A3060000000, 0, .shl { sp := true, gap := 2 } 20 24 12),
   (0x0D0989AE68000000, 0, .shr { sw := true, prd := 5 } 19 23 13),
   (0x1289A92C70000000, 0, .sra { gap := 1, prd := 2, pn := true } 18 22 14)]
  ++ [(0x0009C8AA78000000, 0, .min {} 17 21 15),
   (0x6009E82880000000, 0, .max { sp := true, gap := 2 } 16 20 16),
   (0x0D0A034600000000, 0, .clz { sw := true, prd := 5 } 6 35),
   (0x128A2F8200000000, 0, .popc { gap := 1, prd := 2, pn := true } 31 1),
   (0x000A46442E000000, 0, .sel {} 12 34 5 6)]

theorem test_words_salu : ∀ r ∈ words_salu, decodeWords r.1 r.2.1 = .ok r.2.2 := by decide +kernel

/-- Major 0x2: first word, second word (0 where there is none) and instruction. -/
def words_simm : List (Nat × Nat × Instr) :=
  [(0x60100FA9FFFFFFFF, 0, .addi { sp := true, gap := 2 } 31 20 0x1ffffffff),
   (0x0D102F2BFFFEEEEE, 0, .muli { sw := true, prd := 5 } 30 21 0x1fffeeeee),
   (0x12904EADFFFDDDDD, 0, .andi { gap := 1, prd := 2, pn := true } 29 22 0x1fffddddd),
   (0x00106E2FFFFCCCCC, 0, .ori {} 28 23 0x1fffccccc),
   (0x60108DB1FFFBBBBB, 0, .xori { sp := true, gap := 2 } 27 24 0x1fffbbbbb),
   (0x0D10A1C60000003F, 0, .shli { sw := true, prd := 5 } 3 35 63),
   (0x1290C2440000003E, 0, .shri { gap := 1, prd := 2, pn := true } 4 34 62),
   (0x0010E2C20000003D, 0, .srai {} 5 33 61),
   (0x60110F0100000001, 0, .li { sp := true, gap := 2 } 30 0x100000001),
   (0x0D1121007FFFFFFF, 0, .lih { sw := true, prd := 5 } 2 0x7FFFFFFF),
   (0x12921C4640000000, 0, .cmpeq { gap := 1, prd := 2, pn := true } 7 35 8),
   (0x0012384448000000, 0, .cmpne {} 6 34 9),
   (0x6012544250000000, 0, .cmplt { sp := true, gap := 2 } 5 33 10),
   (0x0D12704058000000, 0, .cmple { sw := true, prd := 5 } 4 32 11)]
  ++ [(0x12928C3E60000000, 0, .cmpltn { gap := 1, prd := 2, pn := true } 3 31 12),
   (0x0012A83C68000000, 0, .cmplen {} 2 30 13),
   (0x6012C43C07FFFFFF, 0, .cmpeqi { sp := true, gap := 2 } 1 30 0x7ffffff),
   (0x0D12E83E07FFFFFE, 0, .cmplti { sw := true, prd := 5 } 2 31 0x7fffffe),
   (0x12930C4007FFFFFD, 0, .cmpltni { gap := 1, prd := 2, pn := true } 3 32 0x7fffffd),
   (0x00141E1000000000, 0, .pand {} 7 4 1),
   (0x60143AA000000000, 0, .por { sp := true, gap := 2 } 6 5 2),
   (0x0D14573000000000, 0, .pxor { sw := true, prd := 5 } 5 6 3),
   (0x12946F0000000000, 0, .pnot { gap := 1, prd := 2, pn := true } 3 6)]

theorem test_words_simm : ∀ r ∈ words_simm, decodeWords r.1 r.2.1 = .ok r.2.2 := by decide +kernel

/-- Major 0x3: first word, second word (0 where there is none) and instruction. -/
def words_smem : List (Nat × Nat × Instr) :=
  [(0x00180F843FFFFFF8, 0, .ld {} .s8 31 2 0x3ffffff8),
   (0x60182F06FFFFFFF9, 0, .st { sp := true, gap := 2 } .n16 30 3 0x3ffffff9),
   (0x0D184E89BFFFFFFA, 0, .lda { sw := true, prd := 5 } .b64 29 4 0x3ffffffa),
   (0x12986E0B7FFFFFFB, 0, .sta { gap := 1, prd := 2, pn := true } .n32 28 5 0x3ffffffb),
   (0x0018838180000FF8, 0, .spld {} 7 4088),
   (0x6018B18180000008, 0, .spst { sp := true, gap := 2 } 35 8),
   (0x0D18C00000000000, 0, .lsmark { sw := true, prd := 5 }),
   (0x1298E000000420C4, 0, .waitc { gap := 1, prd := 2, pn := true } 1 2 3 4),
   (0x001900000000001D, 0, .fence {} .sys .eng)]

theorem test_words_smem : ∀ r ∈ words_smem, decodeWords r.1 r.2.1 = .ok r.2.2 := by decide +kernel

/-- Major 0x4: first word, second word (0 where there is none) and instruction. -/
def words_atom : List (Nat × Nat × Instr) :=
  [(0x60200F831CDC0000, 0, .amo { sp := true, gap := 2 } .fadd false .sys .ar 31 1 35),
   (0x0D20210620160000, 0, .cas { sw := true, prd := 5 } true .core .acq 2 3 4),
   (0x12A0428C3B2A0000, 0, .amoa { gap := 1, prd := 2, pn := true } .minn true .gang .rel 5 6 7),
   (0x0020641250100000, 0, .casa {} false .core .rlx 8 9 10)]

theorem test_words_atom : ∀ r ∈ words_atom, decodeWords r.1 r.2.1 = .ok r.2.2 := by decide +kernel

/-- Major 0x5: first word, second word (0 where there is none) and instruction. -/
def words_flow : List (Nat × Nat × Instr) :=
  [(0x60281C0100000000, 0, .pbr { sp := true, gap := 2 } 7 0x100000000),
   (0x0D28384600000000, 0, .pbrg { sw := true, prd := 5 } 6 35),
   (0x12A8440000000000, 0, .br { gap := 1, prd := 2, pn := true } 1),
   (0x0028703E00000000, 0, .brl {} 4 31),
   (0x60288000000000FF, 0, .trap { sp := true, gap := 2 } 255),
   (0x0D28A00000000000, 0, .tfence { sw := true, prd := 5 }),
   (0x12A8C00180000001, 0, .yield { gap := 1, prd := 2, pn := true } true 0x80000001),
   (0x0028E00000000000, 0, .eret {})]

theorem test_words_flow : ∀ r ∈ words_flow, decodeWords r.1 r.2.1 = .ok r.2.2 := by decide +kernel

/-- Major 0x6: first word, second word (0 where there is none) and instruction. -/
def words_cnt : List (Nat × Nat × Instr) :=
  [(0x603017F87C000000, 0, .twait { sp := true, gap := 2 } .a ⟨255, 62⟩),
   (0x0D302DFF80000000, 0, .bump { sw := true, prd := 5 } .o ⟨191, 15⟩),
   (0x12B040087E000000, 0, .drop { gap := 1, prd := 2, pn := true } .t ⟨1, 63⟩),
   (0x00307C0000000000, 0, .tsync {} .f 128),
   (0x6030881800F00000, 0, .tview { sp := true, gap := 2 } 30 .o 3),
   (0x0D30B1F800000000, 0, .trel { sw := true, prd := 5 } .a 63),
   (0x12B0C1F800060001, 0, .barinit { gap := 1, prd := 2, pn := true } 63 0x20001 true),
   (0x0030E00800000000, 0, .bararr {} 1),
   (0x603101F000000000, 0, .barwait { sp := true, gap := 2 } 62),
   (0x0D31202800000000, 0, .barsync { sw := true, prd := 5 } 5)]

theorem test_words_cnt : ∀ r ∈ words_cnt, decodeWords r.1 r.2.1 = .ok r.2.2 := by decide +kernel

/-- Major 0x7: first word, second word (0 where there is none) and instruction. -/
def words_valu : List (Nat × Nat × Instr) :=
  [(0x12B81FFDE05FB202, 0, .vadd { gap := 1, prd := 2, pn := true } .s64 ⟨254, 15⟩ ⟨2, 63⟩ ⟨100, 1⟩),
   (0x003825F9C09F3304, 0, .vsub {} .f16 ⟨252, 14⟩ ⟨4, 62⟩ ⟨102, 2⟩),
   (0x603857F5A0DEB406, 0, .vmul { sp := true, gap := 2 } .n16 ⟨250, 13⟩ ⟨6, 61⟩ ⟨104, 3⟩),
   (0x0D3891F1811E3508, 0, .vmin { sw := true, prd := 5 } .s8 ⟨248, 12⟩ ⟨8, 60⟩ ⟨106, 4⟩),
   (0x12B8A3ED615DB60A, 0, .vmax { gap := 1, prd := 2, pn := true } .bf16 ⟨246, 11⟩ ⟨10, 59⟩ ⟨108, 5⟩),
   (0x00390FE9419D370C, 0, .vand {} .e2m1 ⟨244, 10⟩ ⟨12, 58⟩ ⟨110, 6⟩),
   (0x60393FE521DCB80E, 0, .vor { sp := true, gap := 2 } .s64 ⟨242, 9⟩ ⟨14, 57⟩ ⟨112, 7⟩),
   (0x0D395DE1021C3910, 0, .vxor { sw := true, prd := 5 } .s4 ⟨240, 8⟩ ⟨16, 56⟩ ⟨114, 8⟩),
   (0x12B999DCE25BBA12, 0, .vshl { gap := 1, prd := 2, pn := true } .s32 ⟨238, 7⟩ ⟨18, 55⟩ ⟨116, 9⟩),
   (0x0039B3D8C29B3B14, 0, .vshr {} .n8 ⟨236, 6⟩ ⟨20, 54⟩ ⟨118, 10⟩),
   (0x6039DFD4A2DABC16, 0, .vsra { sp := true, gap := 2 } .s64 ⟨234, 5⟩ ⟨22, 53⟩ ⟨120, 11⟩),
   (0x8D3862124103830A, 0xFFFC000000000000, .vfma { sw := true, prd := 5 } .bf16 ⟨9, 2⟩ ⟨8, 7⟩ ⟨6, 5⟩ ⟨255, 63⟩),
   (0x12B8DB9066420000, 0, .vabs { gap := 1, prd := 2, pn := true } .n32 ⟨200, 3⟩ ⟨50, 4⟩),
   (0x0038E19066420000, 0, .vneg {} .f32 ⟨200, 3⟩ ⟨50, 4⟩)]
  ++ [(0x6039699066420000, 0, .vnot { sp := true, gap := 2 } .e5m2 ⟨200, 3⟩ ⟨50, 4⟩),
   (0x8D39F40FE1008484, 0x5, .vcmp { sw := true, prd := 5 } .ge .s16 ⟨7, 15⟩ ⟨8, 1⟩ ⟨9, 2⟩),
   (0x92BA1E0420810306, 0x810000000000000, .vsel { gap := 1, prd := 2, pn := true } .s64 ⟨2, 1⟩ ⟨4, 2⟩ ⟨6, 3⟩ ⟨8, 4⟩),
   (0x003A2BFE20004600, 0, .vbcast {} .e3m2 ⟨255, 1⟩ 35),
   (0x603A5E3E1FDF43FF, 0, .vlane { sp := true, gap := 2 } .s64 31 ⟨254, 62⟩ 33 511),
   (0x0D3A60024062028C, 0, .vperm { sw := true, prd := 5 } ⟨1, 2⟩ ⟨3, 4⟩ ⟨5, 6⟩),
   (0x12BA9C9BC0000000, 0, .viota { gap := 1, prd := 2, pn := true } .s4 ⟨77, 14⟩),
   (0x003AB3F43F617E86, 0, .vwmul {} .n8 ⟨250, 1⟩ ⟨251, 2⟩ ⟨253, 3⟩),
   (0x603AD8008022818C, 0, .vwadd { sp := true, gap := 2 } .s32 ⟨0, 4⟩ ⟨1, 5⟩ ⟨3, 6⟩),
   (0x0D3AE0025FFE0000, 0, .vexp2 { sw := true, prd := 5 } ⟨1, 2⟩ ⟨255, 60⟩),
   (0x12BB00047FDE8000, 0, .vrcp { gap := 1, prd := 2, pn := true } ⟨2, 3⟩ ⟨254, 61⟩),
   (0x003B20069FBF0000, 0, .vrsq {} ⟨3, 4⟩ ⟨253, 62⟩),
   (0x603B4008BF9F8000, 0, .vsqrt { sp := true, gap := 2 } ⟨4, 5⟩ ⟨252, 63⟩)]

theorem test_words_valu : ∀ r ∈ words_valu, decodeWords r.1 r.2.1 = .ok r.2.2 := by decide +kernel

/-- Major 0x8: first word, second word (0 where there is none) and instruction. -/
def words_vcvt : List (Nat × Nat × Instr) :=
  [(0x0D400E063F04A800, 0, .vcvt { sw := true, prd := 5 } .e2m1 .f32 5 ⟨3, 1⟩ ⟨248, 9⟩),
   (0x92C02E043F818000, 0x11, .vquant { gap := 1, prd := 2, pn := true } .e2m1 1 ⟨2, 1⟩ ⟨252, 3⟩),
   (0x80405008211F8000, 0xFC3C000000000010, .vquant2 {} .s8 ⟨4, 1⟩ ⟨252, 15⟩ ⟨8, 63⟩),
   (0xE0406DF040C20000, 0x10, .vdeq { sp := true, gap := 2 } .e2m3 0 ⟨248, 2⟩ ⟨6, 4⟩)]

theorem test_words_vcvt : ∀ r ∈ words_vcvt, decodeWords r.1 r.2.1 = .ok r.2.2 := by decide +kernel

/-- Major 0x9: first word, second word (0 where there is none) and instruction. -/
def words_vred : List (Nat × Nat × Instr) :=
  [(0x0D480013E0000000, 0, .vsclr { sw := true, prd := 5 } ⟨9, 15⟩),
   (0x12C82E024062028C, 0, .vstat { gap := 1, prd := 2, pn := true } 7 ⟨1, 2⟩ ⟨3, 4⟩ ⟨5, 6⟩),
   (0x804846024062028C, 0xFF1C000000000000, .vstatw {} 3 ⟨1, 2⟩ ⟨3, 4⟩ ⟨5, 6⟩ ⟨255, 7⟩),
   (0x6048601622C11086, 0, .vsmerge { sp := true, gap := 2 } ⟨11, 1⟩ ⟨22, 2⟩ ⟨33, 3⟩),
   (0x0D4896024062028C, 0, .vsdrain { sw := true, prd := 5 } 3 true ⟨1, 2⟩ ⟨3, 4⟩ ⟨5, 6⟩),
   (0x92C88A024062028C, 0xFE20000F80000001, .vsdrainNorm { gap := 1, prd := 2, pn := true } false ⟨1, 2⟩ ⟨3, 4⟩ ⟨5, 6⟩ ⟨254, 8⟩ 0x80000001 true 7),
   (0x0048BE043FC18000, 0, .vredmax {} .s64 ⟨2, 1⟩ ⟨254, 3⟩),
   (0x6048C4063FE18000, 0, .vredmin { sp := true, gap := 2 } .f16 ⟨3, 1⟩ ⟨255, 3⟩),
   (0x0D48E1FC3F810188, 0, .vhist { sw := true, prd := 5 } ⟨254, 1⟩ ⟨252, 2⟩ ⟨3, 4⟩),
   (0x12C901FE3FA1020A, 0, .vrank { gap := 1, prd := 2, pn := true } ⟨255, 1⟩ ⟨253, 2⟩ ⟨4, 5⟩),
   (0x004920024062028C, 0, .vamerge {} ⟨1, 2⟩ ⟨3, 4⟩ ⟨5, 6⟩),
   (0x6049401121458000, 0, .vafin { sp := true, gap := 2 } ⟨8, 9⟩ ⟨10, 11⟩)]

theorem test_words_vred : ∀ r ∈ words_vred, decodeWords r.1 r.2.1 = .ok r.2.2 := by decide +kernel

/-- Major 0xA: first word, second word (0 where there is none) and instruction. -/
def words_vmem : List (Nat × Nat × Instr) :=
  [(0x0D501DFE3FC147FF, 0, .vld { sw := true, prd := 5 } .s4 ⟨255, 1⟩ ⟨254, 2⟩ 35 511),
   (0x12D021FFE07F8300, 0, .vst { gap := 1, prd := 2, pn := true } ⟨255, 15⟩ 1 256 ⟨3, 63⟩),
   (0x8050560E20010604, 0x100FFFE, .vlds {} .n16 ⟨7, 1⟩ ⟨0, 2⟩ 3 4 65534 256),
   (0x605062024062028C, 0, .vgath { sp := true, gap := 2 } .bf16 ⟨1, 2⟩ ⟨3, 4⟩ ⟨5, 6⟩),
   (0x0D5099FE4062028C, 0, .vscat { sw := true, prd := 5 } .s32 ⟨255, 2⟩ ⟨3, 4⟩ ⟨5, 6⟩),
   (0x12D0A00257E1800F, 0, .vldo { gap := 1, prd := 2, pn := true } ⟨1, 2⟩ ⟨191, 3⟩ 15),
   (0x0050C17E4062000E, 0, .vsto {} ⟨191, 2⟩ 14 ⟨3, 4⟩),
   (0x6050E00DE0000003, 0, .vqrd { sp := true, gap := 2 } ⟨6, 15⟩ 3)]

theorem test_words_vmem : ∀ r ∈ words_vmem, decodeWords r.1 r.2.1 = .ok r.2.2 := by decide +kernel

/-- Major 0xB: first word, second word (0 where there is none) and instruction. -/
def words_mat : List (Nat × Nat × Instr) :=
  [(0x8D58067E37E15F06, 0xDFFFBF, .mma { sw := true, prd := 5 } .e4m3 ⟨63, 1⟩ ⟨191, 2⟩ ⟨190, 3⟩ ⟨63, 62, 127, true, true, 6, false⟩),
   (0x92D8300220410186, 0x3002040, .mmas { gap := 1, prd := 2, pn := true } .s8 ⟨1, 1⟩ ⟨2, 2⟩ ⟨3, 3⟩ ⟨0, 1, 2, false, false, 8, true⟩),
   (0x8058440220410186, 0x281003FBFC087185, .mgath {} .f16 ⟨1, 1⟩ ⟨2, 2⟩ ⟨3, 3⟩ ⟨40, 4⟩ ⟨255, 62⟩ ⟨5, 6, 7, true, false, 0, false⟩ 3),
   (0xE0586E0220410186, 0xFF100007FCF07180, .mgroup { sp := true, gap := 2 } .e2m1 ⟨1, 1⟩ ⟨2, 2⟩ ⟨3, 3⟩ ⟨255, 4⟩ 511 ⟨0, 6, 7, false, true, 7, false⟩),
   (0x0D58800000F80040, 0, .acalloc { sw := true, prd := 5 } 31 64),
   (0x12D8B1F800000000, 0, .acfree { gap := 1, prd := 2, pn := true } 63),
   (0x0058D02800000A19, 0, .acband {} 5 9 0xA1),
   (0x6058F1F700000000, 0, .aczero { sp := true, gap := 2 } ⟨62, 14⟩),
   (0x0D5903F847E09F80, 0, .acdrain { sw := true, prd := 5 } .bf16 3 true 3 true ⟨252, 2⟩ ⟨63, 1⟩),
   (0x12D9207E3F1F0100, 0, .acfill { gap := 1, prd := 2, pn := true } 2 ⟨63, 1⟩ ⟨248, 62⟩)]

theorem test_words_mat : ∀ r ∈ words_mat, decodeWords r.1 r.2.1 = .ok r.2.2 := by decide +kernel

/-- Major 0xC: first word, second word (0 where there is none) and instruction. -/
def words_copy : List (Nat × Nat × Instr) :=
  [(0x00600DF8811BFFC1, 0, .cp {} .o ⟨191, 1⟩ 35 31 127 true),
   (0x606031F80813C003, 0, .cpst { sp := true, gap := 2 } .a 2 30 ⟨63, 4⟩ 3),
   (0x8D60483F80180000, 0xFFF8000000000000, .cpg { sw := true, prd := 5 } ⟨7, 15⟩ 3 ⟨255, 62⟩),
   (0x92E07FF87A200000, 0xFEF0000000000000, .cps { gap := 1, prd := 2, pn := true } 4 ⟨255, 61⟩ ⟨254, 60⟩),
   (0x00608018010BA000, 0, .cpq {} 3 33 29),
   (0x6060BFF800000000, 0, .cppub { sp := true, gap := 2 } .f 255),
   (0x0D60C00000000000, 0, .rfence { sw := true, prd := 5 })]

theorem test_words_copy : ∀ r ∈ words_copy, decodeWords r.1 r.2.1 = .ok r.2.2 := by decide +kernel

/-- Major 0xD: first word, second word (0 where there is none) and instruction. -/
def words_near : List (Nat × Nat × Instr) :=
  [(0x92E81FF8801C6008, 0xFE0800003F000000, .qpost { gap := 1, prd := 2, pn := true } ⟨255, 1⟩ ⟨254, 2⟩ 3 35 8 0x3F000000),
   (0x006827F87C28C000, 0, .kvapp {} 5 6 ⟨255, 62⟩),
   (0x60685FFF01100000, 0, .coll { sp := true, gap := 2 } ⟨255, 14⟩ 34),
   (0x0D68600000390000, 0, .trigarm { sw := true, prd := 5 } 7 8),
   (0x12E8800001180000, 0, .trigclr { gap := 1, prd := 2, pn := true } 35),
   (0x0068A00000494000, 0, .tsend {} 9 10)]

theorem test_words_near : ∀ r ∈ words_near, decodeWords r.1 r.2.1 = .ok r.2.2 := by decide +kernel

/-- Major 0xE: first word, second word (0 where there is none) and instruction. -/
def words_task : List (Nat × Nat × Instr) :=
  [(0x60701C0000000000, 0, .nextit { sp := true, gap := 2 } 7),
   (0x0D70200000000000, 0, .done { sw := true, prd := 5 }),
   (0x12F0404600000000, 0, .spawn { gap := 1, prd := 2, pn := true } 35),
   (0x0070600200000000, 0, .signal {} 1)]

theorem test_words_task : ∀ r ∈ words_task, decodeWords r.1 r.2.1 = .ok r.2.2 := by decide +kernel

/-! ### Ill-formed terms, one for each check (test 5 of R70), and words that are refused (R52, R68, R70) -/

/-- A g field out of range, as destination or as source (R59). -/
def badG : List Instr :=
  [.rdcs {} 32 .fpc, .wrcs {} .fpc 36, .rdcyc {} 33, .tlbinv {} 36 0, .ctxsave {} 36, .ctxload {} 63, .add {} 32 0 0, .sub {} 0 36 0, .sel {} 0 0 36 0, .clz {} 32 0,
   .popc {} 0 36, .addi {} 32 0 0, .li {} 32 0, .cmpeq {} 0 36 0, .cmplen {} 0 0 36, .cmpeqi {} 0 36 0, .ld {} .b64 32 0 0, .st {} .b64 36 0 0, .lda {} .b64 0 36 0,
   .spld {} 32 0, .spst {} 36 0, .amo {} .add true .dev .rlx 32 0 0, .cas {} true .dev .rlx 0 36 0, .pbrg {} 0 36, .brl {} 0 32, .tview {} 32 .t 0,
   .vbcast {} .f32 ⟨0, 0⟩ 36, .vlane {} .f32 32 ⟨0, 0⟩ 0 0, .vld {} .f32 ⟨0, 0⟩ ⟨0, 0⟩ 36 0, .vst {} ⟨0, 0⟩ 36 0 ⟨0, 0⟩, .acalloc {} 32 1, .cp {} .o ⟨0, 0⟩ 36 0 0 false,
   .cpst {} .f 0 32 ⟨0, 0⟩ 0, .cpg {} ⟨0, 0⟩ 36 ⟨0, 0⟩, .cps {} 36 ⟨0, 0⟩ ⟨0, 0⟩, .cpq {} 0 0 32, .qpost {} ⟨0, 0⟩ ⟨0, 0⟩ 36 0 1 0, .kvapp {} 0 36 ⟨0, 0⟩, .coll {} ⟨0, 0⟩ 36,
   .trigarm {} 36 0, .trigclr {} 36, .tsend {} 36 0, .spawn {} 36, .signal {} 36]
/-- An immediate, an option, a scope or a count out of range. -/
def badImm : List Instr :=
  [.setfpc {} 0x20, .tlbinv {} 0 3, .shli {} 0 0 64, .shri {} 0 0 64, .srai {} 0 0 64, .lih {} 0 0x80000000, .spld {} 0 4096, .spst {} 0 4, .amo {} .add true .strm .rlx 0 0 0,
   .amo {} .fadd true .dev .rlx 0 0 0, .cas {} true .strm .rlx 0 0 0, .amoa {} .add true .die .rlx 0 0 0, .amoa {} .fadd true .core .rlx 0 0 0, .casa {} true .dev .rlx 0 0 0,
   .barinit {} 0 0 false, .vcvt {} .f32 .s32 6 ⟨0, 0⟩ ⟨0, 0⟩, .vcvt {} .f32 .s32 5 ⟨0, 0⟩ ⟨0, 0⟩, .vquant {} .e4m3 2 ⟨0, 0⟩ ⟨0, 0⟩, .vdeq {} .e4m3 2 ⟨0, 0⟩ ⟨0, 0⟩,
   .vstat {} 8 ⟨0, 0⟩ ⟨0, 0⟩ ⟨0, 0⟩, .vstatw {} 8 ⟨0, 0⟩ ⟨0, 0⟩ ⟨0, 0⟩ ⟨0, 0⟩, .vsdrain {} 5 false ⟨0, 0⟩ ⟨0, 0⟩ ⟨0, 0⟩, .vsdrain {} 0 false ⟨0, 0⟩ ⟨0, 0⟩ ⟨1, 0⟩,
   .vsdrainNorm {} false ⟨0, 0⟩ ⟨0, 0⟩ ⟨0, 0⟩ ⟨1, 0⟩ 0 false 0, .vlds {} .f32 ⟨0, 0⟩ ⟨0, 0⟩ 0 0 0 1, .vlds {} .f32 ⟨0, 0⟩ ⟨0, 0⟩ 0 0 4 129, .vldo {} ⟨0, 0⟩ ⟨0, 0⟩ 16,
   .vsto {} ⟨0, 0⟩ 16 ⟨0, 0⟩, .vqrd {} ⟨0, 0⟩ 4, .mma {} .bf16 ⟨0, 0⟩ ⟨0, 0⟩ ⟨0, 0⟩ ⟨0, 0, 0, false, false, 0, true⟩, .mgroup {} .bf16 ⟨0, 0⟩ ⟨0, 0⟩ ⟨0, 0⟩ ⟨0, 0⟩ 0 ⟨1, 0, 0, false, false, 0, false⟩,
   .acalloc {} 0 0, .acalloc {} 0 65, .acdrain {} .s32 0 false 3 false ⟨0, 0⟩ ⟨0, 0⟩, .cp {} .t ⟨0, 0⟩ 0 0 0 false, .cpst {} .o 0 0 ⟨0, 0⟩ 0, .cpst {} .f 0 0 ⟨0, 0⟩ 1, .cpq {} 4 0 0,
   .cppub {} .a 0]
/-- A type that the instruction does not take (R61), or a register that is not a multiple of its span (R138, R159). -/
def badTy : List Instr :=
  [.vadd {} .e4m3 ⟨0, 0⟩ ⟨0, 0⟩ ⟨0, 0⟩, .vsub {} .s64 ⟨1, 0⟩ ⟨0, 0⟩ ⟨0, 0⟩, .vmul {} .s64 ⟨0, 0⟩ ⟨0, 0⟩ ⟨0, 0⟩, .vmin {} .s4 ⟨0, 0⟩ ⟨0, 0⟩ ⟨0, 0⟩, .vand {} .s64 ⟨0, 0⟩ ⟨1, 0⟩ ⟨0, 0⟩,
   .vshl {} .f32 ⟨0, 0⟩ ⟨0, 0⟩ ⟨0, 0⟩, .vwmul {} .f32 ⟨0, 0⟩ ⟨0, 0⟩ ⟨0, 0⟩, .vwadd {} .bf16 ⟨1, 0⟩ ⟨0, 0⟩ ⟨0, 0⟩, .vfma {} .s32 ⟨0, 0⟩ ⟨0, 0⟩ ⟨0, 0⟩ ⟨0, 0⟩, .vabs {} .e5m2 ⟨0, 0⟩ ⟨0, 0⟩,
   .vnot {} .s64 ⟨0, 0⟩ ⟨1, 0⟩, .vcmp {} .eq .s4 ⟨0, 0⟩ ⟨0, 0⟩ ⟨0, 0⟩, .vsel {} .s64 ⟨0, 0⟩ ⟨0, 0⟩ ⟨0, 0⟩ ⟨1, 0⟩, .viota {} .e2m1 ⟨0, 0⟩, .vcvt {} .f32 .bf16 0 ⟨1, 0⟩ ⟨0, 0⟩,
   .vquant {} .f32 0 ⟨0, 0⟩ ⟨0, 0⟩, .vquant {} .e4m3 0 ⟨1, 0⟩ ⟨0, 0⟩, .vquant {} .e4m3 0 ⟨0, 0⟩ ⟨2, 0⟩, .vquant2 {} .e4m3 ⟨4, 0⟩ ⟨4, 0⟩ ⟨0, 0⟩, .vquant2 {} .e4m3 ⟨2, 0⟩ ⟨4, 0⟩ ⟨0, 0⟩,
   .vdeq {} .e4m3 0 ⟨0, 0⟩ ⟨1, 0⟩, .vredmax {} .s4 ⟨0, 0⟩ ⟨0, 0⟩, .vhist {} ⟨1, 0⟩ ⟨0, 0⟩ ⟨0, 0⟩, .vrank {} ⟨0, 0⟩ ⟨0, 0⟩ ⟨1, 0⟩, .vlds {} .s64 ⟨0, 0⟩ ⟨0, 0⟩ 0 0 8 1,
   .vgath {} .s8 ⟨0, 0⟩ ⟨0, 0⟩ ⟨0, 0⟩, .vscat {} .s64 ⟨0, 0⟩ ⟨0, 0⟩ ⟨0, 0⟩, .mma {} .f32 ⟨0, 0⟩ ⟨0, 0⟩ ⟨0, 0⟩ ⟨0, 0, 0, false, false, 0, false⟩,
   .mma {} .bf16 ⟨0, 0⟩ ⟨0, 0⟩ ⟨0, 0⟩ ⟨0, 0, 0, false, true, 0, false⟩, .mmas {} .bf16 ⟨0, 0⟩ ⟨0, 0⟩ ⟨0, 0⟩ ⟨0, 0, 0, false, false, 2, false⟩, .acdrain {} .n8 0 false 0 false ⟨0, 0⟩ ⟨0, 0⟩,
   .acdrain {} .f32 0 false 0 false ⟨4, 0⟩ ⟨0, 0⟩, .acfill {} 0 ⟨0, 0⟩ ⟨4, 0⟩]

theorem test_wf_refuses : ∀ i ∈ badG ++ badImm ++ badTy, i.wf = false := by decide +kernel

/-- Whether words are refused. -/
def refused (w x : Nat) : Bool := !okE (decodeWords w x)

/-- A pair that no table lists; a set bit in a reserved field of each format; L against the opcode; a second word with a reserved bit. -/
theorem test_reserved_refused : ∀ r ∈ ([(0x0001400000000000, 0), (0x0078000000000000, 0), (0x0000000000000001, 0), (0x0000A00000000001, 0), (0x0011C00000000000 + 1, 0),
    (0x0012400000000001, 0), (0x0018C00000000001, 0), (0x0020020AA0420001, 0), (0x0028400001000000, 0), (0x0030180802000000 + 2^31, 0), (0x0038001620000081, 0), (0x003A200220000601, 0),
    (0x8038001620000080, 0), (0x0039E00620000100, 0), (0x8039E00620000100, 8), (0x8058020020000080, 2^26), (0x803A0A0A20200200, 1), (0x8068080080000001, 0x100000000)] : List (Nat × Nat)),
    refused r.1 r.2 = true := by decide +kernel

/-! ### Single steps, with results from the spec's rules and worked examples -/

/-- What g3 reads 20 cycles after the instruction has been executed with g1 and g2 as given. -/
def g3of (a b : Word) (i : Instr) : Word := after (exec i (at0 task0 { strm0 with g := [(1, a), (2, b)] })) 0 fun t => gAt (t.strmOf 0) 120 3
/-- The same of predicate p3. -/
def p3of (a b : Word) (i : Instr) : Bool := after (exec i (at0 task0 { strm0 with g := [(1, a), (2, b)] })) false fun t => pAt (t.strmOf 0) 120 3

/-- R109: sums wrap; the high product is signed; division by 0 gives all ones, and the one overflow wraps; shifts take six bits. -/
theorem test_add_wraps : g3of 0xFFFFFFFFFFFFFFFF 2 (.add {} 3 1 2) = 1 := by decide +kernel
theorem test_sub_borrows : g3of 1 2 (.sub {} 3 1 2) = 0xFFFFFFFFFFFFFFFF := by decide +kernel
theorem test_mulh_signed : g3of 0xFFFFFFFFFFFFFFFF 5 (.mulh {} 3 1 2) = 0xFFFFFFFFFFFFFFFF := by decide +kernel
theorem test_mulhn_natural : g3of 0xFFFFFFFFFFFFFFFF 5 (.mulhn {} 3 1 2) = 4 := by decide +kernel
theorem test_div_by_zero : g3of 7 0 (.div {} 3 1 2) = 0xFFFFFFFFFFFFFFFF := by decide +kernel
theorem test_div_overflow : g3of 0x8000000000000000 0xFFFFFFFFFFFFFFFF (.div {} 3 1 2) = 0x8000000000000000 := by decide +kernel
theorem test_div_truncates : g3of 0xFFFFFFFFFFFFFFF9 2 (.div {} 3 1 2) = 0xFFFFFFFFFFFFFFFD := by decide +kernel
theorem test_shl_six_bits : g3of 3 65 (.shl {} 3 1 2) = 6 := by decide +kernel
theorem test_sra_sign : g3of 0x8000000000000000 63 (.sra {} 3 1 2) = 0xFFFFFFFFFFFFFFFF := by decide +kernel
theorem test_min_signed : g3of 0x8000000000000000 1 (.min {} 3 1 2) = 0x8000000000000000 := by decide +kernel
theorem test_clz_of_zero : g3of 0 0 (.clz {} 3 1) = 64 := by decide +kernel
theorem test_andn : g3of 0xFF 0x0F (.andn {} 3 1 2) = 0xF0 := by decide +kernel
theorem test_sel_takes_a : g3of 7 9 (.sel {} 3 1 2 0) = 7 := by decide +kernel
/-- R110: LI extends its 33 bits; LIH keeps the low 33. -/
theorem test_li_extends : g3of 0 0 (.li {} 3 0x1FFFFFFFF) = 0xFFFFFFFFFFFFFFFF := by decide +kernel
theorem test_srai : g3of 0xFFFFFFFFFFFFFFF0 0 (.srai {} 3 1 2) = 0xFFFFFFFFFFFFFFFC := by decide +kernel
/-- R111: the printed `CMPLTI p2, g4, -1` compares with -1. -/
theorem test_cmplti_minus_one : p3of 0xFFFFFFFFFFFFFFFE 0 (.cmplti {} 3 1 0x7FFFFFF) = true := by decide +kernel
theorem test_cmpltni_natural : p3of 0xFFFFFFFFFFFFFFFE 0 (.cmpltni {} 3 1 0x7FFFFFF) = true ∧ p3of 0xFFFFFFFFFFFFFFFF 0 (.cmpltni {} 3 1 0x7FFFFFF) = false := by decide +kernel
theorem test_pnot : p3of 0 0 (.pnot {} 3 2) = true := by decide +kernel
/-- R59: a write of g0 is discarded. -/
theorem test_g0_discards : after (exec (.li {} 0 5) base) 9 (fun t => gAt (t.strmOf 0) 120 0) = 0 := by decide +kernel
/-- R48: a false guard only issues; R44: a short instruction moves the pc by 8, a long one by 16. -/
theorem test_false_guard : after (exec (.li { prd := 1 } 3 5) base) 9 (fun t => gAt (t.strmOf 0) 120 3) = 0 := by decide +kernel
theorem test_pc_short : after (exec (.nop {}) base) 0 (fun t => (t.strmOf 0).pc) = 8 := by decide +kernel
theorem test_pc_long : after (exec (.vcmp {} .lt .n32 ⟨3, 1⟩ ⟨0, 0⟩ ⟨2, 0⟩) base) 0 (fun t => (t.strmOf 0).pc) = 16 := by decide +kernel
/-- R49: GAP idles the stream. -/
theorem test_gap : after (exec (.nop { gap := 3 }) base) 0 (fun t => (t.strmOf 0).nextIss) = 104 := by decide +kernel

/-! Vector values (R145 to R184): results of the printed procedures. -/

/-- The first 32-bit lane of the first register that an operation writes from these source registers, and its flags. -/
def lane0 (i : Instr) (fpc : BitVec 32) (v : List Nat) : Nat × Nat :=
  match vecVal i fpc [] 0 v with
  | .ok r => (((r.dst.headD []).headD (0, 0, 0)).2.2 % 2^32, r.fl)
  | .error _ => (0, 0)

/-- 1.5 + 2.25 = 3.75. -/
theorem test_vadd_f32 : lane0 (.vadd {} .f32 ⟨2, 1⟩ ⟨0, 0⟩ ⟨1, 0⟩) 0 [0x3FC00000, 0x40100000] = (0x40700000, 0) := by decide +kernel
theorem test_vsub_s32_wraps : (lane0 (.vsub {} .s32 ⟨2, 1⟩ ⟨0, 0⟩ ⟨1, 0⟩) 0 [0, 1]).1 = 0xFFFFFFFF := by decide +kernel
/-- R158: an integer operand gives an exact power of two and no flag; the reciprocal of +0 is +∞. -/
theorem test_vexp2_integer : lane0 (.vexp2 {} ⟨1, 1⟩ ⟨0, 0⟩) 0 [0x40400000] = (0x41000000, 0) := by decide +kernel
theorem test_vrcp_of_zero : (lane0 (.vrcp {} ⟨1, 1⟩ ⟨0, 0⟩) 0 [0]).1 = 0x7F800000 := by decide +kernel
theorem test_vsqrt_of_four : (lane0 (.vsqrt {} ⟨1, 1⟩ ⟨0, 0⟩) 0 [0x40800000]).1 = 0x40000000 := by decide +kernel
/-- R163: -1.5 to s32, to nearest even, is -2; 3e9 is too large. -/
theorem test_vcvt_to_int : (lane0 (.vcvt {} .s32 .f32 0 ⟨1, 1⟩ ⟨0, 0⟩) 0 [0xBFC00000]).1 = 0xFFFFFFFE := by decide +kernel
theorem test_vcvt_saturates : (lane0 (.vcvt {} .s32 .f32 0 ⟨1, 1⟩ ⟨0, 0⟩) 0 [0x4F32D05E]).1 = 0x7FFFFFFF := by decide +kernel
/-- R243: the worked example of stochastic rounding, SEED 1, lanes 0 and 1 (1 + 3 × 2^-9 to bf16). -/
theorem test_vcvt_stochastic : (match vecVal (.vcvt {} .bf16 .f32 5 ⟨2, 1⟩ ⟨0, 0⟩) 0 [] (BitVec.ofNat 4096 (1 + 2^32 * 0x9E3779B8)) [0x3F80C000 * (1 + 2^32), 0] with
    | .ok r => ((r.dst.headD []).headD (0, 0, 0)).2.2 % 2^32
    | .error _ => 0) = 0x3F813F80 := by decide +kernel
/-- R168: the samples 1 and 3 with weight 1 give (1, 1, 0) and then (2, 2, 2); two triples (4, 4, 16) merge to (8, 4, 32) (R171). -/
def triple (r : Except Nat VRes) : List Nat :=
  match r with
  | .ok r => r.dst.map fun l => (l.headD (0, 0, 0)).2.2 % 2^32
  | .error _ => []
theorem test_vstat_update : triple (vecVal (.vstat {} 0 ⟨4, 1⟩ ⟨0, 0⟩ ⟨3, 0⟩) 0 [] 0 [0x3F800000, 0x3F800000, 0, 0x40400000]) = [0x40000000, 0x40000000, 0x40000000] := by decide +kernel
theorem test_vsmerge : triple (vecVal (.vsmerge {} ⟨6, 1⟩ ⟨0, 0⟩ ⟨3, 0⟩) 0 [] 0 [0x40800000, 0x40800000, 0x41800000, 0x40800000, 0x40800000, 0x41800000])
    = [0x41000000, 0x40800000, 0x42000000] := by decide +kernel

/-! Faults and flow. -/

/-- R71, R327: a TRAP enters the handler at EVB + 64 × 0x0E with cause and code. -/
theorem test_trap_enters : after (exec (.trap {} 0x21) traps) (0, 0) (fun t => ((t.strmOf 0).pc.toNat, (t.strmOf 0).finfo.toNat)) = (4096 + 64 * 0x0E, 0x0E + 2^32 * 0x21) := by
  decide +kernel
/-- R125, R126: BRL links the next address and takes the prepared target. -/
theorem test_brl_links : after (exec (.brl {} 1 3) withB) (0, 0) (fun t => ((t.strmOf 0).pc.toNat, (gAt (t.strmOf 0) 120 3).toNat)) = (64, 8) := by decide +kernel
/-- R71: an instruction that only a handler may run faults in task mode with cause 3. -/
theorem test_halt_in_task_mode : after (exec (.halt {}) traps) 0 (fun t => (t.strmOf 0).finfo.toNat % 256) = 3 := by decide +kernel
/-- R375: after the trip the clocks stand. -/
theorem test_clocks_stopped : step { State.reset with dev := { pf0 := { trip := true } }, sched := [.idle 1] } = .fault .clocksStopped := rfl
/-- What the host asks: the words of an ADD, fetched and run as the first instruction after reset. -/
theorem test_first_instruction : after (step (State.reset.withFetchWord 64 0x0008018210000000)) 0 (fun t => (t.strmOf 0).pc) = 8 := by decide +kernel
theorem test_decodeTableWord : decodeTableWord 128 (0x8039FA0620000100 + 2^64 * 2) = some (.vcmp {} .lt .n32 ⟨3, 1⟩ ⟨0, 0⟩ ⟨2, 0⟩) := by decide +kernel

/-- A word that no table lists; a privileged word with a reserved bit in task mode. -/
def illegal (w : Nat) : State := { traps with mem := memFor 0 [(0, 8, w)], sched := [.issue 0 0], dev := { ctxs := [(0, { bind := 0 })] } }

theorem test_unlisted_word : after (step (illegal 0x0001400000000000)) (0, 0) (fun t => ((t.strmOf 0).pc.toNat, (t.strmOf 0).finfo.toNat)) = (4096 + 64, 1) := by decide +kernel
theorem test_privileged_reserved : after (step (illegal 0x0000200000000001)) 0 (fun t => (t.strmOf 0).finfo.toNat) = 3 := by decide +kernel

/-- The unlisted word. -/
def unl : State := illegal 0x0001400000000000

theorem witness_IllegalWordsFault : (∃ v, fetched unl 0 0 [] 0x0001400000000000 0 v) ∧ noWait unl ∧ decodeWords 0x0001400000000000 0 = .error .unlisted ∧
    ∃ m y, (sel0 unl).vectorsTo m y := by
  refine ⟨?_, ⟨by decide +kernel, by decide +kernel⟩, by decide +kernel, ?_⟩
  · obtain ⟨l, e, h1, h2⟩ := getW_ex (s := sel0 unl) (pc := (unl.strmOf 0).pc) (w := 0x0001400000000000) (by decide +kernel)
    exact ⟨_, by decide, rfl, rfl, by decide +kernel, by decide +kernel, by decide +kernel, l, e, _, h1, h2, fun _ => ⟨rfl, rfl⟩, fun h => absurd h (by decide)⟩
  · exact vectorsTo_ex (by decide +kernel) (by decide +kernel)

/-- Words that each test refuses, and are so refused: unlisted, the form of an ADD, a privileged word with a reserved bit, a NOP with one. -/
theorem witness_IllegalWordsFault_order : ∀ r ∈ ([(0x0001400000000000, 1), (0x8008000000000000, 0x13), (0x0000200000000001, 3), (0x0000000000000001, 2)] : List (Nat × Nat)),
    (okE (decodeWords r.1 0) = false) ∧ firstFate r.1 = r.2 := by decide +kernel
end Sys2Proof.Tests
end

namespace Sys2Proof.Machine

/-! ### A new result and the cycles before its own (R89 rule 1) -/

/-- The landings of a cycle before a new one's own are the old ones. -/
theorem filter_due_append (l : List Land) (x : Land) {c : Nat} (h : c < x.due) :
    (l ++ [x]).filter (fun y => decide (y.due ≤ c)) = l.filter fun y => decide (y.due ≤ c) := by
  simp [List.filter_append, h]

/-- A new landing is not read in a cycle before its own. -/
theorem gAt_land_before (st : Stream) (x : Land) (c r : Nat) (h : c < x.due) :
    gAt { st with land := st.land ++ [x] } c r = gAt st c r := by
  unfold gAt
  rw [settle_land, filter_due_append _ _ h]
  exact landAll_congr _ rfl

theorem pAt_land_before (st : Stream) (x : Land) (c i : Nat) (hi : i < 8) (h : c < x.due) :
    pAt { st with land := st.land ++ [x] } c i = pAt st c i := by
  unfold pAt
  rw [settle_land, filter_due_append _ _ h]
  exact landAll_p_congr hi _ rfl

/-! ### SetG at a fixed latency -/

theorem setG_zero (st : Stream) (now : Nat) (v : Word) (lat : Nat) (q : Bool) : setG st now 0 v lat q = st := if_pos rfl

theorem setG_fixed {f : G} (hf : f ≠ 0) (st : Stream) (now : Nat) (v : Word) (lat : Nat) :
    setG st now f v lat false = { st with land := st.land ++ [⟨f.toNat, now + lat, v⟩] } := if_neg hf

/-- The destination of SetG reads the value in the cycle of its landing. -/
theorem gAt_setG_self {f : G} (hf : f ≠ 0) (h : f.toNat < 32) (st : Stream) (now : Nat) (v : Word) (lat : Nat) :
    gAt (setG st now f v lat false) (now + lat) f.toNat = v := by
  rw [setG_fixed hf]
  exact gAt_land_self _ _ _ _ (BitVec.toNat_pos_of_ne_zero hf).ne' h

theorem gAt_setG_before (st : Stream) (now : Nat) (f : G) (v : Word) (lat : Nat) {c : Nat} (h : c < now + lat) (r : Nat) :
    gAt (setG st now f v lat false) c r = gAt st c r := by
  by_cases hf : f = 0
  · rw [hf, setG_zero]
  · rw [setG_fixed hf]; exact gAt_land_before _ _ _ _ h

/-- SetG leaves g0 and every register but its destination. -/
theorem gAt_setG_ne (st : Stream) (now : Nat) (f : G) (v : Word) (lat c : Nat) {r : Nat} (h : r ≠ f.toNat ∨ r = 0) :
    gAt (setG st now f v lat false) c r = gAt st c r := by
  by_cases hf : f = 0
  · rw [hf, setG_zero]
  · have := BitVec.toNat_pos_of_ne_zero hf
    rw [setG_fixed hf]
    exact gAt_land_ne _ _ _ _ (by show f.toNat ≠ r; omega)

theorem pAt_setG (st : Stream) (now : Nat) {f : G} (hf : f.toNat < 32) (v : Word) (lat c : Nat) {i : Nat} (hi : i < 8) :
    pAt (setG st now f v lat false) c i = pAt st c i := by
  by_cases h0 : f = 0
  · rw [h0, setG_zero]
  · rw [setG_fixed h0]
    exact pAt_land_ne _ _ _ _ hi (by show f.toNat ≠ 32 + i; omega)

/-- At a fixed latency SetG changes the landings alone. -/
theorem setG_fixed_frame (st : Stream) (now : Nat) (f : G) (v : Word) (lat : Nat) :
    setG st now f v lat false = { st with land := (setG st now f v lat false).land } := by
  by_cases hf : f = 0
  · rw [hf, setG_zero]
  · rw [setG_fixed hf]

/-! ### SetG of a pending result, SetP -/

/-- A pending SetG adds an arrival and a pending bit, but for g0 (R42, R90). -/
theorem setG_pending (st : Stream) (now : Nat) (f : G) (v : Word) (lat : Nat) :
    setG st now f v lat true = { st with
      pend := if f = 0 then st.pend else st.pend ||| 1 <<< f.toNat
      arr := if f = 0 then st.arr else st.arr ++ [{ reg := f.toNat, due := now + max lat 2, val := v }] } := by
  by_cases hf : f = 0
  · simp only [hf, setG_zero, if_true]
  · simp only [setG, hf, if_false, if_true]

theorem setP_zero (st : Stream) (now : Nat) (v q : Bool) : setP st now 0 v q = st := if_pos rfl

theorem setP_land {f : P} (hf : f ≠ 0) (st : Stream) (now : Nat) (v q : Bool) : setP st now f v q =
    { st with land := st.land ++ [⟨32 + f.toNat, now + if q then 2 else 1, BitVec.ofNat 64 v.toNat⟩] } := if_neg hf

theorem pAt_setP_self {f : P} (hf : f ≠ 0) (st : Stream) (now : Nat) (v q : Bool) :
    pAt (setP st now f v q) (now + if q then 2 else 1) f.toNat = v := by
  rw [setP_land hf, pAt_land_self _ _ _ _ (BitVec.toNat_pos_of_ne_zero hf).ne' f.isLt]
  cases v <;> rfl

theorem pAt_setP_before (st : Stream) (now : Nat) (f : P) (v q : Bool) {c i : Nat} (hi : i < 8)
    (h : c < now + if q then 2 else 1) : pAt (setP st now f v q) c i = pAt st c i := by
  by_cases hf : f = 0
  · rw [hf, setP_zero]
  · rw [setP_land hf]; exact pAt_land_before _ _ _ _ hi h

/-- SetP leaves p0 and every predicate but its destination. -/
theorem pAt_setP_ne (st : Stream) (now : Nat) (f : P) (v q : Bool) (c : Nat) {i : Nat} (hi : i < 8) (h : i ≠ f.toNat ∨ i = 0) :
    pAt (setP st now f v q) c i = pAt st c i := by
  by_cases hf : f = 0
  · rw [hf, setP_zero]
  · have := BitVec.toNat_pos_of_ne_zero hf
    rw [setP_land hf]
    exact pAt_land_ne _ _ _ _ hi (by show 32 + f.toNat ≠ 32 + i; omega)

theorem gAt_setP (st : Stream) (now : Nat) (f : P) (v q : Bool) (c : Nat) {r : Nat} (hr : r < 32) :
    gAt (setP st now f v q) c r = gAt st c r := by
  by_cases hf : f = 0
  · rw [hf, setP_zero]
  · rw [setP_land hf]
    exact gAt_land_ne _ _ _ _ (by show 32 + f.toNat ≠ r; omega)

/-! ### The elements that reading operands takes (R11, R90) -/

/-- Reading a g operand takes one element of the stream register that it names, where there is one behind the claimed ones. -/
theorem readG_q_length (s : State) (st : Stream) (f : G) {n : Nat} (hn : n < 4)
    (h : f.toNat = 32 + n → s.claimed s.cur n < (mget [] st.q n).length) :
    (mget [] (readG s st f).2.q n).length + (if f.toNat = 32 + n then 1 else 0) = (mget [] st.q n).length := by
  unfold readG
  split
  · next hq =>
    simp only [G.isQ, Bool.and_eq_true, decide_eq_true_eq] at hq
    simp only [Stream.popQ, mget_mput]
    by_cases hf : f.toNat = 32 + n
    · have hl := h hf
      rw [show f.toNat - 32 = n by omega]
      simp only [hf, if_true, List.length_append, List.length_take, List.length_drop]
      omega
    · rw [if_neg (by omega), if_neg hf, Nat.add_zero]
  · next hq =>
    have hf : f.toNat ≠ 32 + n := fun e => hq (by simp [G.isQ, e]; omega)
    rw [if_neg hf]
    split <;> rfl

/-- Reading operands takes as many elements of a stream register as there are operands that name it. -/
theorem readGs_q_length (s : State) (l : List G) (st : Stream) {n : Nat} (hn : n < 4)
    (h : l.countP (fun f => f.toNat == 32 + n) ≠ 0 →
      s.claimed s.cur n + l.countP (fun f => f.toNat == 32 + n) ≤ (mget [] st.q n).length) :
    (mget [] (readGs s st l).2.q n).length + l.countP (fun f => f.toNat == 32 + n) = (mget [] st.q n).length := by
  induction l generalizing st with
  | nil => rfl
  | cons f r ih =>
    simp only [List.countP_cons, beq_iff_eq] at h ⊢
    have h1 := readG_q_length s st f hn fun e => by
      rw [if_pos e] at h
      have := h (by omega)
      omega
    have h2 := ih (readG s st f).2 fun hr => by
      have := h (by omega)
      omega
    simp only [readGs]
    omega

/-- Where every element needed is present, the elements taken are those of the operands. -/
theorem readGs_q_length_of_canRead {s : State} {st : Stream} {u : Use} (h : canRead s st u = true) {n : Nat} (hn : n < 4) :
    (mget [] (readGs s st u.srcs).2.q n).length + u.srcs.countP (fun f => f.toNat == 32 + n) = (mget [] st.q n).length := by
  refine readGs_q_length s u.srcs st hn fun hne => ?_
  unfold canRead qReady at h
  simp only [Bool.and_eq_true, List.all_eq_true, List.mem_range, Bool.or_eq_true, beq_iff_eq, decide_eq_true_eq] at h
  exact (h.2 n hn).resolve_left hne

end Sys2Proof.Machine

namespace Sys2Proof.Claim
open Sys2Proof.Machine

/-! ### The opcode of a scalar computation's word (R47) -/

/-- A short word is one word that carries 64 × MAJ + MIN. -/
theorem short_opcode (h : Header) {maj min ops : Nat} (hm : maj < 16) (hn : min < 64) (ho : ops < 2^45) :
    ∃ w, short h maj min ops = [w] ∧ bits w.toNat 45 10 = 64 * maj + min := by
  obtain ⟨lt, rd⟩ := reads h false hm hn ho
  refine ⟨_, rfl, ?_⟩
  have h1 := rd.maj
  have h2 := rd.min
  rw [BitVec.toNat_ofNat, Nat.mod_eq_of_lt lt]
  unfold majOf at h1
  unfold minOf at h2
  unfold bits
  omega

/-- A computation is of the formats SR and SI (R109, R110). -/
theorem encode_aluRow {i : Instr} {r : AluRow} (hi : aluRow i = some r) : ∃ w, encode i = [w] ∧ bits w.toNat 45 10 = scalarCode i := by
  cases i with cases hi
  | add | sub | mul | mulh | mulhn | div | divn | and | or | xor | andn | shl | shr | sra | min | max | clz | popc | sel =>
    exact short_opcode _ (by decide) (by decide) (eSR_lt ..)
  | addi | muli | andi | ori | xori | shli | shri | srai | li | lih => exact short_opcode _ (by decide) (by decide) (eSI_lt ..)

/-- A compare or predicate operation is of the format SC (R111, R112). -/
theorem encode_predRow {i : Instr} {r : PredRow} (hi : predRow i = some r) : ∃ w, encode i = [w] ∧ bits w.toNat 45 10 = scalarCode i := by
  cases i with cases hi
  | cmpeq | cmpne | cmplt | cmple | cmpltn | cmplen | cmpeqi | cmplti | cmpltni => exact short_opcode _ (by decide) (by decide) (eSC_lt ..)
  | pand | por | pxor | pnot => exact short_opcode _ (by decide) (by decide) (eSP_lt ..)

/-! ### The operations of the machine as the spec's numbers (R109 to R111) -/

theorem ofN_toNat (a : Word) : ofN a.toNat = a := by simp [ofN]
theorem ofI_toInt (a : Word) : ofI a.toInt = a := BitVec.ofInt_toInt

theorem add_eq_ofN (a b : Word) : a + b = ofN (a.toNat + b.toNat) := BitVec.add_def a b
theorem mul_eq_ofN (a b : Word) : a * b = ofN (a.toNat * b.toNat) := by simp [ofN, BitVec.ofNat_mul]
theorem add_eq_ofI (a b : Word) : a + b = ofI (a.toInt + b.toInt) := by simp [ofI, BitVec.ofInt_add]
theorem mul_eq_ofI (a b : Word) : a * b = ofI (a.toInt * b.toInt) := by simp [ofI, BitVec.ofInt_mul]
theorem sub_eq_ofI (a b : Word) : a - b = ofI (a.toInt - b.toInt) :=
  BitVec.eq_of_toInt_eq (by rw [ofI, BitVec.toInt_ofInt, BitVec.toInt_sub])

theorem eq_zero_iff_toNat (b : Word) : b = 0 ↔ b.toNat = 0 := ⟨fun h => by rw [h]; rfl, fun h => BitVec.eq_of_toNat_eq h⟩

theorem divS_eq (a b : Word) : divS a b = if b.toNat = 0 then ones else ofI (a.toInt.tdiv b.toInt) := by
  simp only [divS, eq_zero_iff_toNat]; rfl

theorem div_eq_ofN (a b : Word) : a / b = ofN (a.toNat / b.toNat) := by
  rw [← BitVec.toNat_udiv, ofN_toNat]

theorem divN_eq (a b : Word) : divN a b = if b.toNat = 0 then ones else ofN (a.toNat / b.toNat) := by
  simp only [divN, eq_zero_iff_toNat, div_eq_ofN]; rfl

theorem and_eq_ofN (a b : Word) : a &&& b = ofN (a.toNat &&& b.toNat) := by rw [← BitVec.toNat_and, ofN_toNat]
theorem or_eq_ofN (a b : Word) : a ||| b = ofN (a.toNat ||| b.toNat) := by rw [← BitVec.toNat_or, ofN_toNat]
theorem xor_eq_ofN (a b : Word) : a ^^^ b = ofN (a.toNat ^^^ b.toNat) := by rw [← BitVec.toNat_xor, ofN_toNat]
theorem andn_eq_ofN (a b : Word) : a &&& ~~~b = ofN (a.toNat &&& (2^64 - 1 - b.toNat)) := by
  rw [and_eq_ofN, BitVec.toNat_not]

theorem shl_eq_ofN (a : Word) (n : Nat) : a <<< n = ofN (a.toNat * 2^n) := by
  apply BitVec.eq_of_toNat_eq
  rw [ofN, BitVec.toNat_shiftLeft, BitVec.toNat_ofNat, Nat.shiftLeft_eq]

theorem shr_eq_ofN (a : Word) (n : Nat) : a >>> n = ofN (a.toNat / 2^n) := by
  rw [← Nat.shiftRight_eq_div_pow, ← BitVec.toNat_ushiftRight, ofN_toNat]

theorem sra_eq_ofI (a : Word) (n : Nat) : a.sshiftRight n = ofI (a.toInt / 2^n) := by
  rw [BitVec.sshiftRight, ofI, Int.shiftRight_eq_div_pow]; push_cast; rfl

theorem min_eq_ofI (a b : Word) : (if b.slt a then b else a) = ofI (min a.toInt b.toInt) := by
  by_cases h : b.toInt < a.toInt
  · rw [if_pos (BitVec.slt_iff_toInt_lt.2 h), min_eq_right h.le, ofI_toInt]
  · rw [if_neg (mt BitVec.slt_iff_toInt_lt.1 h), min_eq_left (not_lt.1 h), ofI_toInt]

theorem max_eq_ofI (a b : Word) : (if a.slt b then b else a) = ofI (max a.toInt b.toInt) := by
  by_cases h : a.toInt < b.toInt
  · rw [if_pos (BitVec.slt_iff_toInt_lt.2 h), max_eq_right h.le, ofI_toInt]
  · rw [if_neg (mt BitVec.slt_iff_toInt_lt.1 h), max_eq_left (not_lt.1 h), ofI_toInt]

/-- Numbers of a range above a bound. -/
theorem countP_range_lt (m l : Nat) : (List.range m).countP (fun k => l < k) = m - 1 - l := by
  induction m with
  | zero => simp
  | succ m ih =>
    rw [List.range_succ, List.countP_append, ih, List.countP_singleton]
    simp only [decide_eq_true_eq]
    split <;> omega

/-- A word has a leading zero for each power of two above it. -/
theorem clz64_eq_ofN (a : Word) : clz64 a = ofN ((List.range 64).countP fun k => a.toNat < 2^k) := by
  unfold clz64
  split
  · next h => subst h; decide
  · next h =>
    have h0 : a.toNat ≠ 0 := mt (eq_zero_iff_toNat a).2 h
    simp only [← Nat.log2_lt h0, countP_range_lt]
    rfl

theorem popc64_eq_ofN (a : Word) : popc64 a = ofN ((List.range 64).countP a.toNat.testBit) := by
  simp only [popc64, bitN_testBit]; rfl

/-- LIH keeps the low 33 bits below its immediate (R110). -/
theorem lih_eq_ofN (imm : BitVec 33) (a : Word) :
    (imm.setWidth 64 <<< 33) ||| (a &&& 0x1FFFFFFFF) = ofN (imm.toNat * 2^33 + a.toNat % 2^33) := by
  have hlow : (a &&& 0x1FFFFFFFF).toNat = a.toNat % 2^33 := by
    rw [BitVec.toNat_and]; exact Nat.and_two_pow_sub_one_eq_mod a.toNat 33
  have hlt : a.toNat % 2^33 < 2^33 := Nat.mod_lt _ (by positivity)
  have hhigh : (imm.setWidth 64 <<< 33).toNat = (imm.toNat % 2^31) <<< 33 := by
    rw [BitVec.toNat_shiftLeft, BitVec.toNat_setWidth, Nat.shiftLeft_eq, Nat.shiftLeft_eq]
    omega
  apply BitVec.eq_of_toNat_eq
  rw [BitVec.toNat_or, hlow, hhigh, ← Nat.shiftLeft_add_eq_or_of_lt hlt, ofN, BitVec.toNat_ofNat, Nat.shiftLeft_eq]
  omega

theorem toInt_imm33 (imm : BitVec 33) : (imm33 imm).toInt = imm.toInt := BitVec.toInt_signExtend_of_le (by decide)
theorem toInt_imm27 (imm : BitVec 27) : (imm27 imm).toInt = imm.toInt := BitVec.toInt_signExtend_of_le (by decide)

theorem beq_eq_toNat (a b : Word) : (a == b) = decide (a.toNat = b.toNat) := by
  simp only [BitVec.toNat_inj, beq_eq_decide]
theorem beq_eq_toInt (a b : Word) : (a == b) = decide (a.toInt = b.toInt) := by
  simp only [BitVec.toInt_inj, beq_eq_decide]
theorem bne_eq_toNat (a b : Word) : (a != b) = decide (a.toNat ≠ b.toNat) := by
  simp only [bne, beq_eq_toNat, decide_not]

/-! ### Scalar computation (R109, R110) -/

/-- A computation's meaning by its row. -/
def AluRow.run (r : AluRow) (s : State) : Out := alu r.h r.mj r.gd r.srcs r.lat (fun v x => r.val v (x.strmOf x.cur).pr) s

/-- The stream that a computation leaves before its issue is counted. -/
def AluRow.stream (r : AluRow) (s : State) : Stream :=
  setG (readGs s s.start r.srcs).2 s.now r.gd (r.val (readGs s s.me r.srcs).1 s.me.pr) r.lat (r.srcs.any G.isQ)

theorem alu_congr {h : Header} {mj : Nat} {gd : G} {srcs : List G} {lat : Nat} {f g : List Word → State → Word} (s : State)
    (e : ∀ v x, f v x = g v x) : alu h mj gd srcs lat f s = alu h mj gd srcs lat g s := by
  rw [show f = g from funext fun v => funext (e v)]

/-- The dispatch gives each computation the value of its row. -/
theorem exec_aluRow {i : Instr} {r : AluRow} (hi : aluRow i = some r) (s : State) : exec i s = r.run s := by
  cases i with cases hi
  | add => exact alu_congr s fun v _ => add_eq_ofN (arg v 0) (arg v 1)
  | sub => exact alu_congr s fun v _ => sub_eq_ofI (arg v 0) (arg v 1)
  | mul => exact alu_congr s fun v _ => mul_eq_ofN (arg v 0) (arg v 1)
  | div => exact alu_congr s fun v _ => divS_eq (arg v 0) (arg v 1)
  | divn => exact alu_congr s fun v _ => divN_eq (arg v 0) (arg v 1)
  | and => exact alu_congr s fun v _ => and_eq_ofN (arg v 0) (arg v 1)
  | or => exact alu_congr s fun v _ => or_eq_ofN (arg v 0) (arg v 1)
  | xor => exact alu_congr s fun v _ => xor_eq_ofN (arg v 0) (arg v 1)
  | andn => exact alu_congr s fun v _ => andn_eq_ofN (arg v 0) (arg v 1)
  | shl => exact alu_congr s fun v _ => shl_eq_ofN (arg v 0) (shAmt (arg v 1))
  | shr => exact alu_congr s fun v _ => shr_eq_ofN (arg v 0) (shAmt (arg v 1))
  | sra => exact alu_congr s fun v _ => sra_eq_ofI (arg v 0) (shAmt (arg v 1))
  | min => exact alu_congr s fun v _ => min_eq_ofI (arg v 0) (arg v 1)
  | max => exact alu_congr s fun v _ => max_eq_ofI (arg v 0) (arg v 1)
  | clz => exact alu_congr s fun v _ => clz64_eq_ofN (arg v 0)
  | popc => exact alu_congr s fun v _ => popc64_eq_ofN (arg v 0)
  | addi h gd ga imm => exact alu_congr s fun v _ => by rw [add_eq_ofI, toInt_imm33]; rfl
  | muli h gd ga imm => exact alu_congr s fun v _ => by rw [mul_eq_ofI, toInt_imm33]; rfl
  | shli h gd ga imm => exact alu_congr s fun v _ => shl_eq_ofN (arg v 0) (imm.toNat % 64)
  | shri h gd ga imm => exact alu_congr s fun v _ => shr_eq_ofN (arg v 0) (imm.toNat % 64)
  | srai h gd ga imm => exact alu_congr s fun v _ => sra_eq_ofI (arg v 0) (imm.toNat % 64)
  | lih h gd imm => exact alu_congr s fun v _ => lih_eq_ofN imm (arg v 0)
  | mulh | mulhn | sel | andi | ori | xori | li => rfl

/-- A well-formed computation's destination is a g register. -/
theorem aluRow_dst_lt {i : Instr} {r : AluRow} (hi : aluRow i = some r) (hw : i.wf = true) : r.gd.toNat < 32 := by
  suffices h : r.gd.dstOk = true from of_decide_eq_true h
  by_contra h
  cases i with cases hi
  | _ => simp [Instr.wf, h] at hw -- every one of them asks for `dstOk`

/-- Reading operands leaves the predicates. -/
theorem readGs_pr (s : State) (l : List G) : (readGs s s.start l).2.pr = s.me.pr := by
  funext f
  rw [Stream.pr, readGs_p]
  rfl

/-- A computation whose operands are ready issues with its row's value. -/
theorem AluRow.run_issues (r : AluRow) {s : State} (hr : s.runs r.h r.mj)
    (hc : canRead s s.me { srcs := r.srcs, dst := some r.gd } = true) :
    ∃ t, r.run s = .next t ∧ s.issues s r.h (s.me.pc + 8) (r.stream s) t := by
  obtain ⟨t, ht, hs⟩ := alu_issues (f := fun v x => r.val v (x.strmOf x.cur).pr) (lat := r.lat) hr hc
  rw [State.setMe_cur, State.strmOf_setMe, readGs_pr] at hs
  exact ⟨t, ht, hs⟩

theorem AluRow.stream_fixed (r : AluRow) (s : State) (hq : r.srcs.any G.isQ = false) :
    r.stream s = setG s.me s.now r.gd (r.val (readGs s s.me r.srcs).1 s.me.pr) r.lat false := by
  rw [AluRow.stream, hq, readGs_noQ _ _ _ hq]
  rfl

/-- Settles O1: the dispatch gives each computation its row (`exec_aluRow`), its issue gives SetG of the row's value, and SetG is
a landing (`gAt_setG_self` and its kin) or, of a stream register's element, an arrival. -/
theorem scalarResult : Obligations.ScalarResult := by
  unfold Obligations.ScalarResult
  refine ⟨fun i r hi => encode_aluRow hi, fun i r s hi hw hr hc => ?_⟩
  obtain ⟨t, ht, hs⟩ := r.run_issues hr hc
  rw [← exec_aluRow hi] at ht
  have hd := aluRow_dst_lt hi hw
  refine ⟨fun hq => ?_, fun hq => ?_⟩
  · rw [r.stream_fixed s hq] at hs
    exact ⟨t, _, ht, hs, setG_fixed_frame .., fun h0 => gAt_setG_self h0 hd .., fun c h => gAt_setG_before _ _ _ _ _ h _,
      fun c k _ h => gAt_setG_ne _ _ _ _ _ _ h, fun c k h => pAt_setG _ _ hd _ _ _ h⟩
  · have e : r.stream s = { s.start with
        q := (readGs s s.me r.srcs).2.q
        pend := if r.gd = 0 then s.me.pend else s.me.pend ||| 1 <<< r.gd.toNat
        arr := if r.gd = 0 then s.me.arr
          else s.me.arr ++ [{ reg := r.gd.toNat, due := s.now + max r.lat 2, val := r.val (readGs s s.me r.srcs).1 s.me.pr }] } := by
      rw [AluRow.stream, hq, setG_pending, readGs_frame]
      rfl
    rw [e] at hs
    exact ⟨t, _, ht, hs, rfl, rfl, rfl, fun n hn => readGs_q_length_of_canRead hc hn⟩

/-! ### Compares and predicate operations (R111, R112) -/

/-- The stream that a compare or a predicate operation leaves before its issue is counted. -/
def PredRow.stream (r : PredRow) (s : State) : Stream :=
  setP (readGs s s.start r.srcs).2 s.now r.pd (r.val (readGs s s.me r.srcs).1 s.me.pr) (r.srcs.any G.isQ)

/-- A compare that computes its row's value issues. -/
theorem cmp_row_issues {i : Instr} {r : PredRow} {f : List Word → Bool} {s : State} (hx : exec i s = cmp r.h 2 r.pd r.srcs f s)
    (hr : s.runs r.h 2) (hc : canRead s s.me { srcs := r.srcs } = true) (e : ∀ v, f v = r.val v s.me.pr) :
    ∃ t, exec i s = .next t ∧ s.issues s r.h (s.me.pc + 8) (r.stream s) t := by
  rw [hx, PredRow.stream, ← e]
  exact cmp_issues hr hc

/-- A predicate operation that computes its row's value issues. -/
theorem pop2_row_issues {i : Instr} {r : PredRow} {pa pb : P} {f : Bool → Bool → Bool} {s : State}
    (hx : exec i s = pop2 r.h r.pd pa pb f s) (hr : s.runs r.h 2) (hs : r.srcs = [])
    (e : f (s.me.pr pa) (s.me.pr pb) = r.val [] s.me.pr) :
    ∃ t, exec i s = .next t ∧ s.issues s r.h (s.me.pc + 8) (r.stream s) t := by
  simp only [hx, PredRow.stream, hs, readGs, ← e]
  exact pop2_issues hr

/-- The dispatch gives each compare and predicate operation the value of its row. -/
theorem exec_predRow {i : Instr} {r : PredRow} (hi : predRow i = some r) {s : State} (hr : s.runs r.h 2)
    (hc : canRead s s.me { srcs := r.srcs } = true) :
    ∃ t, exec i s = .next t ∧ s.issues s r.h (s.me.pc + 8) (r.stream s) t := by
  cases i with cases hi
  | cmpeq => exact cmp_row_issues (exec_cmpeq ..) hr hc fun v => beq_eq_toNat (arg v 0) (arg v 1)
  | cmpne => exact cmp_row_issues (exec_cmpne ..) hr hc fun v => bne_eq_toNat (arg v 0) (arg v 1)
  | cmplt => exact cmp_row_issues (exec_cmplt ..) hr hc fun v => BitVec.slt_eq_decide
  | cmple => exact cmp_row_issues (exec_cmple ..) hr hc fun v => BitVec.sle_eq_decide
  | cmpltn => exact cmp_row_issues (exec_cmpltn ..) hr hc fun v => BitVec.ult_eq_decide
  | cmplen => exact cmp_row_issues (exec_cmplen ..) hr hc fun v => BitVec.ule_eq_decide
  | cmpeqi => exact cmp_row_issues (exec_cmpeqi ..) hr hc fun v => by rw [beq_eq_toInt, toInt_imm27]; rfl
  | cmplti => exact cmp_row_issues (exec_cmplti ..) hr hc fun v => by rw [BitVec.slt_eq_decide, toInt_imm27]; rfl
  | cmpltni => exact cmp_row_issues (exec_cmpltni ..) hr hc fun v => BitVec.ult_eq_decide
  | pand => exact pop2_row_issues (exec_pand ..) hr rfl rfl
  | por => exact pop2_row_issues (exec_por ..) hr rfl rfl
  | pxor => exact pop2_row_issues (exec_pxor ..) hr rfl rfl
  | pnot => exact pop2_row_issues (exec_pnot ..) hr rfl rfl

/-- Settles O2: the dispatch gives each compare and predicate operation its row (`exec_predRow`), and SetP of the row's value is a
landing of its predicate (`pAt_setP_self` and its kin) on the stream whose operands are read. -/
theorem predicateResult : Obligations.PredicateResult := by
  unfold Obligations.PredicateResult
  refine ⟨fun i r hi => encode_predRow hi, fun i r s hi hr hc => ?_⟩
  obtain ⟨t, ht, hs⟩ := exec_predRow hi hr hc
  have hf : (readGs s s.start r.srcs).2 = { s.start with q := (readGs s s.me r.srcs).2.q } := readGs_frame ..
  have hp : ∀ c k, k < 8 → pAt (readGs s s.start r.srcs).2 c k = pAt s.me c k := fun c k hk =>
    pAt_congr (by rw [hf]; rfl) (by rw [hf]; rfl) c hk
  have hg : ∀ c k, gAt (readGs s s.start r.srcs).2 c k = gAt s.me c k := fun c k =>
    gAt_congr (by rw [hf]; rfl) (by rw [hf]; rfl) c k
  refine ⟨t, _, ht, hs, ?_, fun h0 => pAt_setP_self h0 .., fun c h => ?_, fun c k hk h => ?_, fun c k hk => ?_⟩
  · rw [PredRow.stream, setP_frame, hf]
  · exact (pAt_setP_before _ _ _ _ _ r.pd.isLt h).trans (hp c _ r.pd.isLt)
  · exact (pAt_setP_ne _ _ _ _ _ c hk h).trans (hp c k hk)
  · exact (gAt_setP _ _ _ _ _ c hk).trans (hg c k)

/-! ### RDCYC and RDCS (R103) -/

/-- The stream that acts reads the registers of R92. -/
theorem csrRead_start (s : State) (r : Csr) : csrRead (s.setMe s.start) r = csrValue s r := by
  cases r with
  | fpc | flg | seed => rw [csrRead, State.setMe_cur, State.strmOf_setMe]; exact (BitVec.ofNat_toNat ..).symm
  | win => exact congrArg Task.win (myTask_start s)
  | evb => exact congrArg Task.evb (myTask_start s)
  | finfo => rw [csrRead, State.setMe_cur, State.strmOf_setMe]; rfl
  | cyc => rfl
  | tid =>
    have ht : (s.setMe s.start).taskAt s.cur = s.myTask := myTask_start s
    rw [csrRead, State.setMe_cur, State.tid, ht, State.strmOf_setMe]
    rfl

/-- The stream that acts is replaced as a whole. -/
theorem setMe_start_setMe {s : State} (h : s.me.run = .run) (b : Stream) : (s.setMe s.start).setMe b = s.setMe b :=
  State.setMe_setMe s b h

theorem execRdcyc_eq {h : Header} {gd : G} {s : State} (hr : s.runs h 0) (hc : canRead s s.me { dst := some gd } = true) :
    exec (.rdcyc h gd) s = retire h 8 (s.setMe (setG s.start s.now gd (ofN s.now) 1 false)) := by
  rw [exec_rdcyc, execRdcyc, operands_issue hr hc]
  simp only [readGs, State.setMe_cur, State.strmOf_setMe, State.setMe_now, setMe_start_setMe hr.1.1]
  rfl

theorem execRdcs_eq {h : Header} {gd : G} {r : Csr} {s : State} (hr : s.runs h 0)
    (hc : canRead s s.me { dst := some gd, var := true } = true) :
    exec (.rdcs h gd r) s = retire h 8 (s.setMe (setG s.start s.now gd (csrValue s r) 2 true)) := by
  rw [exec_rdcs, execRdcs, operands_issue hr hc]
  simp only [readGs, State.setMe_cur, State.strmOf_setMe, State.setMe_now, csrRead_start, setGP, setMe_start_setMe hr.1.1]

/-- Settles O5: RDCYC is SetG of the cycle at latency 1 (`gAt_setG_self` and its kin), RDCS a pending SetG of the register's value
(`setG_pending`, `csrRead_start`). -/
theorem registerReadResult : Obligations.RegisterReadResult := by
  unfold Obligations.RegisterReadResult
  refine ⟨fun h gd s hd hr hc => ?_, fun h gd r s hr hc => ?_⟩
  · obtain ⟨t, ht, hs⟩ := retire_at (s := s) h 8 (setG s.start s.now gd (ofN s.now) 1 false) rfl rfl (setG_pc ..)
    exact ⟨t, _, (execRdcyc_eq hr hc).trans ht, hs, setG_fixed_frame .., fun h0 => gAt_setG_self h0 hd ..,
      fun c k _ hk => gAt_setG_ne _ _ _ _ _ _ hk, fun c k hk => pAt_setG _ _ hd _ _ _ hk⟩
  · obtain ⟨t, ht, hs⟩ := retire_at (s := s) h 8 (setG s.start s.now gd (csrValue s r) 2 true) rfl rfl (setG_pc ..)
    rw [setG_pending] at hs
    exact ⟨t, (execRdcs_eq hr hc).trans ht, hs⟩

end Sys2Proof.Claim
